-- ==== Sys2Proof/Word.lean ====
section
/-! DEFINITION. The word types of the GQ-960 and their plainest arithmetic (spec/00_scope.md R2, spec/05_program_state.md R111, R112). -/

namespace Sys2Proof

/-- One byte of memory (R2). -/
abbrev Byte := BitVec 8

/-- One 32-bit register word of a lane, a scalar, or an ashlar cell (R93, R111, R124). -/
abbrev Word := BitVec 32

/-- One 64-bit value, address or instruction word (R57, R86). -/
abbrev DWord := BitVec 64

/-- One bit per lane, lane i in bit i (R112). -/
abbrev Mask := BitVec 96

/-- The number of lanes of a group (R26, R111). -/
abbrev laneCount : Nat := 96

/-- The lanes of a mask, in increasing order. -/
def Mask.lanes (m : Mask) : List Nat := (List.range laneCount).filter (fun i => m.getLsbD i)

/-- The lowest lane of a mask, 0 where the mask is empty. -/
def Mask.lowest (m : Mask) : Nat := (Mask.lanes m).headD 0

/-- The mask that holds exactly the lanes for which p holds. -/
def Mask.ofPred (p : Nat → Bool) : Mask :=
  BitVec.ofNat 96 ((List.range laneCount).foldl (fun acc i => if p i then acc + 2 ^ i else acc) 0)

end Sys2Proof
end

