-- ==== Sys2Proof/Syntax.lean ====
section
/-! DEFINITION. The rows of spec/opcode_table.json as one inductive: the instructions of the seven formats of R87 with their raw fields, and the steps of the device itself (spec/95_what_each_step_holds.md). -/

namespace Sys2Proof

/-- Formats A and X: D, A, B, C, EP, G, MOD (R87). -/
structure FmtA where
  d : BitVec 10
  a : BitVec 10
  b : BitVec 10
  c : BitVec 10
  ep : BitVec 3
  g : BitVec 4
  mod : BitVec 8
  deriving DecidableEq, Repr

/-- Format I: D, A, IMM20, EP, G, MOD (R87). -/
structure FmtI where
  d : BitVec 10
  a : BitVec 10
  imm : BitVec 20
  ep : BitVec 3
  g : BitVec 4
  mod : BitVec 8
  deriving DecidableEq, Repr

/-- Format K: D, IMM32 in [44:13], the bit [12], G, MOD (R87). -/
structure FmtK where
  d : BitVec 10
  imm : BitVec 32
  z : BitVec 1
  g : BitVec 4
  mod : BitVec 8
  deriving DecidableEq, Repr

/-- Format M: D or data, AB, OFF20, EP, G, SCOPE, ORD (R87). -/
structure FmtM where
  d : BitVec 10
  ab : BitVec 10
  off : BitVec 20
  ep : BitVec 3
  g : BitVec 4
  scope : BitVec 4
  ord : BitVec 4
  deriving DecidableEq, Repr

/-- Format C: A in [54:45], DISP30, EP, G, MOD (R87). -/
structure FmtC where
  a : BitVec 10
  disp : BitVec 30
  ep : BitVec 3
  g : BitVec 4
  mod : BitVec 8
  deriving DecidableEq, Repr

/-- Format S: D, A, B, LEVEL, ID, EP, G, MOD (R87). -/
structure FmtS where
  d : BitVec 10
  a : BitVec 10
  b : BitVec 10
  level : BitVec 4
  id : BitVec 6
  ep : BitVec 3
  g : BitVec 4
  mod : BitVec 8
  deriving DecidableEq, Repr

/-- Where a read is served: its home, a snapshot the core's L1 holds, or a guest copy (R133, R134, R144). -/
inductive ReadSrc where
  | home
  | l1 (k : Nat)
  | guest (k : Nat)
  deriving DecidableEq, Repr

/-- What a soft error does to the access that meets it (R23): nothing, a corrected error in a stack or a core, one in
the L2 of a field, or an uncorrectable one in the named array. -/
inductive Upset where
  | none
  | correctable
  | correctableL2
  | hbmUnit
  | l2Dirty
  | coreArray
  | sharedArray
  | translation
  deriving DecidableEq, Repr

/-- One read that a home serves: a lane of a load, a line of a matrix step's operand, a unit of an
engine operation, or the 16-byte unit of a definition image (R147, R246, R255, R362). -/
inductive ReadRef where
  | lane (op lane : Nat)
  | stepLine (step line : Nat)
  | engUnit (op unit : Nat)
  | defUnit (op unit : Nat)
  deriving DecidableEq, Repr

/-- One write that a home performs: a lane of a store, or a unit of an engine operation (R147, R255). -/
inductive WriteRef where
  | lane (op lane : Nat)
  | engUnit (op unit : Nat)
  deriving DecidableEq, Repr

/-- How a training attempt of a Clekai port ends (R419): some lanes pass, at 448 Gb/s or the slower 224 Gb/s, and the
identity exchange brings the partner's package, port and domain; or the attempt fails. -/
inductive TrainResult where
  | linked (lanes : Nat) (slow : Bool) (peerPkg peerPort domain : Nat)
  | attemptFailed
  deriving DecidableEq, Repr

/-- What moves TDISP to ERROR (R408). -/
inductive TdispCause where
  | configChange
  | ideFailure
  | linkDown
  | sessionEnd
  deriving DecidableEq, Repr

/-- The PCIe AtomicOps (R407). -/
inductive HostAtomic where
  | fetchAdd
  | swap
  | cas
  deriving DecidableEq, Repr

/-- How a host request arrives: on which IDE stream, if any, and with or without the T bit (R413). -/
structure Tlp where
  stream : Option Nat
  t : Bool
  deriving DecidableEq, Repr

/-- Every row of spec/opcode_table.json: the instructions, each with the raw fields of its format, and the
steps the device itself makes, each with what it names (which split, access, context, page, port).
A step that no word encodes is a move of its agent; one without an operand of its own acts on State.focus,
the package and the context its move names. -/
inductive Instr where
  /-- IADD (R177): Adds two integer operands per acting lane, wrapping or saturating. -/
  | iadd (w : FmtA)
  /-- IADD_I (R177): Adds a sign-extended 20-bit immediate to an integer operand per acting lane. -/
  | iaddI (w : FmtI)
  /-- ISUB (R177): Subtracts one integer operand from another per acting lane. -/
  | isub (w : FmtA)
  /-- ISUB_I (R177): Subtracts a sign-extended immediate from an integer operand per acting lane. -/
  | isubI (w : FmtI)
  /-- IMUL (R177): Multiplies two integer operands, keeping the low half, wrapped or saturated. -/
  | imul (w : FmtA)
  /-- IMUL_I (R177): Multiplies an integer operand by a sign-extended immediate. -/
  | imulI (w : FmtI)
  /-- IMULH (R177): Writes the upper half of the exact double-width integer product. -/
  | imulh (w : FmtA)
  /-- IMAD (R177): Computes a times b plus c exactly, then wraps or saturates once. -/
  | imad (w : FmtA)
  /-- IABS (R177): Writes the absolute value of a signed integer operand. -/
  | iabs (w : FmtA)
  /-- INEG (R177): Writes the negation of a signed integer operand. -/
  | ineg (w : FmtA)
  /-- IMIN (R177): Writes the smaller of two integer operands under the type. -/
  | imin (w : FmtA)
  /-- IMIN_I (R177): Writes the smaller of an integer operand and an immediate. -/
  | iminI (w : FmtI)
  /-- IMAX (R177): Writes the larger of two integer operands under the type. -/
  | imax (w : FmtA)
  /-- IMAX_I (R177): Writes the larger of an integer operand and an immediate. -/
  | imaxI (w : FmtI)
  /-- AND (R178): Bitwise AND of two operands per acting lane. -/
  | and_ (w : FmtA)
  /-- AND_I (R178): Bitwise AND with a zero-extended immediate. -/
  | andI (w : FmtI)
  /-- OR (R178): Bitwise OR of two operands per acting lane. -/
  | or_ (w : FmtA)
  /-- OR_I (R178): Bitwise OR with a zero-extended immediate. -/
  | orI (w : FmtI)
  /-- XOR (R178): Bitwise XOR of two operands per acting lane. -/
  | xor_ (w : FmtA)
  /-- XOR_I (R178): Bitwise XOR with a zero-extended immediate. -/
  | xorI (w : FmtI)
  /-- ANDN (R178): Bitwise AND of a with the complement of b. -/
  | andn (w : FmtA)
  /-- ANDN_I (R178): Bitwise AND of a with the complement of a zero-extended immediate. -/
  | andnI (w : FmtI)
  /-- NOT (R178): Bitwise complement of an operand. -/
  | not_ (w : FmtA)
  /-- SHL (R178): Logical left shift by a register shift amount. -/
  | shl (w : FmtA)
  /-- SHL_I (R178): Logical left shift by an immediate amount. -/
  | shlI (w : FmtI)
  /-- SHR (R178): Logical right shift by a register shift amount. -/
  | shr (w : FmtA)
  /-- SHR_I (R178): Logical right shift by an immediate amount. -/
  | shrI (w : FmtI)
  /-- SAR (R178): Arithmetic right shift by a register shift amount. -/
  | sar (w : FmtA)
  /-- SAR_I (R178): Arithmetic right shift by an immediate amount. -/
  | sarI (w : FmtI)
  /-- ROL (R178): Rotates left by a register amount modulo the width. -/
  | rol (w : FmtA)
  /-- ROL_I (R178): Rotates left by an immediate amount modulo the width. -/
  | rolI (w : FmtI)
  /-- POPC (R178): Writes the count of one bits as a 32-bit count. -/
  | popc (w : FmtA)
  /-- CLZ (R178): Writes the count of leading zero bits. -/
  | clz (w : FmtA)
  /-- CTZ (R178): Writes the count of trailing zero bits. -/
  | ctz (w : FmtA)
  /-- BREV (R178): Reverses the bit order of an operand. -/
  | brev (w : FmtA)
  /-- BFX (R179): Extracts a bit field given by a control register, sign- or zero-extended. -/
  | bfx (w : FmtA)
  /-- BFX_I (R179): Extracts a bit field given by an immediate control word. -/
  | bfxI (w : FmtI)
  /-- BFI (R179): Inserts the low bits of b into a at a field given by a control operand. -/
  | bfi (w : FmtA)
  /-- SEL (R180): Selects A or B per lane by a register or predicate condition. -/
  | sel (w : FmtA)
  /-- ICMP (R180): Compares two integers and writes a predicate or a mask word. -/
  | icmp (w : FmtA)
  /-- ICMP_I (R180): Compares an integer with an immediate and writes a predicate or mask word. -/
  | icmpI (w : FmtI)
  /-- LEA (R181): Adds a shifted 32-bit index register to a 64-bit address. -/
  | lea (w : FmtA)
  /-- LEA_I (R181): Adds a shifted sign-extended immediate to a 64-bit address. -/
  | leaI (w : FmtI)
  /-- MOV (R181): Copies a register at the type's width, with the mask-write rule for S61 to S63. -/
  | mov (w : FmtA)
  /-- MOVI (R181): Writes a 32-bit immediate into the destination. -/
  | movi (w : FmtK)
  /-- FADD (R183): FP32 addition rounded in the instruction's mode. -/
  | fadd (w : FmtA)
  /-- FADD_I (R183): FP32 addition with an FP32 immediate from IMM20. -/
  | faddI (w : FmtI)
  /-- FSUB (R183): FP32 subtraction rounded in the mode. -/
  | fsub (w : FmtA)
  /-- FSUB_I (R183): FP32 subtraction of an FP32 immediate. -/
  | fsubI (w : FmtI)
  /-- FMUL (R183): FP32 multiplication rounded in the mode. -/
  | fmul (w : FmtA)
  /-- FMUL_I (R183): FP32 multiplication by an FP32 immediate. -/
  | fmulI (w : FmtI)
  /-- FFMA (R183): FP32 fused multiply-add with one rounding. -/
  | ffma (w : FmtA)
  /-- FMIN (R184): Returns the smaller FP32 operand, NaN-avoiding. -/
  | fmin (w : FmtA)
  /-- FMIN_I (R184): Returns the smaller of an FP32 operand and an immediate. -/
  | fminI (w : FmtI)
  /-- FMAX (R184): Returns the larger FP32 operand, NaN-avoiding. -/
  | fmax (w : FmtA)
  /-- FMAX_I (R184): Returns the larger of an FP32 operand and an immediate. -/
  | fmaxI (w : FmtI)
  /-- FCMP (R185): Compares two FP32 values and writes a predicate or mask word. -/
  | fcmp (w : FmtA)
  /-- FCMP_I (R185): Compares an FP32 value with an immediate. -/
  | fcmpI (w : FmtI)
  /-- FCLASS (R186): Writes a one-hot class word for an FP32 encoding. -/
  | fclass (w : FmtA)
  /-- FRND (R187): Rounds an FP32 value to an integral FP32 value in the mode. -/
  | frnd (w : FmtA)
  /-- DADD (R183): FP64 addition, or subtraction with .sub. -/
  | dadd (w : FmtA)
  /-- DMUL (R183): FP64 multiplication. -/
  | dmul (w : FmtA)
  /-- DFMA (R183): FP64 fused multiply-add. -/
  | dfma (w : FmtA)
  /-- DMIN (R184): Returns the smaller FP64 operand. -/
  | dmin (w : FmtA)
  /-- DMAX (R184): Returns the larger FP64 operand. -/
  | dmax (w : FmtA)
  /-- DCMP (R185): Compares two FP64 values. -/
  | dcmp (w : FmtA)
  /-- BADD2 (R188): Adds BF16 pairs element by element. -/
  | badd2 (w : FmtA)
  /-- BMUL2 (R188): Multiplies BF16 pairs element by element. -/
  | bmul2 (w : FmtA)
  /-- BFMA2 (R188): Fused multiply-add on BF16 pairs with one rounding. -/
  | bfma2 (w : FmtA)
  /-- FCVT (R189): Converts between register types, rounding and saturating as required. -/
  | fcvt (dst : BitVec 3) (w : FmtA)
  /-- RCP (R191): FP32 reciprocal within 1 ulp. -/
  | rcp (w : FmtA)
  /-- RSQ (R191): FP32 reciprocal square root. -/
  | rsq (w : FmtA)
  /-- SQRT (R191): FP32 square root. -/
  | sqrt (w : FmtA)
  /-- FDIV (R191): Correctly rounded FP32 division in the mode. -/
  | fdiv (w : FmtA)
  /-- EXP2 (R191): FP32 base-2 exponential. -/
  | exp2 (w : FmtA)
  /-- LOG2 (R191): FP32 base-2 logarithm. -/
  | log2 (w : FmtA)
  /-- EXP (R191): FP32 natural exponential. -/
  | exp (w : FmtA)
  /-- LOG (R191): FP32 natural logarithm. -/
  | log (w : FmtA)
  /-- SIN (R191): FP32 sine. -/
  | sin (w : FmtA)
  /-- COS (R191): FP32 cosine. -/
  | cos (w : FmtA)
  /-- TANH (R191): FP32 hyperbolic tangent. -/
  | tanh (w : FmtA)
  /-- SHFL (R193): Moves 32-bit values between lanes of a segment by a register operand. -/
  | shfl (w : FmtA)
  /-- SHFL_I (R193): Moves 32-bit values between lanes of a segment by an immediate. -/
  | shflI (w : FmtI)
  /-- VOTE (R194): Writes all, any, equal or ballot over the acting lanes into scalars. -/
  | vote (w : FmtA)
  /-- LRED (R196): Reduces the acting lanes of each segment, floats by the pairwise tree. -/
  | lred (w : FmtA)
  /-- LSCAN (R197): Sequential inclusive or exclusive scan over acting lanes of each segment. -/
  | lscan (w : FmtA)
  /-- PAND (R198): Predicate AND, optionally with b negated. -/
  | pand (w : FmtA)
  /-- POR (R198): Predicate OR, optionally with b negated. -/
  | por (w : FmtA)
  /-- PNOT (R198): Predicate complement in acting lanes. -/
  | pnot (w : FmtA)
  /-- PCNT (R198): Counts acting lanes whose predicate bit is 1 into a scalar. -/
  | pcnt (w : FmtA)
  /-- LD (R222): Loads memory into registers per lane, plain, bypassing or acquiring, leaving the destination PENDING. -/
  | ld (ty : BitVec 4) (w : FmtM)
  /-- LDC (R224): Loads 32-bit words from the kernel's constant area. -/
  | ldc (w : FmtM)
  /-- PREF (R225): Hints lines into L1, L2 or the MSC; never traps after decode. -/
  | pref (w : FmtM)
  /-- FENCE (R153): Waits for earlier loads and write CTs, then until the timebase reaches CTMAX plus scope skew. -/
  | fence (w : FmtM)
  /-- FENCES (R154): Records a checkpoint and opens a speculative window that closes at its target tick. -/
  | fences (w : FmtM)
  /-- LDA (R231): Reads tile elements or block scales from the ashlar into a register. -/
  | lda (w : FmtA)
  /-- STA (R233): Writes register elements or block scales into a tile in the ashlar. -/
  | sta (w : FmtA)
  /-- ST (R223): Stores register data to memory per lane, optionally as a release. -/
  | st (ty : BitVec 4) (w : FmtM)
  /-- TILEDEF (R229): Defines a tile table entry over an ashlar rectangle. -/
  | tiledef (w : FmtA)
  /-- TILEREL (R230): Releases a tile entry to FREE, waiting for engine operations on it. -/
  | tilerel (w : FmtA)
  /-- ATOM (R226): Performs an atomic read-modify-write at the home and returns the old value. -/
  | atom (op : BitVec 4) (w : FmtM)
  /-- RED (R228): Performs an atomic operation at the home returning nothing. -/
  | red (op : BitVec 4) (w : FmtM)
  /-- BRA (R201): Branches acting lanes to a relative target, splitting if lanes diverge. -/
  | bra (w : FmtC)
  /-- BRX (R201): Branches each acting lane by a per-lane offset. -/
  | brx (w : FmtC)
  /-- JMPT (R206): Jumps through a jump table in the constant area. -/
  | jmpt (w : FmtC)
  /-- CALL (R204): Branches and pushes the fall-through link on each acting lane's return stack. -/
  | call (w : FmtC)
  /-- CALLI (R204): Indirect call by a per-lane offset, pushing a link. -/
  | calli (w : FmtC)
  /-- RET (R205): Pops each acting lane's link and continues there. -/
  | ret (w : FmtC)
  /-- EXIT (R207): Removes acting lanes from the grid; the split ends when its lane set empties. -/
  | exit (w : FmtC)
  /-- RTE (R213): Leaves the trap handler and resumes at, after, or instead of the trapped word. -/
  | rte (w : FmtC)
  /-- RGN (R209): Opens a clean region, recording its entry, live-ins and generator state. -/
  | rgn (w : FmtI)
  /-- TRAP (R214): Raises the TRAPI trap with an immediate in INFO. -/
  | trap (w : FmtI)
  /-- NOP (R216): Does nothing. -/
  | nop (w : FmtA)
  /-- WAITT (R216): Waits until the timebase reaches an absolute tick. -/
  | waitt (w : FmtA)
  /-- WAITT_D (R216): Waits until the timebase reaches issue time plus a delay. -/
  | waittD (w : FmtA)
  /-- YIELD (R216): Acts as the yield hint on its own clause. -/
  | yield (w : FmtA)
  /-- SRD (R217): Reads a special register into a scalar. -/
  | srd (w : FmtI)
  /-- SWR (R217): Writes a scalar into a writable special register. -/
  | swr (w : FmtI)
  /-- CLK_TB (R216): Reads the 64-bit device timebase into a scalar pair. -/
  | clkTb (w : FmtA)
  /-- CLK_CYC (R216): Reads the field's 64-bit arithmetic cycle count into a scalar pair. -/
  | clkCyc (w : FmtA)
  /-- MMA (R244): Issues a dense matrix step into the open batch, accumulating into a view. -/
  | mma (w : FmtA)
  /-- MMAS (R247): Issues a sparse matrix step with 2:4 or chunk-bitmap compressed B. -/
  | mmas (w : FmtA)
  /-- MCOMMIT (R250): Commits the group's open matrix batch. -/
  | mcommit (w : FmtA)
  /-- MWAIT (R250): Waits until at most n committed batches are outstanding. -/
  | mwait (w : FmtA)
  /-- MZERO (R252): Writes zero into every element of a view. -/
  | mzero (w : FmtA)
  /-- MST (R253): Stores a view to memory or a tile as an engine operation. -/
  | mst (w : FmtA)
  /-- CPY (R259): Copies a linear byte range as an engine operation. -/
  | cpy (w : FmtA)
  /-- CPY2D (R259): Copies strided rows as an engine operation. -/
  | cpy2d (w : FmtA)
  /-- TLD (R260): Loads a whole tile rectangle from memory into the ashlar. -/
  | tld (w : FmtA)
  /-- TST (R260): Stores a whole tile rectangle from the ashlar to memory. -/
  | tst (w : FmtA)
  /-- GATH (R261): Gathers table rows by an index list into a packed destination. -/
  | gath (w : FmtA)
  /-- SCAT (R262): Combines source rows by index and applies them as remote opcodes to table rows. -/
  | scat (w : FmtA)
  /-- ROWPUB (R263): Publishes a row to a memory-homed destination at one instant. -/
  | rowpub (w : FmtA)
  /-- EWAIT (R267): Waits until the eng counter is at most n, then acquires at its scope. -/
  | ewait (w : FmtA)
  /-- COLL (R264): Joins a collective at a tree level: all-reduce, broadcast, all-gather or reduce-scatter. -/
  | coll (w : FmtA)
  /-- CPYG (R415): Issues a sealed copy-in from a host buffer to context memory. -/
  | cpyg (w : FmtA)
  /-- BAR (R343): Arrives at a node barrier phase and waits for it. -/
  | bar (w : FmtS)
  /-- BARA (R343): Arrives at a node barrier phase without waiting. -/
  | bara (w : FmtS)
  /-- BARW (R343): Waits for the phase joined by the member's last BARA. -/
  | barw (w : FmtS)
  /-- ABINIT (R348): Initialises an async barrier object with its expected arrivals. -/
  | abinit (w : FmtS)
  /-- ABARR (R348): Arrives on an async barrier object as a release. -/
  | abarr (w : FmtS)
  /-- ABWAIT (R348): Waits for an async barrier object's phase to differ from a parity, or abort. -/
  | abwait (w : FmtS)
  /-- ABORT (R346): Raises the abort line of the level-k nodes holding acting lanes. -/
  | abort (w : FmtS)
  /-- ABCHK (R346): Reads whether the level-k abort line is seen raised. -/
  | abchk (w : FmtS)
  /-- TREEID (R327): Reads a coordinate, node index, size, fan-out, binding or co-residency of a level. -/
  | treeid (w : FmtS)
  /-- LOOPHD (R324): Samples the abort line and pops work items into lanes whose done bit is set. -/
  | loophd (w : FmtS)
  /-- IDONE (R325): Sets the done bit of each acting lane. -/
  | idone (w : FmtS)
  /-- IPUT (R326): Appends acting lanes' values to the core's item queue. -/
  | iput (w : FmtS)
  /-- LAUNCH (R312): Launches a child grid with a given count as a release. -/
  | launch (w : FmtA)
  /-- LAUNCHI (R312): Launches a child grid whose count is read from a count word. -/
  | launchi (w : FmtA)
  /-- GARM (R300): Atomically increments a queue's arm word as a release. -/
  | garm (w : FmtA)
  /-- CUEW (R301): Atomically adds to a cue word, optionally as a release. -/
  | cuew (w : FmtM)
  /-- ROPLD (R362): Loads a definition image into a slot on every package of the span. -/
  | ropld (w : FmtA)
  /-- ROPDROP (R362): Drops a definition slot on every package of the span. -/
  | ropdrop (w : FmtA)
  /-- ROP (R366): Sends a remote opcode request toward the target line's home. -/
  | rop (w : FmtA)
  /-- ROPR (R366): Sends a remote opcode request that returns a value to a register. -/
  | ropr (w : FmtA)
  /-- MPUSH (R359): Pushes the definition mask and narrows it by a condition. -/
  | mpush (w : FmtA)
  /-- MELSE (R359): Inverts the definition mask against the top entry. -/
  | melse (w : FmtA)
  /-- MPOP (R359): Pops the definition mask stack. -/
  | mpop (w : FmtA)
  /-- NMMODE_ON (R377): Opens an all-bank session on a pseudo-channel. -/
  | nmmodeOn (w : FmtA)
  /-- NMMODE_OFF (R377): Closes the owner's all-bank session. -/
  | nmmodeOff (w : FmtA)
  /-- NMBC (R380): Broadcasts vector elements into the BB arrays of all 16 BMUs. -/
  | nmbc (w : FmtA)
  /-- NMZERO (R380): Zeroes a run of ACC entries in all 16 BMUs. -/
  | nmzero (w : FmtA)
  /-- NMMAC (R381): Sweeps burst columns of a row set, accumulating products into ACC. -/
  | nmmac (w : FmtA)
  /-- NMRD (R382): Reads ACC entries of the 16 BMUs into lanes of a register. -/
  | nmrd (w : FmtA)
  /-- REDGO (R387): Starts a reduction engine sum described by a parameter block. -/
  | redgo (w : FmtA)
  /-- PGHINT (R406): Hints translation, MSC fill, migration or coldness for a run of pages. -/
  | pghint (w : FmtM)
  /-- CLAUSE_FETCH (R80): A ready split fetches and checks a clause header, performs its wait and begins issue. -/
  | clauseFetch (gid split : Nat) (up : Upset)
  /-- SPLIT_HOLD_END (R203): A held split is released after 64 clauses of the other splits. -/
  | splitHoldEnd (gid split : Nat)
  /-- ACTIVE_SET_ENTER (R319): A ready resident group takes a free place in the active set. -/
  | activeSetEnter (gid : Nat)
  /-- ACTIVE_SET_LEAVE (R318): An active group leaves the active set at a clause boundary. -/
  | activeSetLeave (gid : Nat)
  /-- SWAP_TIMEOUT (R318): A resident group ready for 2,048 cycles forces the longest-active group out. -/
  | swapTimeout (gid : Nat)
  /-- WAITTO (R120): A wait reaching its limit traps with WAITTO. -/
  | waitto (gid split : Nat)
  /-- WAITT_EXPIRE (R216): The timebase reaches a WAITT target and the wait ends. -/
  | waittExpire (gid split : Nat)
  /-- FENCE_COMPLETE (R153): A fence's loads and CTs are in and the timebase reaches its target. -/
  | fenceComplete (gid split : Nat)
  /-- FENCES_WINDOW_CLOSE (R154): A FENCES window closes at its target with its loads performed, and the fence completes. -/
  | fencesWindowClose (gid split : Nat)
  /-- FENCES_ROLLBACK (R156): A conflicting write to a registered line restores the checkpoint and re-executes the FENCES. -/
  | fencesRollback (gid split : Nat)
  /-- LOAD_PERFORM (R147): A read is performed at its home in the line's home order. -/
  | loadPerform (ref : ReadRef) (src : ReadSrc) (up : Upset)
  /-- GUEST_COPY_FILL (R144): A leased guest copy of a remote CH line is filled locally. -/
  | guestCopyFill (pkg ctx line lease : Nat)
  /-- GUEST_COPY_EXPIRE (R145): The holder's timebase reaches expiry minus 40 and the guest copy is dropped. -/
  | guestCopyExpire (pkg ctx line : Nat)
  /-- L1_PREFETCH_FILL (R134): The stream prefetcher fills an L1 line from its home. -/
  | l1PrefetchFill (pkg core line : Nat)
  /-- LOAD_DELIVER (R118): A long-latency producer delivers and its PENDING register becomes FULL, or VOID without a result. -/
  | loadDeliver (op : Nat)
  /-- WRITE_PERFORM (R147): A write is performed at its home and given a completion time. -/
  | writePerform (ref : WriteRef) (up : Upset)
  /-- ATOMIC_EXECUTE (R162): An atomic or RED executes at the SUU or CUU of its home. -/
  | atomicExecute (op lane : Nat)
  /-- CT_RETURN (R149): A write's completion time returns and raises CTMAX in every split holding it. -/
  | ctReturn (op : Nat)
  /-- MATRIX_STEP_COMPLETE (R246): A matrix step's products are in its view; tiles leave DRAINING and its batch may complete. -/
  | matrixStepComplete (step : Nat)
  /-- ENGINE_OP_COMPLETE (R255): An engine operation completes: entries freed, arrival made, eng falls, tiles updated. -/
  | engineOpComplete (op : Nat)
  /-- REDGO_EXECUTE (R388): The RDE reads and checks the parameter block and sums the sources into the destination. -/
  | redgoExecute (op : Nat)
  /-- REDGO_FLAG_WRITE (R389): After the destination writes complete, the flag is written as a release and REDGO completes. -/
  | redgoFlagWrite (op : Nat)
  /-- BASE_DIE_LINK_FAIL (R422): A base-die link fails replay sixteen times and becomes FAILED. -/
  | baseDieLinkFail (pkg link : Nat)
  /-- ROP_GRANULE (R368): The home unit executes a remote opcode granule over its footprint. -/
  | ropGranule (op : Nat)
  /-- ROP_COMBINE (R371): Two COMBINE requests merge at a combining point by the combine sub-program. -/
  | ropCombine (earlier later : Nat)
  /-- ROP_ACK (R369): A remote opcode acknowledgement reaches its issuer with CT and status. -/
  | ropAck (op : Nat)
  /-- WINGS_APPEND (R279): A request for a non-resident context is appended to its wings ring, or faults if full. -/
  | wingsAppend (op : Nat)
  /-- NM_COMMAND_EXECUTE (R383): A pseudo-channel's CUU executes a near-memory command and returns its status. -/
  | nmCommandExecute (op : Nat)
  /-- NM_SESSION_TIMEOUT (R377): An all-bank session ends 2^20 ticks after its start. -/
  | nmSessionTimeout (pkg pch : Nat)
  /-- DEFINITION_LOADED (R353): Every package holds the image and the slot becomes LOADED with a new generation. -/
  | definitionLoaded (op : Nat)
  /-- DEFINITION_DROPPED (R353): Every package has finished the slot's requests and the slot becomes EMPTY. -/
  | definitionDropped (op : Nat)
  /-- GROUP_PLACE (R316): The dispatcher places a pending group on a core, debiting headroom. -/
  | groupPlace (inst rank pkg core : Nat)
  /-- GROUP_RETIRE (R316): A group with no lanes, no children and no outstanding accesses retires. -/
  | groupRetire (gid : Nat)
  /-- GROUP_SAVE (R332): A group or co-resident node is saved to the green room by region or full save. -/
  | groupSave (gid : Nat)
  /-- GROUP_RESTORE (R337): A saved group or node is restored to cores with new slots. -/
  | groupRestore (gid core : Nat)
  /-- NODE_MOVE (R322): The dispatcher moves a CORE-bound node between cores of one field. -/
  | nodeMove (inst level node core : Nat)
  /-- LAUNCH_VERIFY (R304): A ready launch verifies its image, reads its count and checks its tree. -/
  | launchVerify (inst area : Nat)
  /-- INSTANCE_COMPLETE (R314): A retired instance's completion write is performed and the launcher's kids counter falls. -/
  | instanceComplete (inst : Nat)
  /-- QUEUE_ENTRY_TAKE (R286): The device takes a queue table entry at RUN or on a GEN change. -/
  | queueEntryTake (pkg ctx q : Nat)
  /-- WATCHER_NOTIFY (R288): A memory-side watcher rereads a watched word after a write and passes it on. -/
  | watcherNotify (pkg ctx q : Nat)
  /-- PROMPTER_CHOOSE (R297): At a node boundary the prompter chooses the next queue to walk. -/
  | prompterChoose (pkg ctx q : Nat)
  /-- KERNEL_NODE (R293): A KERNEL node launches a kernel image. -/
  | kernelNode (pkg ctx q : Nat)
  /-- COPY_NODE (R294): A COPY node starts a copy on a field copy engine. -/
  | copyNode (pkg ctx q : Nat)
  /-- WAITCUE_NODE (R292): A WAITCUE node tests a cue word and waits until its condition holds. -/
  | waitcueNode (pkg ctx q : Nat)
  /-- SETCUE_NODE (R292): A SETCUE node sets or adds to a cue word as a release. -/
  | setcueNode (pkg ctx q : Nat)
  /-- COND_NODE (R292): A COND node tests a cue word once and chooses NEXT or ELSE. -/
  | condNode (pkg ctx q : Nat)
  /-- WHILE_NODE (R292): A WHILE node tests a cue word once and chooses BODY or NEXT. -/
  | whileNode (pkg ctx q : Nat)
  /-- JOIN_NODE (R291): A JOIN node waits for every ASYNC node of the run. -/
  | joinNode (pkg ctx q : Nat)
  /-- END_NODE (R299): END counts the run, writes DONE and may send an MSI-X vector. -/
  | endNode (pkg ctx q : Nat)
  /-- EFFPRIO_AGE (R297): Each full millisecond waiting lowers a queue's effective priority level. -/
  | effprioAge (pkg ctx q : Nat)
  /-- CTX_CMD_BAD (R272): A context command with an unassigned OP gives RESULT 5. -/
  | ctxCmdBad (pkg op ctx : Nat)
  /-- CONTEXT_FAULT (R282): A context enters FAULTED and its work on the package is discarded. -/
  | contextFault (pkg ctx : Nat) (up : Upset)
  /-- PACKAGE_UNREACHABLE (R421): A package unreachable for 2^17 ticks faults every context spanning it. -/
  | packageUnreachable (pkg target : Nat)
  /-- KEY (R276): A KEY message delivers a measured context's keys into a key slot. -/
  | key (pkg ctx : Nat) (digest key xfer iv : List Byte)
  /-- GET_CTXMEAS (R276): Returns a signed measurement of a context with the nonce. -/
  | getCtxmeas (pkg ctx : Nat) (nonce : List Byte)
  /-- CHALLENGE (R409): SPDM challenge authentication. -/
  | challenge (pkg : Nat) (nonce : List Byte)
  /-- TDISP_ERROR (R408): A configuration change, IDE failure, link-down or session end moves TDISP to ERROR. -/
  | tdispError (pkg : Nat) (cause : TdispCause)
  /-- HOST_READ (R413): A host read through a window is judged and performed at the line's home. -/
  | hostRead (pkg win off len : Nat) (tlp : Tlp)
  /-- HOST_WRITE (R413): A host write through a window is judged and performed at the line's home. -/
  | hostWrite (pkg win off : Nat) (bytes : List Byte) (tlp : Tlp)
  /-- HOST_ATOMICOP (R413): A PCIe AtomicOp executes at the line's SUU or CUU. -/
  | hostAtomicop (pkg win off width : Nat) (kind : HostAtomic) (operand compare : DWord) (tlp : Tlp)
  /-- CPYG_EXECUTE (R416): A host copy engine checks, reads, authenticates and writes one sealed chunk. -/
  | cpygExecute (op : Nat)
  /-- PG_CMD_BAD (R397): A page command with an unassigned OP gives RESULT 5. -/
  | pgCmdBad (pkg op : Nat)
  /-- MIGRATION_SWITCH (R404): At the switch tick the entries move to the new frames and held requests start. -/
  | migrationSwitch (pkg ctx va : Nat)
  /-- TRAIN (R419): Starts training a Clekai port. -/
  | train (pkg port : Nat)
  /-- DISABLE (R419): Takes a Clekai port DOWN as a loss of every lane. -/
  | disable (pkg port : Nat)
  /-- PORT_TRAINED (R419): Training ends with the port UP, DEGRADED or FAILED. -/
  | portTrained (pkg port : Nat) (result : TrainResult)
  /-- PORT_TRAIN_TIMEOUT (R419): Three training attempts fail within 100 ms and the port is FAILED. -/
  | portTrainTimeout (pkg port : Nat)
  /-- LANE_LOST (R419): A port loses lanes and degrades or fails, moving unacknowledged flits. -/
  | laneLost (pkg port lanes : Nat)
  /-- FLIT_REPLAY (R418): A flit failing FEC or CRC is replayed from the retry buffer. -/
  | flitReplay (pkg port : Nat) (corrected : Bool)
  /-- FIELD_RAMP (R424): A field whose predecessors are ON enters RAMP. -/
  | fieldRamp (pkg fld : Nat)
  /-- FIELD_ON (R423): A ramping field passes its checks and becomes ON, opening seams. -/
  | fieldOn (pkg fld : Nat)
  /-- FIELD_RAMP_TIMEOUT (R423): A field fails or exceeds 2 ms in RAMP and bring-up stops. -/
  | fieldRampTimeout (pkg fld : Nat)
  /-- OVERCURRENT (R423): Rail overcurrent for 20 µs fails the field and faults every resident context. -/
  | overcurrent (pkg fld : Nat)
  /-- PCIE_LINK_TRAINING (R424): Bring-up stage 4 completes when the PCIe link is up, reaching READY. -/
  | pcieLinkTraining (pkg rate width : Nat) (flit : Bool)
  /-- CBA_GRANT (R429): Every microsecond the CBA measures draw and sets each field's grant. -/
  | cbaGrant (pkg : Nat) (draws grants : List Nat)
  /-- REGISTER_WRITE (R5): A host write to a management register with no row of its own. -/
  | registerWrite (pkg off width value : Nat)
  /-- UNASSIGNED_OPCODE (R99): An instruction word whose opcode is unassigned or reserved issues and traps with ILLOP. -/
  | unassignedOpcode (w : DWord)
  /-- IDE_KM (R407): IDE_KM messages inside the SPDM session program IDE stream keys and make streams Secure. -/
  | ideKm (pkg stream : Nat) (secure : Bool)
  /-- GET_VERSION (R409): SPDM version request. -/
  | getVersion
  /-- GET_CAPABILITIES (R409): SPDM capabilities request. -/
  | getCapabilities
  /-- NEGOTIATE_ALGORITHMS (R409): SPDM algorithm negotiation. -/
  | negotiateAlgorithms
  /-- GET_DIGESTS (R409): SPDM certificate digest request. -/
  | getDigests
  /-- GET_CERTIFICATE (R409): SPDM certificate chain request. -/
  | getCertificate
  /-- GET_MEASUREMENTS (R409): SPDM measurement request. -/
  | getMeasurements
  /-- KEY_EXCHANGE (R409): Opens a secured session, ending any earlier one. -/
  | keyExchange
  /-- FINISH (R409): SPDM session finish. -/
  | finish
  /-- END_SESSION (R409): Ends the secured session. -/
  | endSession
  /-- LOCK_INTERFACE_REQUEST (R408): Moves TDISP to CONFIG_LOCKED when the IDE streams are Secure. -/
  | lockInterfaceRequest
  /-- START_INTERFACE_REQUEST (R408): Moves TDISP from CONFIG_LOCKED to RUN. -/
  | startInterfaceRequest
  /-- STOP_INTERFACE_REQUEST (R408): Returns TDISP to CONFIG_UNLOCKED. -/
  | stopInterfaceRequest
  /-- MAP (R395): Installs channel entries for pages and replays their parked accesses. -/
  | map
  /-- UNMAP (R395): Writes back and removes a page's channel entries. -/
  | unmap
  /-- MIGRATE (R404): Begins copying pages to new frames. -/
  | migrate
  /-- RETIRE (R395): Invalidates a page's lines and withdraws its frames. -/
  | retire
  /-- DENY (R402): Ends every access parked on an unmapped or retired page. -/
  | deny
  /-- MODULE_RESET (R423): Module reset returns every field to OFF and starts bring-up. -/
  | moduleReset
  /-- BASE_DIE_LINK_TRAINING (R424): Bring-up stage 2 completes when all eleven base-die links train. -/
  | baseDieLinkTraining
  /-- HBM_TRAINING (R424): Bring-up stage 3 completes when every pseudo-channel passes. -/
  | hbmTraining
  /-- CREATE (R273): Reads and checks a CCB and takes a context number. -/
  | create
  /-- MEASURE (R275): Checks and freezes the configuration and forms the digest. -/
  | measure
  /-- ADMIT (R274): Takes a resident slot, restores definition slots and replays the wings ring. -/
  | admitCtx
  /-- RUN (R277): Lets queues dispatch and restores saved groups. -/
  | run
  /-- STOP (R277): Ends dispatch and saves every group of the context on the package. -/
  | stop
  /-- EVICT (R278): Waits for engines and definitions, saves slots and frees the resident slot. -/
  | evict
  /-- CLEAR (R274): Leaves FAULTED and advances the epoch. -/
  | clear
  /-- TEARDOWN (R284): Discards work, zeroises keys, frees the number and advances the epoch. -/
  | teardown
  /-- PEER (R281): A fault raised on another package of the span faults the context here with cause PEER. -/
  | peer
  /-- FAULT_RECORD_POST (R399): A fault record is posted to the fault queue when room exists, then PUT and the interrupt. -/
  | faultRecordPost
  deriving DecidableEq, Repr

end Sys2Proof
end

