-- ==== Sys2Proof/Decode.lean ====
section
/-! DEFINITION. The decoder, total on every 64-bit word (R86, R87, R98 to R106), and the encoder beside it. -/

namespace Sys2Proof

/-! ## Fields of the formats (R86, R87) -/

/-- The opcode of a word: [63:55]. -/
def opcodeOf (w : DWord) : Nat := (w.extractLsb' 55 9).toNat

def getA (w : DWord) : FmtA where
  d := w.extractLsb' 45 10
  a := w.extractLsb' 35 10
  b := w.extractLsb' 25 10
  c := w.extractLsb' 15 10
  ep := w.extractLsb' 12 3
  g := w.extractLsb' 8 4
  mod := w.extractLsb' 0 8

def getI (w : DWord) : FmtI where
  d := w.extractLsb' 45 10
  a := w.extractLsb' 35 10
  imm := w.extractLsb' 15 20
  ep := w.extractLsb' 12 3
  g := w.extractLsb' 8 4
  mod := w.extractLsb' 0 8

def getK (w : DWord) : FmtK where
  d := w.extractLsb' 45 10
  imm := w.extractLsb' 13 32
  z := w.extractLsb' 12 1
  g := w.extractLsb' 8 4
  mod := w.extractLsb' 0 8

def getM (w : DWord) : FmtM where
  d := w.extractLsb' 45 10
  ab := w.extractLsb' 35 10
  off := w.extractLsb' 15 20
  ep := w.extractLsb' 12 3
  g := w.extractLsb' 8 4
  scope := w.extractLsb' 4 4
  ord := w.extractLsb' 0 4

def getC (w : DWord) : FmtC where
  a := w.extractLsb' 45 10
  disp := w.extractLsb' 15 30
  ep := w.extractLsb' 12 3
  g := w.extractLsb' 8 4
  mod := w.extractLsb' 0 8

def getS (w : DWord) : FmtS where
  d := w.extractLsb' 45 10
  a := w.extractLsb' 35 10
  b := w.extractLsb' 25 10
  level := w.extractLsb' 21 4
  id := w.extractLsb' 15 6
  ep := w.extractLsb' 12 3
  g := w.extractLsb' 8 4
  mod := w.extractLsb' 0 8

/-! ## The opcode map (R98 to R106) -/

/-- Class 0 (R100). -/
def decode0 (op : Nat) (w : DWord) : Instr :=
  match op with
  | 0x1 => .iadd (getA w)
  | 0x2 => .isub (getA w)
  | 0x3 => .imul (getA w)
  | 0x4 => .imulh (getA w)
  | 0x5 => .imad (getA w)
  | 0x6 => .iabs (getA w)
  | 0x7 => .ineg (getA w)
  | 0x8 => .imin (getA w)
  | 0x9 => .imax (getA w)
  | 0xA => .and_ (getA w)
  | 0xB => .or_ (getA w)
  | 0xC => .xor_ (getA w)
  | 0xD => .not_ (getA w)
  | 0xE => .andn (getA w)
  | 0xF => .shl (getA w)
  | 0x10 => .shr (getA w)
  | 0x11 => .sar (getA w)
  | 0x12 => .rol (getA w)
  | 0x13 => .popc (getA w)
  | 0x14 => .clz (getA w)
  | 0x15 => .ctz (getA w)
  | 0x16 => .brev (getA w)
  | 0x17 => .bfx (getA w)
  | 0x18 => .bfi (getA w)
  | 0x19 => .sel (getA w)
  | 0x1A => .icmp (getA w)
  | 0x1B => .lea (getA w)
  | 0x1C => .mov (getA w)
  | 0x21 => .iaddI (getI w)
  | 0x22 => .isubI (getI w)
  | 0x23 => .imulI (getI w)
  | 0x28 => .iminI (getI w)
  | 0x29 => .imaxI (getI w)
  | 0x2A => .andI (getI w)
  | 0x2B => .orI (getI w)
  | 0x2C => .xorI (getI w)
  | 0x2E => .andnI (getI w)
  | 0x2F => .shlI (getI w)
  | 0x30 => .shrI (getI w)
  | 0x31 => .sarI (getI w)
  | 0x32 => .rolI (getI w)
  | 0x37 => .bfxI (getI w)
  | 0x3A => .icmpI (getI w)
  | 0x3B => .leaI (getI w)
  | 0x3C => .movi (getK w)
  | _ => .unassignedOpcode w

/-- Class 1 (R101). -/
def decode1 (op : Nat) (w : DWord) : Instr :=
  if 0x68 ≤ op ∧ op ≤ 0x6E then .fcvt (BitVec.ofNat 3 (op - 0x68)) (getA w)
  else match op with
  | 0x40 => .fadd (getA w)
  | 0x41 => .fsub (getA w)
  | 0x42 => .fmul (getA w)
  | 0x43 => .ffma (getA w)
  | 0x44 => .fmin (getA w)
  | 0x45 => .fmax (getA w)
  | 0x46 => .fcmp (getA w)
  | 0x47 => .fclass (getA w)
  | 0x48 => .frnd (getA w)
  | 0x50 => .dadd (getA w)
  | 0x51 => .dmul (getA w)
  | 0x52 => .dfma (getA w)
  | 0x53 => .dmin (getA w)
  | 0x54 => .dmax (getA w)
  | 0x55 => .dcmp (getA w)
  | 0x58 => .badd2 (getA w)
  | 0x59 => .bmul2 (getA w)
  | 0x5A => .bfma2 (getA w)
  | 0x60 => .faddI (getI w)
  | 0x61 => .fsubI (getI w)
  | 0x62 => .fmulI (getI w)
  | 0x64 => .fminI (getI w)
  | 0x65 => .fmaxI (getI w)
  | 0x66 => .fcmpI (getI w)
  | _ => .unassignedOpcode w

/-- Class 2 (R102). -/
def decode2 (op : Nat) (w : DWord) : Instr :=
  match op with
  | 0x80 => .rcp (getA w)
  | 0x81 => .rsq (getA w)
  | 0x82 => .sqrt (getA w)
  | 0x83 => .fdiv (getA w)
  | 0x84 => .exp2 (getA w)
  | 0x85 => .log2 (getA w)
  | 0x86 => .exp (getA w)
  | 0x87 => .log (getA w)
  | 0x88 => .sin (getA w)
  | 0x89 => .cos (getA w)
  | 0x8A => .tanh (getA w)
  | 0x90 => .shfl (getA w)
  | 0x91 => .vote (getA w)
  | 0x92 => .lred (getA w)
  | 0x93 => .lscan (getA w)
  | 0x98 => .pand (getA w)
  | 0x99 => .por (getA w)
  | 0x9A => .pnot (getA w)
  | 0x9B => .pcnt (getA w)
  | 0xB0 => .shflI (getI w)
  | _ => .unassignedOpcode w

/-- Class 3 (R103). -/
def decode3 (op : Nat) (w : DWord) : Instr :=
  if 0xC0 ≤ op ∧ op ≤ 0xC9 then .ld (BitVec.ofNat 4 (op - 0xC0)) (getM w)
  else if 0xD0 ≤ op ∧ op ≤ 0xD9 then .st (BitVec.ofNat 4 (op - 0xD0)) (getM w)
  else if 0xE0 ≤ op ∧ op ≤ 0xEF then .atom (BitVec.ofNat 4 (op - 0xE0)) (getM w)
  else if 0xF0 ≤ op ∧ op ≤ 0xFB then .red (BitVec.ofNat 4 (op - 0xF0)) (getM w)
  else match op with
  | 0xCA => .ldc (getM w)
  | 0xCB => .pref (getM w)
  | 0xCC => .fence (getM w)
  | 0xCD => .fences (getM w)
  | 0xCE => .lda (getA w)
  | 0xCF => .sta (getA w)
  | 0xDA => .tiledef (getA w)
  | 0xDB => .tilerel (getA w)
  | _ => .unassignedOpcode w

/-- Class 4 (R105). -/
def decode4 (op : Nat) (w : DWord) : Instr :=
  match op with
  | 0x100 => .bra (getC w)
  | 0x101 => .brx (getC w)
  | 0x102 => .jmpt (getC w)
  | 0x103 => .call (getC w)
  | 0x104 => .calli (getC w)
  | 0x105 => .ret (getC w)
  | 0x106 => .exit (getC w)
  | 0x107 => .rte (getC w)
  | 0x108 => .rgn (getI w)
  | 0x109 => .trap (getI w)
  | 0x110 => .nop (getA w)
  | 0x111 => if (getA w).mod.getLsbD 0 then .waittD (getA w) else .waitt (getA w)
  | 0x112 => .yield (getA w)
  | 0x118 => .srd (getI w)
  | 0x119 => .swr (getI w)
  | 0x11A => if (getA w).mod.getLsbD 0 then .clkCyc (getA w) else .clkTb (getA w)
  | _ => .unassignedOpcode w

/-- Class 5 (R105). -/
def decode5 (op : Nat) (w : DWord) : Instr :=
  match op with
  | 0x140 => .mma (getA w)
  | 0x141 => .mmas (getA w)
  | 0x142 => .mcommit (getA w)
  | 0x143 => .mwait (getA w)
  | 0x144 => .mzero (getA w)
  | 0x145 => .mst (getA w)
  | 0x150 => .cpy (getA w)
  | 0x151 => .cpy2d (getA w)
  | 0x152 => .tld (getA w)
  | 0x153 => .tst (getA w)
  | 0x154 => .gath (getA w)
  | 0x155 => .scat (getA w)
  | 0x156 => .rowpub (getA w)
  | 0x157 => .ewait (getA w)
  | 0x158 => .coll (getA w)
  | 0x15C => .cpyg (getA w)
  | _ => .unassignedOpcode w

/-- Class 6 (R106). -/
def decode6 (op : Nat) (w : DWord) : Instr :=
  match op with
  | 0x180 => .bar (getS w)
  | 0x181 => .bara (getS w)
  | 0x182 => .barw (getS w)
  | 0x184 => .abinit (getS w)
  | 0x185 => .abarr (getS w)
  | 0x186 => .abwait (getS w)
  | 0x188 => .abort (getS w)
  | 0x189 => .abchk (getS w)
  | 0x18C => .treeid (getS w)
  | 0x18D => .loophd (getS w)
  | 0x18E => .idone (getS w)
  | 0x18F => .iput (getS w)
  | 0x190 => .launch (getA w)
  | 0x191 => .launchi (getA w)
  | 0x198 => .garm (getA w)
  | 0x199 => .cuew (getM w)
  | _ => .unassignedOpcode w

/-- Class 7 (R106). -/
def decode7 (op : Nat) (w : DWord) : Instr :=
  match op with
  | 0x1C0 => .ropld (getA w)
  | 0x1C1 => .ropdrop (getA w)
  | 0x1C2 => .rop (getA w)
  | 0x1C3 => .ropr (getA w)
  | 0x1C8 => .mpush (getA w)
  | 0x1C9 => .melse (getA w)
  | 0x1CA => .mpop (getA w)
  | 0x1D0 => if (getA w).mod.getLsbD 0 then .nmmodeOn (getA w) else .nmmodeOff (getA w)
  | 0x1D1 => .nmbc (getA w)
  | 0x1D2 => .nmmac (getA w)
  | 0x1D3 => .nmrd (getA w)
  | 0x1D4 => .nmzero (getA w)
  | 0x1D8 => .redgo (getA w)
  | 0x1DC => .pghint (getM w)
  | _ => .unassignedOpcode w

/-- The instruction of a word. Opcodes that R100 to R106 do not list, 0x000, 0x1FF, 0x194 and 0x195 among them,
are unassigned (R99). -/
def decode (w : DWord) : Instr :=
  let op := opcodeOf w
  match op / 64 with
  | 0 => decode0 op w
  | 1 => decode1 op w
  | 2 => decode2 op w
  | 3 => decode3 op w
  | 4 => decode4 op w
  | 5 => decode5 op w
  | 6 => decode6 op w
  | _ => decode7 op w

/-! ## Bytes (R2, R86): an instruction word is 8 bytes, the least significant first -/

/-- Why bytes give no instruction. -/
inductive DecodeError where
  | truncated (have_ : Nat)     -- fewer than 8 bytes
  deriving DecidableEq, Repr

/-- The word that 8 bytes hold. -/
def wordOfBytes (bs : List Byte) : DWord :=
  BitVec.ofNat 64 (bs.foldr (fun b acc => b.toNat + 256 * acc) 0)

/-- Decode the instruction at the head of a byte string, with the bytes left over; total on any bytes. -/
def decodeBytes (bs : List Byte) : Except DecodeError (Instr × List Byte) :=
  if bs.length < 8 then .error (.truncated bs.length)
  else .ok (decode (wordOfBytes (bs.take 8)), bs.drop 8)

/-- The bytes of a word as memory holds them. -/
def bytesOfWord (w : DWord) : List Byte := (List.range 8).map (fun i => w.extractLsb' (8 * i) 8)

/-- The instruction the decoder reads from w, its bits numbered as spec/opcode_table.json numbers them; bits
above nbits are zero. -/
def decodeTableWord (nbits w : Nat) : Option Instr :=
  match decodeBytes (bytesOfWord (BitVec.ofNat 64 (w % 2 ^ nbits))) with
  | .ok (i, _) => some i
  | .error _ => none

/-! ## The encoder (R86, R87, R98 to R106) -/

def putA (op : BitVec 9) (f : FmtA) : DWord := op ++ f.d ++ f.a ++ f.b ++ f.c ++ f.ep ++ f.g ++ f.mod
def putI (op : BitVec 9) (f : FmtI) : DWord := op ++ f.d ++ f.a ++ f.imm ++ f.ep ++ f.g ++ f.mod
def putK (op : BitVec 9) (f : FmtK) : DWord := op ++ f.d ++ f.imm ++ f.z ++ f.g ++ f.mod
def putM (op : BitVec 9) (f : FmtM) : DWord := op ++ f.d ++ f.ab ++ f.off ++ f.ep ++ f.g ++ f.scope ++ f.ord
def putC (op : BitVec 9) (f : FmtC) : DWord := op ++ f.a ++ f.disp ++ f.ep ++ f.g ++ f.mod
def putS (op : BitVec 9) (f : FmtS) : DWord := op ++ f.d ++ f.a ++ f.b ++ f.level ++ f.id ++ f.ep ++ f.g ++ f.mod

/-- The word of an instruction; none for a step of the device, which no word encodes. -/
def encode (i : Instr) : Option DWord :=
  match i with
  | .iadd f => some (putA 0x1 f)
  | .iaddI f => some (putI 0x21 f)
  | .isub f => some (putA 0x2 f)
  | .isubI f => some (putI 0x22 f)
  | .imul f => some (putA 0x3 f)
  | .imulI f => some (putI 0x23 f)
  | .imulh f => some (putA 0x4 f)
  | .imad f => some (putA 0x5 f)
  | .iabs f => some (putA 0x6 f)
  | .ineg f => some (putA 0x7 f)
  | .imin f => some (putA 0x8 f)
  | .iminI f => some (putI 0x28 f)
  | .imax f => some (putA 0x9 f)
  | .imaxI f => some (putI 0x29 f)
  | .and_ f => some (putA 0xA f)
  | .andI f => some (putI 0x2A f)
  | .or_ f => some (putA 0xB f)
  | .orI f => some (putI 0x2B f)
  | .xor_ f => some (putA 0xC f)
  | .xorI f => some (putI 0x2C f)
  | .andn f => some (putA 0xE f)
  | .andnI f => some (putI 0x2E f)
  | .not_ f => some (putA 0xD f)
  | .shl f => some (putA 0xF f)
  | .shlI f => some (putI 0x2F f)
  | .shr f => some (putA 0x10 f)
  | .shrI f => some (putI 0x30 f)
  | .sar f => some (putA 0x11 f)
  | .sarI f => some (putI 0x31 f)
  | .rol f => some (putA 0x12 f)
  | .rolI f => some (putI 0x32 f)
  | .popc f => some (putA 0x13 f)
  | .clz f => some (putA 0x14 f)
  | .ctz f => some (putA 0x15 f)
  | .brev f => some (putA 0x16 f)
  | .bfx f => some (putA 0x17 f)
  | .bfxI f => some (putI 0x37 f)
  | .bfi f => some (putA 0x18 f)
  | .sel f => some (putA 0x19 f)
  | .icmp f => some (putA 0x1A f)
  | .icmpI f => some (putI 0x3A f)
  | .lea f => some (putA 0x1B f)
  | .leaI f => some (putI 0x3B f)
  | .mov f => some (putA 0x1C f)
  | .movi f => some (putK 0x3C f)
  | .fadd f => some (putA 0x40 f)
  | .faddI f => some (putI 0x60 f)
  | .fsub f => some (putA 0x41 f)
  | .fsubI f => some (putI 0x61 f)
  | .fmul f => some (putA 0x42 f)
  | .fmulI f => some (putI 0x62 f)
  | .ffma f => some (putA 0x43 f)
  | .fmin f => some (putA 0x44 f)
  | .fminI f => some (putI 0x64 f)
  | .fmax f => some (putA 0x45 f)
  | .fmaxI f => some (putI 0x65 f)
  | .fcmp f => some (putA 0x46 f)
  | .fcmpI f => some (putI 0x66 f)
  | .fclass f => some (putA 0x47 f)
  | .frnd f => some (putA 0x48 f)
  | .dadd f => some (putA 0x50 f)
  | .dmul f => some (putA 0x51 f)
  | .dfma f => some (putA 0x52 f)
  | .dmin f => some (putA 0x53 f)
  | .dmax f => some (putA 0x54 f)
  | .dcmp f => some (putA 0x55 f)
  | .badd2 f => some (putA 0x58 f)
  | .bmul2 f => some (putA 0x59 f)
  | .bfma2 f => some (putA 0x5A f)
  | .fcvt dst f => some (putA (0x68 + dst.zeroExtend 9) f)
  | .rcp f => some (putA 0x80 f)
  | .rsq f => some (putA 0x81 f)
  | .sqrt f => some (putA 0x82 f)
  | .fdiv f => some (putA 0x83 f)
  | .exp2 f => some (putA 0x84 f)
  | .log2 f => some (putA 0x85 f)
  | .exp f => some (putA 0x86 f)
  | .log f => some (putA 0x87 f)
  | .sin f => some (putA 0x88 f)
  | .cos f => some (putA 0x89 f)
  | .tanh f => some (putA 0x8A f)
  | .shfl f => some (putA 0x90 f)
  | .shflI f => some (putI 0xB0 f)
  | .vote f => some (putA 0x91 f)
  | .lred f => some (putA 0x92 f)
  | .lscan f => some (putA 0x93 f)
  | .pand f => some (putA 0x98 f)
  | .por f => some (putA 0x99 f)
  | .pnot f => some (putA 0x9A f)
  | .pcnt f => some (putA 0x9B f)
  | .ld ty f => some (putM (0xC0 + ty.zeroExtend 9) f)
  | .ldc f => some (putM 0xCA f)
  | .pref f => some (putM 0xCB f)
  | .fence f => some (putM 0xCC f)
  | .fences f => some (putM 0xCD f)
  | .lda f => some (putA 0xCE f)
  | .sta f => some (putA 0xCF f)
  | .st ty f => some (putM (0xD0 + ty.zeroExtend 9) f)
  | .tiledef f => some (putA 0xDA f)
  | .tilerel f => some (putA 0xDB f)
  | .atom op f => some (putM (0xE0 + op.zeroExtend 9) f)
  | .red op f => some (putM (0xF0 + op.zeroExtend 9) f)
  | .bra f => some (putC 0x100 f)
  | .brx f => some (putC 0x101 f)
  | .jmpt f => some (putC 0x102 f)
  | .call f => some (putC 0x103 f)
  | .calli f => some (putC 0x104 f)
  | .ret f => some (putC 0x105 f)
  | .exit f => some (putC 0x106 f)
  | .rte f => some (putC 0x107 f)
  | .rgn f => some (putI 0x108 f)
  | .trap f => some (putI 0x109 f)
  | .nop f => some (putA 0x110 f)
  | .waitt f => some (putA 0x111 f)
  | .waittD f => some (putA 0x111 f)
  | .yield f => some (putA 0x112 f)
  | .srd f => some (putI 0x118 f)
  | .swr f => some (putI 0x119 f)
  | .clkTb f => some (putA 0x11A f)
  | .clkCyc f => some (putA 0x11A f)
  | .mma f => some (putA 0x140 f)
  | .mmas f => some (putA 0x141 f)
  | .mcommit f => some (putA 0x142 f)
  | .mwait f => some (putA 0x143 f)
  | .mzero f => some (putA 0x144 f)
  | .mst f => some (putA 0x145 f)
  | .cpy f => some (putA 0x150 f)
  | .cpy2d f => some (putA 0x151 f)
  | .tld f => some (putA 0x152 f)
  | .tst f => some (putA 0x153 f)
  | .gath f => some (putA 0x154 f)
  | .scat f => some (putA 0x155 f)
  | .rowpub f => some (putA 0x156 f)
  | .ewait f => some (putA 0x157 f)
  | .coll f => some (putA 0x158 f)
  | .cpyg f => some (putA 0x15C f)
  | .bar f => some (putS 0x180 f)
  | .bara f => some (putS 0x181 f)
  | .barw f => some (putS 0x182 f)
  | .abinit f => some (putS 0x184 f)
  | .abarr f => some (putS 0x185 f)
  | .abwait f => some (putS 0x186 f)
  | .abort f => some (putS 0x188 f)
  | .abchk f => some (putS 0x189 f)
  | .treeid f => some (putS 0x18C f)
  | .loophd f => some (putS 0x18D f)
  | .idone f => some (putS 0x18E f)
  | .iput f => some (putS 0x18F f)
  | .launch f => some (putA 0x190 f)
  | .launchi f => some (putA 0x191 f)
  | .garm f => some (putA 0x198 f)
  | .cuew f => some (putM 0x199 f)
  | .ropld f => some (putA 0x1C0 f)
  | .ropdrop f => some (putA 0x1C1 f)
  | .rop f => some (putA 0x1C2 f)
  | .ropr f => some (putA 0x1C3 f)
  | .mpush f => some (putA 0x1C8 f)
  | .melse f => some (putA 0x1C9 f)
  | .mpop f => some (putA 0x1CA f)
  | .nmmodeOn f => some (putA 0x1D0 f)
  | .nmmodeOff f => some (putA 0x1D0 f)
  | .nmbc f => some (putA 0x1D1 f)
  | .nmzero f => some (putA 0x1D4 f)
  | .nmmac f => some (putA 0x1D2 f)
  | .nmrd f => some (putA 0x1D3 f)
  | .redgo f => some (putA 0x1D8 f)
  | .pghint f => some (putM 0x1DC f)
  | .clauseFetch _ _ _ => none
  | .splitHoldEnd _ _ => none
  | .activeSetEnter _ => none
  | .activeSetLeave _ => none
  | .swapTimeout _ => none
  | .waitto _ _ => none
  | .waittExpire _ _ => none
  | .fenceComplete _ _ => none
  | .fencesWindowClose _ _ => none
  | .fencesRollback _ _ => none
  | .loadPerform _ _ _ => none
  | .guestCopyFill _ _ _ _ => none
  | .guestCopyExpire _ _ _ => none
  | .l1PrefetchFill _ _ _ => none
  | .loadDeliver _ => none
  | .writePerform _ _ => none
  | .atomicExecute _ _ => none
  | .ctReturn _ => none
  | .matrixStepComplete _ => none
  | .engineOpComplete _ => none
  | .redgoExecute _ => none
  | .redgoFlagWrite _ => none
  | .baseDieLinkFail _ _ => none
  | .ropGranule _ => none
  | .ropCombine _ _ => none
  | .ropAck _ => none
  | .wingsAppend _ => none
  | .nmCommandExecute _ => none
  | .nmSessionTimeout _ _ => none
  | .definitionLoaded _ => none
  | .definitionDropped _ => none
  | .groupPlace _ _ _ _ => none
  | .groupRetire _ => none
  | .groupSave _ => none
  | .groupRestore _ _ => none
  | .nodeMove _ _ _ _ => none
  | .launchVerify _ _ => none
  | .instanceComplete _ => none
  | .queueEntryTake _ _ _ => none
  | .watcherNotify _ _ _ => none
  | .prompterChoose _ _ _ => none
  | .kernelNode _ _ _ => none
  | .copyNode _ _ _ => none
  | .waitcueNode _ _ _ => none
  | .setcueNode _ _ _ => none
  | .condNode _ _ _ => none
  | .whileNode _ _ _ => none
  | .joinNode _ _ _ => none
  | .endNode _ _ _ => none
  | .effprioAge _ _ _ => none
  | .faultRecordPost => none
  | .create => none
  | .measure => none
  | .admitCtx => none
  | .run => none
  | .stop => none
  | .evict => none
  | .clear => none
  | .teardown => none
  | .ctxCmdBad _ _ _ => none
  | .contextFault _ _ _ => none
  | .peer => none
  | .packageUnreachable _ _ => none
  | .key _ _ _ _ _ _ => none
  | .getCtxmeas _ _ _ => none
  | .getVersion => none
  | .getCapabilities => none
  | .negotiateAlgorithms => none
  | .getDigests => none
  | .getCertificate => none
  | .challenge _ _ => none
  | .getMeasurements => none
  | .keyExchange => none
  | .finish => none
  | .endSession => none
  | .lockInterfaceRequest => none
  | .startInterfaceRequest => none
  | .stopInterfaceRequest => none
  | .tdispError _ _ => none
  | .hostRead _ _ _ _ _ => none
  | .hostWrite _ _ _ _ _ => none
  | .hostAtomicop _ _ _ _ _ _ _ _ => none
  | .cpygExecute _ => none
  | .map => none
  | .unmap => none
  | .migrate => none
  | .retire => none
  | .deny => none
  | .pgCmdBad _ _ => none
  | .migrationSwitch _ _ _ => none
  | .train _ _ => none
  | .disable _ _ => none
  | .portTrained _ _ _ => none
  | .portTrainTimeout _ _ => none
  | .laneLost _ _ _ => none
  | .flitReplay _ _ _ => none
  | .moduleReset => none
  | .fieldRamp _ _ => none
  | .fieldOn _ _ => none
  | .fieldRampTimeout _ _ => none
  | .overcurrent _ _ => none
  | .baseDieLinkTraining => none
  | .hbmTraining => none
  | .pcieLinkTraining _ _ _ _ => none
  | .cbaGrant _ _ _ => none
  | .registerWrite _ _ _ _ => none
  | .unassignedOpcode w => some w
  | .ideKm _ _ _ => none

end Sys2Proof
end

