-- ==== Sys2Proof/Machine/Crypto.lean ====
section
/-! DEFINITION. The ciphers that the spec names: AES-256 (FIPS 197) with XTS (IEEE 1619) for memory lines (R405) and GCM (SP 800-38D) for CPYG (R414), and SHA-384 (FIPS 180-4) for MEASURE (R275). -/

namespace Sys2Proof.Machine

open Sys2Proof

/-! ## AES-256: bytes as numbers, a block as its 16 bytes in order -/

namespace Aes

/-- Twice a byte in AES's field. -/
def twice (a : Nat) : Nat := if a < 128 then 2 * a else (2 * a) ^^^ 0x11B

/-- The product of two bytes, from n bits of the second. -/
def mulBits (a b : Nat) : Nat → Nat
  | 0 => 0
  | n + 1 => twice (mulBits a b n) ^^^ (if b.testBit (7 - n) then a else 0)

def mul (a b : Nat) : Nat := mulBits a b 8

/-- The multiplicative inverse: the 254th power. -/
def inv (a : Nat) : Nat :=
  let sq (x : Nat) : Nat := mul x x
  let p (x : Nat) : Nat := mul (sq x) a
  sq (p (p (p (p (p (p a))))))

/-- A byte rotated left. -/
def rot (a n : Nat) : Nat := (a * 2 ^ n) % 256 ^^^ a / 2 ^ (8 - n)

def sub (a : Nat) : Nat :=
  let b := inv a
  b ^^^ rot b 1 ^^^ rot b 2 ^^^ rot b 3 ^^^ rot b 4 ^^^ 0x63

def unsub (a : Nat) : Nat := inv (rot a 1 ^^^ rot a 3 ^^^ rot a 6 ^^^ 5)

def xor (a b : List Nat) : List Nat := (a.zip b).map (fun x => x.1 ^^^ x.2)

/-- The rows move by their number, left for k = 1 and right for k = 3. -/
def shift (k : Nat) (b : List Nat) : List Nat := (List.range 16).map (fun i => b.getD (i % 4 + 4 * ((i / 4 + k * (i % 4)) % 4)) 0)

/-- Each column is multiplied by the matrix whose first row is given. -/
def mix (row : List Nat) (b : List Nat) : List Nat :=
  (List.range 16).map (fun i =>
    (List.range 4).foldl (fun v j => v ^^^ mul (b.getD (i / 4 * 4 + j) 0) (row.getD ((j + 4 - i % 4) % 4) 0)) 0)

/-- n more words of the key schedule, newest first. -/
def schedule : Nat → List (List Nat) → List (List Nat)
  | 0, ws => ws
  | n + 1, ws =>
    let i := ws.length
    let t := ws.headD []
    let t :=
      if i % 8 = 0 then xor ((t.drop 1 ++ t.take 1).map sub) [2 ^ (i / 8 - 1), 0, 0, 0]
      else if i % 8 = 4 then t.map sub
      else t
    schedule n (xor (ws.getD 7 []) t :: ws)

/-- The 15 round keys. -/
def keys (key : List Nat) : List (List Nat) :=
  let ws := (schedule 52 ((List.range 8).map (fun i => (key.drop (4 * i)).take 4)).reverse).reverse
  (List.range 15).map (fun r => ((ws.drop (4 * r)).take 4).flatten)

/-- Encrypt a block under round keys. -/
def encWith (ks : List (List Nat)) (b : List Nat) : List Nat :=
  let mid := ((ks.drop 1).take 13).foldl (fun b k => xor (mix [2, 3, 1, 1] (shift 1 (b.map sub))) k) (xor b (ks.headD []))
  xor (shift 1 (mid.map sub)) (ks.getD 14 [])

/-- Decrypt a block. -/
def decWith (ks : List (List Nat)) (b : List Nat) : List Nat :=
  let first := (shift 3 (xor b (ks.getD 14 []))).map unsub
  let mid := ((ks.drop 1).take 13).reverse.foldl (fun b k => (shift 3 (mix [14, 11, 13, 9] (xor b k))).map unsub) first
  xor mid (ks.headD [])

/-- The 16-byte blocks of some bytes, the last one padded with zeros. -/
def blocks (bs : List Nat) : List (List Nat) :=
  (List.range ((bs.length + 15) / 16)).map (fun i =>
    let b := (bs.drop (16 * i)).take 16
    b ++ List.replicate (16 - b.length) 0)

/-- The number that bytes hold, most significant first, and n bytes of a number. -/
def be (bs : List Nat) : Nat := bs.foldl (fun n b => 256 * n + b) 0
def ofBe (n v : Nat) : List Nat := (List.range n).map (fun i => v / 256 ^ (n - 1 - i) % 256)

/-! ## XTS -/

/-- The next block's tweak: twice the block as a little-endian number. -/
def nextTweak (t : List Nat) : List Nat :=
  let n := be t.reverse * 2
  (ofBe 16 (if n < 2 ^ 128 then n else (n - 2 ^ 128) ^^^ 0x87)).reverse

/-- Blocks of a data unit, each between two additions of its tweak. -/
def xtsBlocks (f : List Nat → List Nat) : List Nat → List (List Nat) → List (List Nat)
  | _, [] => []
  | t, b :: bs => xor (f (xor b t)) t :: xtsBlocks f (nextTweak t) bs

/-- A data unit under a 64-byte key and a tweak: encrypted, or decrypted. -/
def xts (dec : Bool) (key : List Nat) (tweak : Nat) (bs : List Nat) : List Nat :=
  let ks := keys (key.take 32)
  let t := encWith (keys (key.drop 32)) (ofBe 16 tweak).reverse
  (xtsBlocks (fun b => if dec then decWith ks b else encWith ks b) t (blocks bs)).flatten

/-! ## GCM -/

/-- The product of two blocks in GHASH's field, from n bits of the first. -/
def ghashMul (x : Nat) : Nat → Nat → Nat → Nat
  | 0, _, z => z
  | n + 1, v, z => ghashMul x n (if v % 2 = 1 then v / 2 ^^^ 0xE1 * 2 ^ 120 else v / 2) (if x.testBit n then z ^^^ v else z)

/-- GHASH of some blocks. -/
def ghash (h : Nat) (bs : List (List Nat)) : Nat := bs.foldl (fun y b => ghashMul (y ^^^ be b) 128 h 0) 0

/-- Counter-mode blocks from a counter on. -/
def ctr (ks : List (List Nat)) (iv : List Nat) (n : Nat) (bs : List (List Nat)) : List (List Nat) :=
  (List.range bs.length).map (fun i => xor (encWith ks (iv ++ ofBe 4 ((n + i) % 2 ^ 32))) (bs.getD i []))

/-- The tag of a ciphertext, for an IV of 12 bytes. -/
def gcmTag (key iv aad ct : List Nat) : List Nat :=
  let ks := keys key
  let h := be (encWith ks (List.replicate 16 0))
  let s := ghash h (blocks aad ++ blocks ct ++ [ofBe 8 (8 * aad.length) ++ ofBe 8 (8 * ct.length)])
  xor (encWith ks (iv ++ [0, 0, 0, 1])) (ofBe 16 s)

/-- The text that a ciphertext holds, and the ciphertext of a text. -/
def gcmText (key iv ct : List Nat) : List Nat := ((ctr (keys key) iv 2 (blocks ct)).flatten).take ct.length

end Aes

/-- Bytes as numbers, and back. -/
def nums (bs : List Byte) : List Nat := bs.map (·.toNat)
def ofNums (bs : List Nat) : List Byte := bs.map (BitVec.ofNat 8)

/-- AES-256-GCM opening (R414): the plaintext, where the tag holds. -/
def gcmOpen (key iv aad ct tag : List Byte) : Option (List Byte) :=
  if Aes.gcmTag (nums key) (nums iv) (nums aad) (nums ct) = nums tag then some (ofNums (Aes.gcmText (nums key) (nums iv) (nums ct))) else none

/-- AES-XTS-256 over a line (R405). -/
def xtsLine (dec : Bool) (key : List Byte) (tweak : Nat) (bs : List Byte) : List Byte := ofNums (Aes.xts dec (nums key) tweak (nums bs))

/-! ## SHA-384 -/

namespace Sha

/-- The largest r with r^k ≤ n, bit by bit from bit b down. -/
def root (k n : Nat) : Nat → Nat → Nat
  | 0, r => r
  | b + 1, r => root k n b (if (r + 2 ^ b) ^ k ≤ n then r + 2 ^ b else r)

/-- The first 80 primes. -/
def primes : List Nat := (List.range 410).filter (fun n => decide (2 ≤ n) && (List.range 21).all (fun d => decide (d < 2) || decide (n ≤ d) || n % d != 0))

/-- 64 bits of the fractional parts: of the cube roots of the first 80 primes, and of the square roots of the ninth to the
sixteenth. -/
def roundKeys : List Nat := primes.map (fun p => root 3 (p * 2 ^ 192) 68 0 % 2 ^ 64)
def start : List Nat := ((primes.drop 8).take 8).map (fun p => root 2 (p * 2 ^ 128) 70 0 % 2 ^ 64)

def add (a b : Nat) : Nat := (a + b) % 2 ^ 64
def rotr (n a : Nat) : Nat := a / 2 ^ n + a % 2 ^ n * 2 ^ (64 - n)
def sigma (a b c x : Nat) : Nat := rotr a x ^^^ rotr b x ^^^ (if c < 64 then rotr c x else x / 2 ^ (c - 64))

/-- n more words of a block's schedule, newest first; a shift is written as a rotation by 64 more. -/
def schedule : Nat → List Nat → List Nat
  | 0, ws => ws
  | n + 1, ws =>
    let w (i : Nat) : Nat := ws.getD i 0
    schedule n (add (add (sigma 19 61 70 (w 1)) (w 6)) (add (sigma 1 8 71 (w 14)) (w 15)) :: ws)

/-- One round: the working words, a round key and a word of the schedule. -/
def step (v : List Nat) (kw : Nat × Nat) : List Nat :=
  match v with
  | [a, b, c, d, e, f, g, h] =>
    let t1 := add (add h (sigma 14 18 41 e)) (add (e &&& f ^^^ (2 ^ 64 - 1 - e) &&& g) (add kw.1 kw.2))
    let t2 := add (sigma 28 34 39 a) (a &&& b ^^^ a &&& c ^^^ b &&& c)
    [add t1 t2, a, b, c, add d t1, e, f, g]
  | v => v

/-- One block of 16 words. -/
def block (ks : List Nat) (h m : List Nat) : List Nat :=
  (h.zip ((ks.zip (schedule 64 m.reverse).reverse).foldl step h)).map (fun x => add x.1 x.2)

/-- The padded message in words. -/
def words (bs : List Nat) : List Nat :=
  let p := bs ++ [0x80] ++ List.replicate ((239 - bs.length % 128) % 128) 0 ++ Aes.ofBe 16 (8 * bs.length)
  (List.range (p.length / 8)).map (fun i => Aes.be ((p.drop (8 * i)).take 8))

def digest (bs : List Nat) : List Nat :=
  let ws := words bs
  let ks := roundKeys
  let h := (List.range (ws.length / 16)).foldl (fun h i => block ks h ((ws.drop (16 * i)).take 16)) start
  ((h.take 6).map (Aes.ofBe 8)).flatten

end Sha

/-- The SHA-384 digest of a byte string (R275). -/
def sha384 (bs : List Byte) : List Byte := ofNums (Sha.digest (nums bs))

end Sys2Proof.Machine
end

