-- ==== Sys2Proof/Config.lean ====
section
/-! DEFINITION. What an implementation fixes, and the free values: constants that no proof can see into (notes/assumptions). -/

namespace Sys2Proof

/-- One agent's act (log entry 3): a split issues, an event of the device happens, or what no row of the opcode table
names. -/
inductive Machine.Act where
  | issue (gid split : Nat)
  | event (i : Instr)
  | hostFill (addr : Nat) (bytes : List Byte)   -- the host writes its own memory (R414's bounce buffers; log entry 116)
  | softError (pkg ctx va kind gid : Nat) (up : Upset)   -- an access of a KIND and a group meets a soft error at its home (R23)
  | stageFail (pkg : Nat)                       -- a stage of bring-up after the first fails (R425)
  | readAhead (inst : Nat) (units : List Nat)   -- 16-byte units of an image are read before the rest (R304)
  | restDraw (pkg watts : Nat)                  -- the draw of a package's other islands changes (R429)
  | idle
  deriving DecidableEq, Repr, Inhabited

end Sys2Proof

namespace Sys2Proof.Config

open Sys2Proof

/-- The packages of the modelled domain at reset. DESIGN CHOICE (log entry 2): R148 and R418 to R421 speak of
up to 128 packages; the model's reset holds two. -/
def packages : List Nat := [0, 1]

/-! ## Free values: no body, so nothing can be proved of their values -/

/-- Which agent moves, and how, when State's agenda is empty (log entry 3). -/
opaque freeAct : Nat → Machine.Act

/-- The package and the context that such a move's device step acts on, where it has no operands (log entry 3). -/
opaque freeFocus : Nat → Nat × Nat

/-- Ticks and arithmetic cycles that pass before the move (log entry 3). -/
opaque freeTime : Nat → Nat × Nat

/-- The fields whose clocks count other cycles before the move, as (package, field, cycles) (log entry 3). -/
opaque freeSlow : Nat → List (Nat × Nat × Nat)

/-- The bits of an ashlar cell that nothing has written since its tile was defined (R132; log entry 8):
of the tile's stamp and the cell number. -/
opaque undefCell : Nat → Nat → Word

/-- Undefined contents that a rule leaves in a register, a cell or a byte (R6), of the choice counter and an
index (log entry 11). -/
opaque undefWord : Nat → Nat → Word

/-- A special function's result before it is held to the bound of R75 (log entry 7): of the function's opcode
and the operand's bits. -/
opaque sfu : Nat → Word → Word

/-- What a line written under one key and tweak reads as under another, where one of them is no key of a context
(R405; log entry 12): of the key and tweak it was written with, its bytes, and the key and tweak of the read; 128 bytes
are taken from it. -/
opaque recipher : List Byte → Nat → List Byte → List Byte → Nat → List Byte

/-- Whether a read of host memory by a host copy engine completes with an error (R416; log entry 15), of the
choice counter. -/
opaque hostError : Nat → Bool

/-- A module's signature over a byte string (R276, R409; log entry 13): of its package and the bytes. -/
opaque sign : Nat → List Byte → List Byte

/-- The certificate chain's digest and the chain of a package's module (R275, R409; log entry 13). -/
opaque certDigest : Nat → List Byte
opaque certChain : Nat → List Byte

/-- The DRAM repair table of a package's pseudo-channel, as MEASURE hashes it (R275; log entry 13). -/
opaque repairTables : Nat → Nat → List Byte

end Sys2Proof.Config
end

