-- ==== Sys2Proof/Machine/State.lean ====
section
/-! DEFINITION. The state of the machine as plain data: a domain of GQ-960 modules, with everything the spec gives each of them (INVENTORY.md, heading State). -/

namespace Sys2Proof.Machine

open Sys2Proof

/-- Why a run stops. -/
inductive Fault where
  /-- Raised by step for a move of a split whose module has a FAILED field: R423 leaves the whole module
  unusable until module reset.  Safe: the model stops where the spec gives the module no further use. -/
  | moduleUnusable
  deriving DecidableEq, Repr

/-- Why a step is turned away. -/
inductive Refusal where
  /-- Raised by exec's arm of an instruction that has no meaning yet. Safe. -/
  | notModelled (mnemonic : String)
  /-- Raised by a step of the device whose event cannot occur in this state (the access it names is not
  outstanding, its condition does not hold), and by an instruction where no split is issuing.  Safe: the
  hardware does not take that step there. -/
  | notEnabled
  deriving DecidableEq, Repr

/-! ## Numbers that name things -/

/-- The fields an access is routed by (R140): one placement table entry as read. -/
structure PtEntry where
  valid : Bool
  mh : Bool            -- CLASS: true for memory-homed
  log2size : Nat
  hostvis : Bool
  home : Nat
  log2n : Nat
  listbase : Nat
  base : Nat           -- VA[55:30] of the range's first byte
  raw : Nat            -- the 128 bits as read, for the digest and the reserved fields
  deriving DecidableEq, Repr

/-- Device data of one definition slot's copy on one package (R352, R353). -/
inductive SlotState where
  | empty | loading | loaded | dropping
  deriving DecidableEq, Repr

/-- One copy of a definition slot (R352). -/
structure DefSlot where
  state : SlotState := .empty
  gen : Nat := 0
  va : Nat := 0
  len : Nat := 0
  img : List Byte := []
  deriving DecidableEq, Repr

/-- Payload of a remote opcode as the unit receives it: A0 to A7, element words and scalar words (R367). -/
structure Payload where
  elems : List Word      -- A0, 32 lanes, widened
  scalars : List Word    -- A1 to A7
  deriving DecidableEq, Repr

/-- A remote opcode's ordering qualifiers (R364). -/
structure RopOrd where
  acq : Bool
  rel : Bool
  scope : Nat
  deriving DecidableEq, Repr

/-- Where a remote opcode request stands (R366 to R373). -/
inductive RopPhase where
  | sent                 -- travelling to its home
  | held                 -- it has arrived at its home's unit, which holds it (R353, R404)
  | wings                -- in the wings ring of its home package (R279)
  | acked                -- applied or ended; its acknowledgement is on its way
  deriving DecidableEq, Repr

/-- One party a (possibly combined) request acknowledges (R371): its group, the splits that hold it as an
outstanding write, and where the status or the return goes. -/
structure RopIssuer where
  gid : Nat              -- model identifier of the group
  pkg : Nat
  core : Nat
  holders : List Nat     -- splits that hold the request as an outstanding write
  stat : Option Nat      -- scalar that receives the status word (STAT)
  ret : Option Nat       -- vector register of a ROPR
  acqScope : Option Nat  -- scope of a ROPR acquire
  eng : Option (Nat × Nat) -- SCAT: engine operation and unit
  epoch : Nat
  gw : Word := 0         -- the GID that its response carries (R328)
  place : Nat := 0       -- the request's own place among its issuer's accesses; combining leaves it (R371)
  deriving DecidableEq, Repr

/-- A remote opcode request in flight (R366). -/
structure Rop where
  id : Nat
  ctx : Nat
  pkg : Nat              -- issuing package
  target : Nat           -- virtual address of the target line
  lines : List Nat       -- addresses of its footprint lines
  slot : Nat
  gen : Nat
  fault : Nat            -- declared fault behaviour
  ord : RopOrd
  payload : Payload
  isReturn : Bool        -- ROPR
  rmode : Nat            -- RET of its definition at issue
  issuers : List RopIssuer
  phase : RopPhase
  status : Word          -- status word once acked
  line : Nat             -- footprint line that faulted
  retWords : List Word   -- pre or post words of line 0
  poisoned : Bool := false -- its payload comes from a poisoned source of a SCAT (R258)
  home : Nat             -- its home package, once acked
  ct : Nat               -- completion time at the home, once acked
  deriving DecidableEq, Repr

/-! ## Queues (R285 to R299) -/

inductive QState where
  | idle | armed | running | waiting | drained
  deriving DecidableEq, Repr

/-- What a WAITING queue waits for (R296): an instance or a copy, a cue word (its address, VAL and CMP, and whether
the condition has been seen), the run's
ASYNC nodes, room for another one, or a page. -/
inductive QWait where
  | op (id : Nat)
  | cue (va val cmp : Nat) (seen : Bool)
  | join
  | last
  | room
  | page
  deriving DecidableEq, Repr

/-- The queue as the device keeps it: the entry as last taken and the run's state (R286, R287, R296). -/
structure Queue where
  num : Nat
  taken : Bool := false        -- the entry has been taken
  exists_ : Bool := false      -- it exists: VALID as taken, and not drained at its take
  prio : Nat := 0
  fld : Nat := 0
  state : QState := .idle
  effprio : Nat := 0
  err : Nat := 0
  graph : Nat := 0
  armw : Nat := 0
  armval : Nat := 0            -- the arm word as its watcher last passed it on (R288)
  done : Nat := 0
  gen : Nat := 0               -- the last GEN seen, as taken or as its watcher passed it on
  genSeen : Bool := false      -- a GEN change is to be applied when the queue is, or next reaches, IDLE (R296)
  runs : Nat := 0
  cur : Nat := 0
  next : Nat := 0              -- where the run goes once its wait has ended
  armseen : Nat := 0
  since : Nat := 0             -- tick from which its ageing counts (R297); ticks counted, while the context is stopped
  waited : Nat := 0            -- tick since which it waits to be chosen
  asyncs : List Nat := []      -- ASYNC nodes not complete: ids of instances and engine operations
  wait : Option QWait := none
  atNode : Bool := false       -- the prompter is walking the node at CUR
  node : List Byte := []       -- that node, as read
  kept : Bool := false         -- STOP came while it was walked: node goes on with what is read (R298)
  doneNow : Bool := false      -- END has counted the run; its DONE write waits
  ctHold : Nat := 0            -- completion time of its last SETCUE or DONE write, or of the completion write of the
                               -- KERNEL node it waited for: its next node begins after it (R291)
  asyncHold : Nat := 0         -- the largest completion time of its ASYNC KERNEL nodes' completion writes (R291)
  deriving DecidableEq, Repr

/-! ## Fault records (R399) -/

structure FaultRec where
  kind : Nat
  cause : Nat
  noreplay : Bool
  gid : Word
  addr : Nat
  pch : Nat
  lanes : Mask
  tick : Nat
  deriving DecidableEq, Repr

/-! ## Contexts (R270 to R284) -/

inductive CtxState where
  | created | measured | keyed | resident | running | descheduled | faulted | tornDown
  deriving DecidableEq, Repr

/-- A context fault as its record states it (R281). -/
structure CtxFaultInfo where
  cause : Nat
  pkg : Nat
  info : Nat := 0
  core : Nat := 0xFFFFFFFF
  tpc : Nat := 0
  addr : Nat := 0
  tick : Nat := 0
  deriving DecidableEq, Repr

/-- A record in a context's green room (R336): where it lies, the bytes of it that a rule lays out, which stand
first, and the stamp that the rest is made of. -/
structure GreenRec where
  off : Nat
  len : Nat
  stamp : Nat
  head : List Byte := []
  lost : Bool := false         -- its reading was dropped at its home, being of another epoch (R283)
  deriving DecidableEq, Repr

/-- One context on one package. -/
structure Ctx where
  pkg : Nat
  num : Nat
  state : CtxState
  before : CtxState            -- the state held before a fault (CLEAR, R274)
  epoch : Nat
  ccb : List Byte              -- the CCB as CREATE read it
  ccbAddr : Nat                -- its device physical address
  ptaddr : Nat
  pcladdr : Nat
  keypol : Nat
  lease : Nat
  spanm1 : Nat
  spidx : Nat
  allow : List Nat
  grbase : Nat
  grsize : Nat
  wrbase : Nat
  wrlog2 : Nat
  fraddr : Nat
  fqaddr : Nat
  qtaddr : Nat
  span : List Nat
  pt : List PtEntry
  pcl : List Nat
  digest : List Byte
  key : List Byte              -- AES-XTS-256 key; empty where none
  xfer : List Byte             -- transfer key
  iv : List Byte               -- fixed IV field
  last : Nat                   -- LAST of CPYG (R416)
  slots : List DefSlot
  queues : List Queue
  wings : List Nat             -- ids of the requests in the wings ring, oldest first
  wrHead : Nat := 0            -- the ring's entry that holds the oldest (R279)
  fqWait : List FaultRec       -- records waiting to be posted, oldest first
  fqPut : Option Nat := none   -- the oldest one stands in its slot: home time from which PUT may be written (R399)
  kept : Option GreenRec := none -- its definition slots and queues in the green room, while it is DESCHEDULED (R278, R298)
  peer : Option (Nat × Nat)    -- a PEER fault on its way: the raising package, and its ct_now() at the raise (R281)
  deriving DecidableEq, Repr

/-! ## Pages (R392 to R404) -/

inductive PageState where
  | unmapped | mapped | migrating | poisoned | retired
  deriving DecidableEq, Repr

structure Page where
  ctx : Nat
  pkg : Nat                    -- home package
  va : Nat                     -- first address, 2 MiB-aligned
  state : PageState
  frames : List Nat            -- frame number per list entry of the set
  newFrames : List Nat         -- while MIGRATING
  since : Nat                  -- tick at which MIGRATE began
  bad : Option Nat             -- index of the frame that took the page to POISONED
  deriving DecidableEq, Repr

/-! ## Near-memory sessions (R376, R377) -/

structure NmSession where
  pkg : Nat
  pch : Nat
  ctx : Nat
  epoch : Nat
  gid : Nat                    -- model identifier of the owning group
  gidWord : Word               -- GID of R328
  bf16 : Bool
  start : Nat
  bb : List (BitVec 16)        -- 256 elements
  acc : List (List Word)       -- 16 banks of 64 entries
  deriving DecidableEq, Repr

/-! ## The tree (R27 to R35) -/

/-- One declared level: fan-out, physical code, co-residency bit (R34). -/
structure Level where
  fan : Nat
  phys : Nat
  co : Bool
  deriving DecidableEq, Repr

/-- Who launched an instance (R305, R312). -/
inductive Launcher where
  | node (q addr : Nat)
  | group (gid : Nat) (status : Nat) (scope : Nat)
  deriving DecidableEq, Repr

inductive InstState where
  | ready                      -- launched, not yet verified
  | loaded                     -- verified; its count is to be read
  | launched                   -- its count is read; its constant area is to be built
  | placing | running | retiring | complete | refused
  deriving DecidableEq, Repr

/-- Where a group has been placed. -/
structure Placed where
  rank : Nat
  pkg : Nat
  core : Nat
  deriving DecidableEq, Repr

/-- A level operand that the launch scan found in the code (R39): its value, whether it is a barrier's or a
collective's, and whether it is that of a node barrier: BAR, BARA or BARW (R341). -/
structure LevelOp where
  val : Nat
  bar : Bool
  node : Bool := false
  deriving DecidableEq, Repr

/-- State of one node barrier (R342): the node, its phase, and, at or below the GROUP level, the lanes that have
arrived at that phase; above it the groups keep their own arrivals (Group.arrived).  Whether it is ABORTED is read
from the abort lines (R345). -/
structure NodeBarrier where
  level : Nat
  node : Nat
  phase : Nat := 0
  lanes : Mask := 0
  deriving DecidableEq, Repr

/-- A region table entry: live-in ranges of operand numbers (R303). -/
abbrev LiveIn := List (Nat × Nat)

/-- One kernel instance (R302 to R314). -/
structure Inst where
  id : Nat
  pkg : Nat                    -- package of the launch
  ctx : Nat
  epoch : Nat
  state : InstState
  image : Nat
  launcher : Launcher
  ind : Bool                   -- the count is read from memory
  countArg : Nat               -- the count, or the count word's address
  count : Nat
  param : Nat
  seed : Word
  scope : Nat                  -- launch and completion scope code
  cwaddr : Nat
  cwval : Word
  depth : Nat
  abortAtStart : Bool          -- the root line starts raised (R43)
  units : List (Nat × List Byte) := []  -- 16-byte units of the image read ahead of the rest (R304)
  -- set by verification
  codeVa : Nat
  codeLen : Nat
  regs : Nat
  ashrows : Nat
  handler : Option Nat
  regions : List LiveIn
  views : List Word
  curcls : Nat
  levels : List Level          -- levels 0 to L-1, root fan-out resolved
  cbase : Nat
  csize : Nat
  area : Nat                   -- green room offset of the constant area
  countmax : Nat := 0
  psize : Nat := 0
  tree : List Nat := []        -- the tree descriptor's words
  scan : List LevelOp := []    -- what the scan of R39 found
  consts : List Byte := []     -- the constants, until the area is built
  prio : Nat := 0              -- EFFPRIO of the launching queue at the launch (R297)
  since : Nat := 0             -- tick of the launch
  -- running
  placed : List Placed         -- the groups that have been placed
  abort : List (Nat × Nat)     -- raised lines: (level, node)
  barriers : List NodeBarrier
  departed : List Nat          -- ranks whose last lane has left by EXIT (R340)
  retired : Nat                -- groups retired
  maxCt : Nat                  -- largest CT of its groups' writes
  deriving DecidableEq, Repr

/-! ## Cores (R15, R122 to R134, R164, R323, R347) -/

inductive TileState where
  | free | empty | filling | ready | draining
  deriving DecidableEq, Repr

/-- A tile table entry (R128); uses counts the engine operations and matrix steps that fill or drain it,
stamp numbers its definition, for cells that nothing has written since. -/
structure Tile where
  state : TileState := .free
  shared : Bool := false
  owner : Nat := 0             -- rank of the owning group, or number of the owning node at the highest CORE level
  fmt : Nat := 0
  row0 : Nat := 0
  nrows : Nat := 0
  col0 : Nat := 0
  ncols : Nat := 0
  uses : Nat := 0
  stamp : Nat := 0
  deriving DecidableEq, Repr

/-- An async barrier object (R347). -/
structure AsyncObj where
  active : Bool := false
  phase : Bool := false
  nodeOwned : Bool := false
  owner : Nat := 0             -- rank of the owning group, or node number at LEVEL
  level : Nat := 0
  expect : Nat := 0
  count : Nat := 0
  eng : Nat := 0
  abtd : Bool := false
  dying : Bool := false        -- its owner has retired and ENG is not 0 (R350)
  deriving DecidableEq, Repr

/-- A range-lock table entry: line-aligned virtual range [lo, hi), mode, and the operation that holds it
(R164); quarantine holds the group and the scalar whose read lifts it (R417). -/
structure RltEntry where
  lo : Nat
  hi : Nat
  write : Bool
  op : Nat
  quarantine : Option (Nat × Nat) := none
  deriving DecidableEq, Repr

/-- One snapshot of a 128-byte line held by an L1 or a guest slice (R134, R144). -/
structure Snapshot where
  line : Nat                   -- virtual line address
  bytes : List Byte
  ver : Nat := 0               -- writes performed to the line when it was taken
  deriving DecidableEq, Repr

/-- One core that holds an instance's groups or state. -/
structure Core where
  pkg : Nat
  idx : Nat                    -- package core index
  inst : Nat
  regend : Nat
  ashend : Nat
  tiles : List Tile
  ashlar : List (Nat × Word)   -- cell number 32 x row + column, written cells only, rising
  l1 : List Snapshot
  past : List Snapshot := []   -- what acquires have invalidated: the prefetcher may refill the L1 with it (R134, R163)
  ashBad : List Nat := []      -- poisoned half bytes of the ashlar: half q of cell c is 8 c + q (R24)
  orderAt : List (Nat × Nat × Nat) := [] -- the home orders when the instance's L1 was invalidated (R134)
  rlt : List RltEntry
  objs : List AsyncObj
  items : List Word
  swaps : Nat
  barSlots : List Nat := []    -- barrier slots given, at most 16: the level of each (R341)
  deriving DecidableEq, Repr

/-- A core's state of an instance whose groups have all left it, in the green room (R336, R338). -/
structure CoreRec where
  id : Nat
  core : Core
  green : GreenRec
  deriving DecidableEq, Repr

/-- A guest copy of a CH line on a package (R144, R145). -/
structure Guest where
  pkg : Nat
  ctx : Nat
  line : Nat
  bytes : List Byte
  expiry : Nat                 -- in reference ticks
  ver : Nat                    -- writes performed to the line when the copy was made
  deriving DecidableEq, Repr

/-! ## Splits and groups -/

inductive RegState where
  | full | pending | void
  deriving DecidableEq, Repr

/-- A vector register: its full/empty state and 96 words (R111, R117). -/
structure VReg where
  state : RegState := .full
  lanes : List Word
  deriving DecidableEq, Repr

/-- A scalar register (R93, R117). -/
structure SReg where
  state : RegState := .full
  val : Word := 0
  deriving DecidableEq, Repr

/-- What a split is waiting for, in the kinds of R215 (WAITTO). -/
inductive WaitKind where
  | source | wctr | tile | barrier | waitt | rlt | fence | stepLimit
  deriving DecidableEq, Repr

/-- A wait under way (R119, R120): its kind, the cycles counted so far, whether it is taken at a clause
boundary (R317, R320), and what it is for (R83, R118, R400): registers, a counter, or a tile entry. -/
structure Wait where
  kind : WaitKind
  count : Nat
  boundary : Bool
  regs : List Nat := []        -- source: the operand registers that the instruction or the clause reads
  on : Nat := 0                -- wctr: the counter, by its number in R83; tile: the entry
  deriving DecidableEq, Repr

/-- A barrier or async-object wait that stands open after its instruction's arrival (R320, R344, R348). -/
inductive BarWait where
  | node (level : Nat) (waits : List (Nat × Nat)) (status : Option Nat) (hdr idx len : Nat)
  | obj (id : Nat) (parity : Bool) (status : Option Nat) (hdr idx len : Nat)
  deriving DecidableEq, Repr

/-- A region as RGN records it (R62, R209). -/
structure Region where
  hdr : Nat
  st : Word
  mask : Mask
  live : LiveIn
  clean : Bool
  wrote : List Nat := []       -- registers written since the RGN
  broken : Bool := false       -- a live-in has been written, or another register read before it was written (R135)
  deriving DecidableEq, Repr

/-- One lane's return stack, newest first (R204). -/
abbrev RetStack := List Nat

/-- The checkpoint of a FENCES window (R154). -/
structure Checkpoint where
  lanes : Mask
  mask : Mask
  hdr : Nat
  idx : Nat
  clause : List DWord
  st : Word
  retStacks : List RetStack
  yld : Bool := false
  deriving DecidableEq, Repr

/-- A register written in a FENCES window (R154): operand number, and a vector's 96 words as they were before its first
write there. -/
structure KeptReg where
  num : Nat
  words : List Word
  deriving DecidableEq, Repr

/-- One write to a register that an open FENCES window has written: the split, whether its window's rollback undoes it,
and of a scalar the bits it writes and their values. -/
structure RegWrite where
  sp : Nat
  undo : Bool
  bits : Word
  val : Word
  deriving DecidableEq, Repr

/-- A register that an open FENCES window of the group has written (R154, R156): operand number, its state and a scalar's
value before the first write in a window, and the writes since, oldest first. -/
structure RegLog where
  num : Nat
  state : RegState
  base : Word
  writes : List RegWrite
  deriving DecidableEq, Repr

/-- An open FENCES window (R154 to R156). -/
structure Window where
  target : Nat                 -- T, in reference ticks
  scope : Nat
  saved : Checkpoint
  lines : List Nat             -- lines its loads need, at most 64 (virtual)
  regd : List Nat              -- lines registered at their homes
  kept : List KeptReg          -- registers written, at most 32
  conflict : Bool              -- another agent's write to a registered line before T
  firstLoad : Nat              -- accesses numbered from here were issued in the window
  deriving DecidableEq, Repr

/-- One split (R113, R201). -/
structure Split where
  id : Nat
  lanes : Mask                 -- lane set
  mask : Mask
  hdr : Nat                    -- code offset of the clause header it stands in or will fetch
  idx : Nat                    -- index of the next instruction word in the clause
  clause : List DWord          -- the words of the clause being issued; empty at a boundary
  resume : Option Nat          -- inside a clause whose words are to be read again: next word index (R213, R337)
  st : Word                    -- stochastic generator (R60)
  ctmax : Nat := 0             -- CTMAX (R149)
  relMax : Nat := 0            -- the largest CT among its release stores (R446)
  cts : List (Nat × Nat) := [] -- completion times returned, each with its write, for the ct counter (R83)
  yld : Bool := false          -- the clause it is in, or has issued last, asks to yield (R84, R216)
  fetchLost : Bool := false    -- its fetch of code was dropped at its home, being of another epoch (R283)
  seen : List (Nat × Nat) := [] -- (virtual line, latest place in home order its coherent accesses returned) (R150)
  tcause : Word := 0
  tpc : Word := 0
  tpcEntry : Word := 0         -- value set at handler entry (R213)
  tpcHeader : Bool := false    -- the trapped word is a clause header
  trapHdr : Nat := 0           -- code offset of the header of the trapped word's clause
  trapIdx : Nat := 0           -- index of the trapped word in it
  trapLen : Nat := 0           -- number of instructions of that clause
  taddr : DWord := 0
  region : Option Region := none
  window : Option Window := none
  rollbacks : Nat := 0         -- rollbacks in a row at the FENCES where it stands (R157)
  asFence : Bool := false      -- the next FENCES acts as FENCE (R157)
  wait : Option Wait := none
  waitt : Option Nat := none   -- the tick a WAITT waits for
  bar : Option BarWait := none
  held : Nat := 0              -- clauses the other splits have issued since the hold began
  free : Bool := false         -- the hold has ended (R203)
  deriving DecidableEq, Repr

inductive GroupState where
  | resident | active | parked | saved | kidwait | retired
  deriving DecidableEq, Repr

/-- One group (R114, R316, R328). -/
structure Group where
  id : Nat
  inst : Nat
  ctx : Nat
  rank : Nat
  pkg : Nat
  core : Nat
  slot : Nat
  gen : Nat
  state : GroupState
  holdsPlace : Bool            -- a PARKED group that still holds its place in the active set
  vregs : List VReg
  sregs : List SReg            -- S0 to S60; S61 to S63, whose values are the splits' masks, keep their states here
  waitlim : Word
  tbase : Word
  rfault : BitVec 128
  mtx : Nat
  eng : Nat
  rop : Nat
  kids : Nat
  leaving : Bool := false          -- its departure from the active set is due (R84, R318)
  done : Mask
  retStacks : List RetStack
  marks : List (Nat × Nat × Nat)   -- arrival marks: (lane, level, phase joined)
  bars : List (Nat × List Nat)     -- per level above g, how many BAR and BARA each lane has issued (R339)
  arrived : List (Nat × Nat)       -- per level above g, at how many phases the group has arrived (R339)
  collCount : List (Nat × Nat)     -- (level, collectives joined)
  splits : List Split
  nextSplit : Nat
  openBatch : List Nat             -- steps of the open batch
  batches : List (List Nat)        -- committed batches not complete, oldest first
  logs : List RegLog := []         -- registers that open FENCES windows have written (R154, R156)
  acquired : Bool                  -- the acquire of the first issue has been made (R169)
  readyCyc : Nat                   -- cycles for which it has been RESIDENT and ready (R318, R319)
  activeSince : Nat
  swapsAt : Nat                    -- swaps of its core when it last left the active set
  saving : Bool := false           -- a save of the group has begun (R332)
  moving : Bool := false           -- that save is a move's (R322)
  record : Option GreenRec := none -- its record, while it is SAVED
  coreRec : Option Nat := none     -- the core record it returns with; none while its core still holds its state
  kidsTo : Option Nat := none      -- saved while it waited for children (R45): it waits while its kids counter is above this
  deriving DecidableEq, Repr

/-! ## Accesses in flight -/

/-- Where a trap is taken: the word SR.TPC names, whether it is a clause header, and the clause it stands in. -/
structure TrapAt where
  pc : Nat
  header : Bool
  hdr : Nat
  idx : Nat
  len : Nat
  deriving DecidableEq, Repr

/-- One lane's part of a load or a write. -/
structure LaneAcc where
  lane : Nat
  va : Nat
  performed : Bool := false
  parked : Bool := false       -- waits for its page (R220)
  failed : Bool := false       -- ended by DENY (R402)
  data : List Byte := []       -- load: bytes read; store: bytes to write
  cmp : List Byte := []        -- cas: the compare value
  ver : Option Nat := none     -- plain load that no acquire holds: place of its line's home order at the load's issue (R134)
  atIssue : List Byte := []    -- and what its location held at its home then; empty where nothing could be read
  bad : Bool := false          -- what it held then was poisoned (R24)
  replay : Bool := false       -- its page has been mapped, and it is to replay (R401)
  lost : Bool := false         -- its request was dropped at its home, being of another epoch (R283)
  near : Bool := false         -- served by an L1 or a guest copy: its response crosses no link (R421)
  ct : Nat := 0
  deriving DecidableEq, Repr

/-- What a load does with its bytes. -/
inductive LoadUse where
  | reg (d : Nat) (ty : Nat) (scalar : Bool)     -- LD: destination operand, type code
  | const (d : Nat) (scalar : Bool)              -- LDC
  | jump (base : Nat)                            -- JMPT: the table read
  deriving DecidableEq, Repr

/-- A load in flight (R222, R224). -/
structure Load where
  id : Nat
  gid : Nat
  holders : List Nat           -- splits that hold it as not performed
  ctx : Nat
  pkg : Nat
  core : Nat
  use : LoadUse
  width : Nat
  plain : Bool                 -- neither .bp nor .acq
  acq : Option Nat             -- scope of an acquire
  windowed : Bool              -- issued in a FENCES window that is open
  kind : Nat                   -- KIND of a fault record
  lanes : List LaneAcc
  mask : Mask                  -- lanes that acted at issue
  place : TrapAt               -- where its instruction stands, for a DENY (R402)
  gw : Word := 0               -- the GID that its response carries (R328)
  epoch : Nat := 0             -- the context's epoch at issue (R283)
  bypass : Bool := false       -- issued in a FENCES window, open or closed since: guest copies never serve it (R155)
  deriving DecidableEq, Repr

/-- What an atomic returns. -/
inductive WriteUse where
  | none
  | atomReg (d : Nat) (wide : Bool)              -- ATOM: returned registers
  | garm (d : Nat)                               -- GARM: status scalar
  deriving DecidableEq, Repr

/-- A store, atomic, RED, CUEW or GARM in flight (R223, R226, R228, R300, R301). -/
structure Write where
  id : Nat
  gid : Nat
  holders : List Nat
  ctx : Nat
  pkg : Nat
  core : Nat
  atom : Option Nat            -- atomic operation code; none for a store
  use : WriteUse
  width : Nat
  acq : Option Nat
  kind : Nat
  lanes : List LaneAcc
  mask : Mask
  scalar : Bool
  place : TrapAt
  gw : Word := 0               -- the GID that its responses carry (R328)
  epoch : Nat := 0             -- the context's epoch at issue (R283)
  rel : Bool := false          -- a release (R158)
  deriving DecidableEq, Repr

/-- An operand of a matrix step (R241, R242): a tile entry with its place, or memory. -/
inductive StepOperand where
  | tile (entry row col ambs : Nat) (byCol : Bool)
  | mem (addr stride : Nat) (byCol : Bool)
  deriving DecidableEq, Repr

/-- A matrix step (R244, R247). -/
structure Step where
  id : Nat
  gid : Nat
  holders : List Nat
  ctx : Nat
  pkg : Nat
  core : Nat
  view : Nat                   -- view number
  m : Nat
  n : Nat
  k : Nat
  afmt : Nat
  bfmt : Nat
  a : StepOperand
  b : StepOperand
  zero : Bool                  -- .z
  sparse : Nat                 -- 0 dense, 1 .s24, 2 .cb
  metaVa : Nat
  bitmap : Word
  seq : Nat                    -- place of its batch among the commits, 0 while uncommitted
  fetched : List Snapshot      -- operand lines taken
  parked : List Nat            -- operand lines that wait for their page
  epoch : Nat := 0             -- the context's epoch at issue (R283)
  lost : List Nat := []        -- lines whose requests were dropped at their home (R283)
  deriving DecidableEq, Repr

/-- What an engine operation does (R253 to R264, R386, R415, R294). -/
inductive EngKind where
  | mstMem (dst stride fmt rows cols : Nat) (bytes : List (List Byte))
  | mstTile (entry row col fmt rows cols : Nat) (elems : List (List Nat))
  | cpy (dst src len : Nat)
  | cpy2d (dst src rowBytes rows sstride dstride : Nat)
  | tld (entry src stride : Nat)
  | tst (dst entry stride : Nat)
  | gath (dst table n rowb stride list : Nat)
  | scat (table src n rowb stride list slot gen : Nat)
  | rowpub (dst src len : Nat)
  | coll (dst src count level kind type seqNo : Nat)
  | cpyg (host dst len counter statusReg : Nat)
  | redgo (block statusReg : Nat)
  | nodeCopy (dst src len q node : Nat)
  deriving DecidableEq, Repr

/-- An engine operation in flight. -/
structure Eng where
  id : Nat
  gid : Nat                    -- 0 for a COPY node
  ctx : Nat
  pkg : Nat
  core : Nat
  kind : EngKind
  scope : Nat                  -- scope code
  physScope : Nat              -- its binding
  abid : Option Nat
  reads : List (Nat × List Byte)   -- units read: (unit, bytes)
  written : List Nat           -- units written
  parked : List Nat            -- addresses that wait for their page
  poison : List (Nat × Nat)    -- what was read poisoned: a unit, and the 16 bytes of it, counted from 0 (R258)
  ct : Nat                     -- largest CT of its writes
  status : Option Nat          -- CPYG and REDGO: the status once known
  tail : Bool                  -- CPYG, REDGO: the request has been carried out; SCAT: its requests are sent
  holders : List Nat
  issueCore : Nat := 0         -- the core it was issued on: a collective's member adds there (R265)
  epoch : Nat := 0             -- the context's epoch at issue (R283)
  arrived : Bool := false      -- CPYG: it has arrived at the PCIe interface and waits there for a page (R416)
  cut : List Nat := []         -- REDGO: base-die links that failed while it was in flight (R422)
  fell : Bool := false         -- CPYG: TDISP fell to ERROR before it began (R408)
  lost : List (Bool × Nat) := [] -- units whose requests were dropped at their home (R283): a write or not, and which
  deriving DecidableEq, Repr

/-- A near-memory command (R379). -/
inductive NmKind where
  | on (bf16 : Bool)
  | off
  | bc (e0 n : Nat) (vals : List Word)
  | zero (a0 k : Nat)
  | mac (nb a0 lr bbase bstep : Nat)
  | rd (a0 k : Nat)
  deriving DecidableEq, Repr

structure Nm where
  id : Nat
  gid : Nat
  split : Nat
  ctx : Nat
  pkg : Nat
  core : Nat
  pch : Nat
  va : Nat
  kind : NmKind
  d : Nat                      -- destination operand
  epoch : Nat
  mask : Mask
  gw : Word := 0               -- the GID that its response carries (R328)
  deriving DecidableEq, Repr

/-- A ROPLD or ROPDROP under way (R353, R362). -/
structure DefOp where
  id : Nat
  gid : Nat
  ctx : Nat
  pkg : Nat
  core : Nat
  slot : Nat
  d : Nat
  load : Bool
  va : Nat
  len : Nat
  units : List (Nat × List Byte)
  code : Option Nat            -- the status once decided, to be delivered
  lead : Bool                  -- this ROPLD took the slot to LOADING
  holders : List Nat
  gw : Word := 0               -- the GID that its response carries (R328)
  epoch : Nat := 0             -- the context's epoch at issue (R283)
  lost : List Nat := []        -- units of the image whose requests were dropped at their home (R283)
  deriving DecidableEq, Repr

/-! ## Packages -/

inductive FieldState where
  | off | ramp | on | failed
  deriving DecidableEq, Repr

structure Field where
  state : FieldState := .off
  rampStart : Nat := 0
  cycles : Nat := 0
  qmap : Word := 0x0FFFFFFF
  head : Nat := 4260
  grant : Nat := 4300
  thr : Nat := 0
  corrected : Nat := 0
  stale : Nat := 0
  skew : Nat := 0
  deriving DecidableEq, Repr

inductive LinkState where
  | untrained | up | failed
  deriving DecidableEq, Repr

inductive Tdisp where
  | unlocked | locked | run | error
  deriving DecidableEq, Repr

inductive PortState where
  | down | training | up | degraded | failed
  deriving DecidableEq, Repr

structure Port where
  state : PortState := .down
  lanes : Nat := 0
  peerPkg : Nat := 0
  peerPort : Nat := 0
  reason : Nat := 0
  corr : Nat := 0
  replay : Nat := 0
  fails : List Nat := []       -- ticks at which its last attempts to train failed, newest first, at most three
  deriving DecidableEq, Repr

structure HWin where
  en : Bool := false
  mode : Bool := false
  ctx : Nat := 0
  base : Nat := 0              -- BASE [63:30]
  deriving DecidableEq, Repr

/-- The SPDM responder's progress (R409). -/
inductive SpdmStage where
  | start | version | capabilities | algorithms
  deriving DecidableEq, Repr

/-- What the responder or a window answered the host: the outputs of R276, R409 and R413. -/
inductive HostOut where
  | bytes (bs : List Byte)
  | ok
  | error
  | unsupportedRequest
  | completerAbort
  | malformed
  deriving DecidableEq, Repr

/-- A context command under way (R272): OP and context number. -/
structure CtxCmd where
  op : Nat
  ctx : Nat
  deriving DecidableEq, Repr

/-- A page command that waits for leases to expire (R394, R397): OP, context and pages. -/
structure PgCmd where
  op : Nat
  ctx : Nat
  pages : List Nat
  deriving DecidableEq, Repr

structure Pkg where
  num : Nat
  skew : Nat := 0
  stage : Nat := 0
  failed : Bool := false
  failStage : Nat := 0
  fields : List Field := List.replicate 6 { }
  stackCorrected : List Nat := List.replicate 12 0
  bdLinks : List LinkState := List.replicate 11 .untrained
  rate : Nat := 0
  width : Nat := 0
  flit : Bool := false
  tdisp : Tdisp := .unlocked
  idesec : BitVec 5 := 0
  ideConf : BitVec 5 := 1
  sess : Bool := false
  spdm : SpdmStage := .start
  kex : Bool := false          -- a KEY_EXCHANGE waits for its FINISH
  ctxArg : Nat := 0
  ctxDrop : Bool := false
  ctxStatState : Nat := 0
  ctxResult : Nat := 0
  ctxCmd : Option CtxCmd := none
  pgArg : Nat := 0
  pgCmd : Option PgCmd := none
  pgDrop : Bool := false
  pgResult : Nat := 0
  frames : Nat := 262016
  clkDomain : Nat := 0
  ports : List Port := List.replicate 64 { }
  routes : List DWord := List.replicate 128 0
  unreach : List (Nat × Nat) := []   -- (package, tick since which it is unreachable); from tick 0 where not listed
  cbaNext : Nat := 0                 -- tick of the CBA's next grant
  hwins : List HWin := List.replicate 16 { }
  rest : Nat := 0                    -- draw of the stacks, the SerDes and the remainder, in W (R429)
  draws : List Nat := []             -- package draw of the last microseconds, newest first, in mW: at most 999
  overs : List Nat := []             -- ticks of the grants of the last 100 ms that found it above SUST
  sust : Nat := 2800
  peak : Nat := 3100
  slotGens : List (Nat × Nat × Nat) := []  -- (core, slot, GEN) where not 0
  slotFreed : List (Nat × Nat × Nat) := [] -- (core, slot, cycle count at which it was freed)
  withdrawn : List (Nat × Nat) := [] -- (pseudo-channel, frame unit)
  irqs : List Nat := []
  dropped : Nat := 0
  out : List HostOut := []
  deriving DecidableEq, Repr

/-! ## The schedule: which agent moves next -/

/-- One move: ticks and arithmetic cycles that pass before it, each field counting those of its own clock, and the act
(log entry 3). -/
structure Move where
  ticks : Nat
  cycles : Nat                 -- in every field that slow does not name
  act : Act
  pkg : Nat := 0               -- the package and the context a device step without operands acts on
  ctx : Nat := 0
  slow : List (Nat × Nat × Nat) := [] -- (package, field, cycles): fields whose clocks count otherwise (R4, R430, R431)
  deriving DecidableEq, Repr

/-! ## Waits of R400 for a page, other than those of accesses and engine operations -/

/-- What waits: a launch, an instance's completion write, the take of a queue's entry, a queue's node, or its DONE
write (R286, R295, R447). -/
inductive PageWaiter where
  | launch (inst : Nat)
  | completion (inst : Nat)
  | take (q : Nat)
  | node (q : Nat)
  | done (q : Nat)
  deriving DecidableEq, Repr

/-- A wait for a page: whose, on what package and context, the page, and whether DENY has ended it. -/
structure PageWait where
  who : PageWaiter
  pkg : Nat
  ctx : Nat
  va : Nat
  denied : Bool := false
  lost : Bool := false         -- it waits for no page: its request was dropped at its home, being of another epoch (R283)
  deriving DecidableEq, Repr

/-- A write of the device's own that waits: for the unpin of its line (R168), or for a way to its home (R421). -/
structure HeldWrite where
  pkg : Nat
  ctx : Nat
  va : Nat
  bytes : List Byte
  epoch : Nat := 0             -- the context's epoch when it was made (R283)
  deriving DecidableEq, Repr

/-- A request that a pseudo-channel's or a slice's unit holds, not begun (R404): a remote opcode, an NMMAC, or a ROWPUB's or
a REDGO's. -/
inductive CuuReq where
  | rop (id : Nat)
  | nm (id : Nat)
  | eng (id : Nat)
  deriving DecidableEq, Repr

/-- The state of the domain. -/
structure State where
  tick : Nat
  mem : List Host.Cell
  seals : List (Nat × List Byte × Nat)     -- (physical line, key, tweak)
  poison : List Nat                         -- poisoned 32-byte units, physical
  eccCount : List (Nat × Nat)               -- (physical 32-byte unit, errors)
  hostMem : List Host.Cell
  leases : List (Nat × Nat × Nat)           -- (context, virtual line, latest expiry)
  leaseHold : List (Nat × Nat × Nat)        -- (context, virtual line, until): a write waits for leases to expire (R145)
  order : List (Nat × Nat × Nat)            -- (context, virtual line, writes performed so far): the line's home order (R147)
  guests : List Guest
  pkgs : List Pkg
  ctxs : List Ctx
  insts : List Inst
  groups : List Group
  cores : List Core
  coreRecs : List CoreRec
  pages : List Page
  pageWaits : List PageWait
  sessions : List NmSession
  loads : List Load
  writes : List Write
  rops : List Rop
  nms : List Nm
  steps : List Step
  engs : List Eng
  defOps : List DefOp
  heldWrites : List HeldWrite               -- oldest first
  cuu : List CuuReq                         -- requests that units hold, in their order of arrival (R404)
  agenda : List Move
  choiceCtr : Nat                           -- counter the free values are applied to
  cur : Option (Nat × Nat)                  -- the issuing group and split
  focus : Nat × Nat                         -- the package and context the move names
  nextId : Nat
  deriving DecidableEq, Repr

/-- The machine right after module reset (R5, R270, R411, R423, R424): every package with its registers at
their reset values, memory with nothing listed, no context, no group, nothing in flight.  The number of
packages is a DESIGN CHOICE (log entry 2); the values no rule gives are named in log entries 1 to 5. -/
def State.reset : State where
  tick := 0
  mem := []
  seals := []
  poison := []
  eccCount := []
  hostMem := []
  leases := []
  leaseHold := []
  order := []
  guests := []
  pkgs := Config.packages.map (fun n => { num := n })
  ctxs := []
  insts := []
  groups := []
  cores := []
  coreRecs := []
  pages := []
  pageWaits := []
  sessions := []
  loads := []
  writes := []
  rops := []
  nms := []
  steps := []
  engs := []
  defOps := []
  heldWrites := []
  cuu := []
  agenda := []
  choiceCtr := 0
  cur := none
  focus := (0, 0)
  nextId := 1

end Sys2Proof.Machine
end

