-- ==== Sys2Proof/Machine/Tables.lean ====
section
/-! DEFINITION. Looking up and replacing the entries of State's tables: one accessor and one update for each. -/

namespace Sys2Proof.Machine

open Sys2Proof

/-- Replace the entries for which p holds by f of them. -/
def upd {α : Type} (l : List α) (p : α → Bool) (f : α → α) : List α := l.map (fun x => if p x then f x else x)

/-- l[i] := v where i is in range. -/
def setAt {α : Type} (l : List α) (i : Nat) (v : α) : List α := l.set i v

/-- l[i] := f l[i] where i is in range. -/
def modAt {α : Type} (l : List α) (i : Nat) (f : α → α) : List α := l.modify i f

namespace State

def pkg? (s : State) (n : Nat) : Option Pkg := s.pkgs.find? (fun p => p.num == n)
def mapPkg (s : State) (n : Nat) (f : Pkg → Pkg) : State := { s with pkgs := upd s.pkgs (fun p => p.num == n) f }

def ctx? (s : State) (pkg num : Nat) : Option Ctx := s.ctxs.find? (fun c => c.pkg == pkg && c.num == num)
def mapCtx (s : State) (pkg num : Nat) (f : Ctx → Ctx) : State :=
  { s with ctxs := upd s.ctxs (fun c => c.pkg == pkg && c.num == num) f }

def inst? (s : State) (id : Nat) : Option Inst := s.insts.find? (fun i => i.id == id)
def mapInst (s : State) (id : Nat) (f : Inst → Inst) : State := { s with insts := upd s.insts (fun i => i.id == id) f }

def group? (s : State) (id : Nat) : Option Group := s.groups.find? (fun g => g.id == id)
def mapGroup (s : State) (id : Nat) (f : Group → Group) : State := { s with groups := upd s.groups (fun g => g.id == id) f }

def core? (s : State) (pkg idx : Nat) : Option Core := s.cores.find? (fun c => c.pkg == pkg && c.idx == idx)
def mapCore (s : State) (pkg idx : Nat) (f : Core → Core) : State :=
  { s with cores := upd s.cores (fun c => c.pkg == pkg && c.idx == idx) f }

/-- Update every core's state, on its core or in the green room. -/
def mapCores (s : State) (f : Core → Core) : State :=
  { s with cores := s.cores.map f, coreRecs := s.coreRecs.map (fun r => { r with core := f r.core }) }

/-- Update the core state of an instance that a group uses: on its core, or in its core record (R338). -/
def mapCoreOf (s : State) (g : Group) (f : Core → Core) : State :=
  match g.coreRec with
  | some r => { s with coreRecs := upd s.coreRecs (fun x => x.id == r) (fun x => { x with core := f x.core }) }
  | none => mapCore s g.pkg g.core f

def page? (s : State) (ctx pkg va : Nat) : Option Page := s.pages.find? (fun p => p.ctx == ctx && p.pkg == pkg && p.va == va)
def mapPage (s : State) (ctx pkg va : Nat) (f : Page → Page) : State :=
  { s with pages := upd s.pages (fun p => p.ctx == ctx && p.pkg == pkg && p.va == va) f }

def session? (s : State) (pkg pch : Nat) : Option NmSession := s.sessions.find? (fun n => n.pkg == pkg && n.pch == pch)

def load? (s : State) (id : Nat) : Option Load := s.loads.find? (fun x => x.id == id)
def mapLoad (s : State) (id : Nat) (f : Load → Load) : State := { s with loads := upd s.loads (fun x => x.id == id) f }
def dropLoad (s : State) (id : Nat) : State := { s with loads := s.loads.filter (fun x => x.id != id) }

def write? (s : State) (id : Nat) : Option Write := s.writes.find? (fun x => x.id == id)
def mapWrite (s : State) (id : Nat) (f : Write → Write) : State := { s with writes := upd s.writes (fun x => x.id == id) f }
def dropWrite (s : State) (id : Nat) : State := { s with writes := s.writes.filter (fun x => x.id != id) }

def rop? (s : State) (id : Nat) : Option Rop := s.rops.find? (fun x => x.id == id)
def mapRop (s : State) (id : Nat) (f : Rop → Rop) : State := { s with rops := upd s.rops (fun x => x.id == id) f }
def dropRop (s : State) (id : Nat) : State := { s with rops := s.rops.filter (fun x => x.id != id) }

def nm? (s : State) (id : Nat) : Option Nm := s.nms.find? (fun x => x.id == id)
def dropNm (s : State) (id : Nat) : State := { s with nms := s.nms.filter (fun x => x.id != id) }

def step? (s : State) (id : Nat) : Option Step := s.steps.find? (fun x => x.id == id)
def mapStep (s : State) (id : Nat) (f : Step → Step) : State := { s with steps := upd s.steps (fun x => x.id == id) f }
def dropStep (s : State) (id : Nat) : State := { s with steps := s.steps.filter (fun x => x.id != id) }

def eng? (s : State) (id : Nat) : Option Eng := s.engs.find? (fun x => x.id == id)
def mapEng (s : State) (id : Nat) (f : Eng → Eng) : State := { s with engs := upd s.engs (fun x => x.id == id) f }
def dropEng (s : State) (id : Nat) : State := { s with engs := s.engs.filter (fun x => x.id != id) }

def defOp? (s : State) (id : Nat) : Option DefOp := s.defOps.find? (fun x => x.id == id)
def mapDefOp (s : State) (id : Nat) (f : DefOp → DefOp) : State := { s with defOps := upd s.defOps (fun x => x.id == id) f }
def dropDefOp (s : State) (id : Nat) : State := { s with defOps := s.defOps.filter (fun x => x.id != id) }

/-- A fresh identifier is nextId; this moves past it. -/
def bump (s : State) : State := { s with nextId := s.nextId + 1 }

/-- The next value of the counter the free values are applied to (log entry 3). -/
def bumpChoice (s : State) : State := { s with choiceCtr := s.choiceCtr + 1 }

end State

def Group.split? (g : Group) (id : Nat) : Option Split := g.splits.find? (fun x => x.id == id)
def Group.mapSplit (g : Group) (id : Nat) (f : Split → Split) : Group :=
  { g with splits := upd g.splits (fun x => x.id == id) f }

/-- Update one split of one group. -/
def State.mapSplit (s : State) (gid sp : Nat) (f : Split → Split) : State := s.mapGroup gid (fun g => g.mapSplit sp f)

/-- An L1 is invalidated: its prefetcher may hold a line of it longer, and fill the L1 with it again (R134, R163; log
entry 133). -/
def Core.dropL1 (c : Core) : Core := { c with l1 := [], past := c.past ++ c.l1 }

/-- A core that no instance holds, with its range-lock table. -/
def Core.bare (pkg idx : Nat) (rlt : List RltEntry) : Core :=
  { pkg := pkg, idx := idx, inst := 0, regend := 0, ashend := 0, tiles := List.replicate 32 { }, ashlar := [], l1 := [], rlt := rlt
    objs := List.replicate 64 { }, items := [], swaps := 0 }

/-- Entries of the range-lock table of a core stay there, whoever has the core (R269). -/
def State.keepAt (s : State) (pkg idx : Nat) (rlt : List RltEntry) : State :=
  if rlt.isEmpty then s
  else
    match s.core? pkg idx with
    | some _ => s.mapCore pkg idx (fun c => { c with rlt := c.rlt ++ rlt.filter (fun e => !c.rlt.contains e) })
    | none => { s with cores := Core.bare pkg idx rlt :: s.cores }

/-- Some cores' states are gone; what is left in their range-lock tables stays (R269). -/
def State.keepEntries (s : State) (cs : List Core) : State := cs.foldl (fun s c => s.keepAt c.pkg c.idx c.rlt) s

/-- The field that a package core index lies in (R20). -/
def fieldOf (core : Nat) : Nat := core / 112

/-- A package's timebase as an agent of field f of it reads it (R4, R148). -/
def ctNow (s : State) (pkg fld : Nat) : Nat :=
  match s.pkg? pkg with
  | some p => s.tick + p.skew + (p.fields.getD fld { }).skew
  | none => s.tick

/-- One field of one package. -/
def State.mapField (s : State) (pkg fld : Nat) (f : Field → Field) : State :=
  s.mapPkg pkg (fun p => { p with fields := modAt p.fields fld f })

end Sys2Proof.Machine
end

