-- ==== Sys2Proof/Machine/Memory.lean ====
section
/-! DEFINITION. Memory: the canonical list of bytes, encryption seals and poison, placement routing (R139 to R142), translation at the channel (R392 to R395), and one read and one write performed at a home (R145, R147, R156). -/

namespace Sys2Proof.Machine

open Sys2Proof

/-! ## The canonical list (log entry 1: an unlisted byte reads as 0) -/

/-- What an unlisted address reads as. DESIGN CHOICE (log entry 1): the spec gives DRAM no contents at reset. -/
def Memory.unlisted : Byte := 0

/-- Read one byte. -/
def Memory.read (m : List Host.Cell) (a : Nat) : Byte :=
  match m with
  | [] => Memory.unlisted
  | (x, b) :: t => if x = a then b else Memory.read t a

/-- Write one byte, keeping the addresses rising and listing no byte equal to Memory.unlisted. -/
def Memory.write (m : List Host.Cell) (a : Nat) (b : Byte) : List Host.Cell :=
  match m with
  | [] => if b = Memory.unlisted then [] else [(a, b)]
  | (x, c) :: t =>
    if a < x then (if b = Memory.unlisted then (x, c) :: t else (a, b) :: (x, c) :: t)
    else if a = x then (if b = Memory.unlisted then t else (a, b) :: t)
    else (x, c) :: Memory.write t a b

/-- The canonical form, from a lower bound on the addresses up. -/
def Memory.wfFrom (lo : Nat) (m : List Host.Cell) : Bool :=
  match m with
  | [] => true
  | (x, b) :: t => decide (lo ≤ x) && b != Memory.unlisted && Memory.wfFrom (x + 1) t

/-- The canonical form: addresses strictly rising, no entry equal to what an unlisted address reads as. -/
def Memory.wf (m : List Host.Cell) : Bool := Memory.wfFrom 0 m

/-- Read n bytes from a up. -/
def Memory.readN (m : List Host.Cell) (a n : Nat) : List Byte := (List.range n).map (fun i => Memory.read m (a + i))

/-- Write bytes from a up. -/
def Memory.writeN (m : List Host.Cell) (a : Nat) (bs : List Byte) : List Host.Cell :=
  match bs with
  | [] => m
  | b :: t => Memory.writeN (Memory.write m a b) (a + 1) t

/-! ## Byte order (R2) -/

/-- The number that bytes hold, least significant first. -/
def leNat (bs : List Byte) : Nat :=
  match bs with
  | [] => 0
  | b :: t => b.toNat + 256 * leNat t

/-- The low n bytes of a number, least significant first. -/
def toLE (n v : Nat) : List Byte := (List.range n).map (fun i => BitVec.ofNat 8 (v / 256 ^ i))

/-- Bytes i to i + n of a list as a number. -/
def leAt (bs : List Byte) (i n : Nat) : Nat := leNat ((bs.drop i).take n)

/-- Overlay bytes on a list from place i. -/
def overlay (old : List Byte) (i : Nat) (new : List Byte) : List Byte :=
  old.take i ++ new.take (old.length - i) ++ old.drop (i + new.length)

/-! ## Physical addresses (R141, R392, R412) -/

/-- Byte o of pseudo-channel k of a package, as State.mem's key. -/
def physKey (pkg pch o : Nat) : Nat := 2 ^ 40 * pkg + 2 ^ 30 * pch + o

/-- Package of a physical key. -/
def keyPkg (a : Nat) : Nat := a / 2 ^ 40

/-! ## Seals: AES-XTS under a key and a tweak (R405, log entry 12) -/

/-- The key and tweak a physical line was written with. -/
def sealOf (s : State) (line : Nat) : Option (List Byte × Nat) :=
  (s.seals.find? (fun x => x.1 == line)).map (·.2)

/-- What bytes written under one key and tweak read as under another: between two contexts' keys what AES-XTS-256 makes
of them (R405), else a free value. -/
def recipher (k : List Byte) (t : Nat) (raw key : List Byte) (tweak : Nat) : List Byte :=
  if k.length = 64 ∧ key.length = 64 then xtsLine true key tweak (xtsLine false k t raw) else Config.recipher k t raw key tweak

/-- The bytes of a physical line as read under a key and a tweak. -/
def lineUnder (s : State) (line : Nat) (key : List Byte) (tweak : Nat) : List Byte :=
  let raw := Memory.readN s.mem (128 * line) 128
  match sealOf s line with
  | none => raw
  | some (k, t) =>
    if k = key ∧ t = tweak then raw
    else
      let r := recipher k t raw key tweak
      (List.range 128).map (fun i => r.getD i 0)

/-- Read n bytes that lie in one line, under a key and a tweak. -/
def readPhys (s : State) (key : List Byte) (tweak a n : Nat) : List Byte :=
  match sealOf s (a / 128) with
  | none => Memory.readN s.mem a n
  | some (k, t) =>
    if k = key ∧ t = tweak then Memory.readN s.mem a n
    else ((lineUnder s (a / 128) key tweak).drop (a % 128)).take n

/-- The 32-byte units of a physical line. -/
def lineUnits (line : Nat) : List Nat := [4 * line, 4 * line + 1, 4 * line + 2, 4 * line + 3]

/-- Write bytes that lie in one line, under a key and a tweak; a write of the whole line clears its poison
(R24). -/
def writePhys (s : State) (key : List Byte) (tweak a : Nat) (bs : List Byte) : State :=
  let line := a / 128
  let s1 : State :=
    match sealOf s line with
    | some (k, t) =>
      if k = key ∧ t = tweak then { s with mem := Memory.writeN s.mem a bs }
      else
        let l := overlay (lineUnder s line key tweak) (a % 128) bs
        { s with mem := Memory.writeN s.mem (128 * line) l
                 seals := (line, key, tweak) :: s.seals.filter (fun x => x.1 != line) }
    | none =>
      { s with mem := Memory.writeN s.mem a bs, seals := (line, key, tweak) :: s.seals }
  if bs.length = 128 then { s1 with poison := s1.poison.filter (fun u => !(lineUnits line).contains u) } else s1

/-- Whether one of n bytes from a on is poisoned (R24). -/
def poisonedAt (s : State) (a n : Nat) : Bool :=
  s.poison.any (fun u => decide (u * 32 < a + n) && decide (a < u * 32 + 32))

/-! ## Routing (R139 to R142) -/

/-- The 56 low bits of an address: VA[55:0]. -/
def va56 (va : Nat) : Nat := va % 2 ^ 56

/-- The canonical address of 56 low bits. -/
def vaFull (v : Nat) : Nat := if v / 2 ^ 55 % 2 = 1 then v % 2 ^ 56 + (2 ^ 64 - 2 ^ 56) else v % 2 ^ 56

/-- The virtual line of an address. -/
def lineOf (va : Nat) : Nat := va56 va / 128

/-- Bits [63:56] each equal bit 55 (R139). -/
def canonical (va : Nat) : Bool := va / 2 ^ 55 % 512 == 0 || va / 2 ^ 55 % 512 == 511

/-- The entry's range contains the address (R140). -/
def PtEntry.covers (e : PtEntry) (va : Nat) : Bool :=
  e.valid && va56 va / 2 ^ e.log2size == e.base * 2 ^ 30 / 2 ^ e.log2size

/-- The one valid entry that contains a canonical address (R139). -/
def Ctx.route (c : Ctx) (va : Nat) : Option PtEntry :=
  if canonical va then
    match c.pt.filter (fun e => e.covers va) with
    | [e] => some e
    | _ => none
  else none

/-- The route of an address for a context on a package. -/
def routeOf (s : State) (pkg ctx va : Nat) : Option PtEntry :=
  match s.ctx? pkg ctx with
  | some c => c.route va
  | none => none

/-- Index of the stripe of an address in its range (R141). -/
def PtEntry.stripe (e : PtEntry) (va : Nat) : Nat := (va56 va - e.base * 2 ^ 30) / 4096

/-- Interleave set size N. -/
def PtEntry.n (e : PtEntry) : Nat := 2 ^ e.log2n

/-- The pseudo-channel that an address's stripe lies on (R141). -/
def Ctx.pchOf (c : Ctx) (e : PtEntry) (va : Nat) : Nat := c.pcl.getD (e.listbase + e.stripe va % e.n) 0

/-- The home slice of a CH line (R142). -/
def homeSlice (va : Nat) : Nat :=
  let h := va56 va / 128
  let y := (h ^^^ (h >>> 16) ^^^ (h >>> 32) ^^^ (h >>> 48)) % 2 ^ 16
  y * 960 / 2 ^ 16

/-- First address of the 2 MiB page of an address. -/
def pageVa (va : Nat) : Nat := va56 va / 2 ^ 21 * 2 ^ 21

/-! ## Translation at the channel (R392 to R395) -/

/-- Where an access stands at its channel. -/
inductive Trans where
  | unrouted
  | fault (home pch cause : Nat)      -- R399: 0 UNMAPPED, 1 RETIRED
  | at_ (home pch key : Nat)          -- the physical key
  deriving DecidableEq, Repr

/-- A page that answers accesses (R395, R404). -/
def PageState.reachable : PageState → Bool
  | .mapped | .migrating | .poisoned => true
  | .unmapped | .retired => false

/-- The physical key of an address in a page, through its frames (R392). -/
def Page.keyOf (p : Page) (c : Ctx) (e : PtEntry) (va : Nat) : Nat :=
  let st := va % 2 ^ 21 / 4096
  physKey e.home (c.pchOf e va) (4096 * (p.frames.getD (st % e.n) 0 + st / e.n) + va % 4096)

/-- Translate an address of a context's, as routed on package pkg. -/
def translate (s : State) (pkg ctx va : Nat) : Trans :=
  match s.ctx? pkg ctx with
  | none => .unrouted
  | some c =>
    match c.route va with
    | none => .unrouted
    | some e =>
      match s.page? ctx e.home (pageVa va) with
      | none => .fault e.home (c.pchOf e va) 0
      | some p =>
        if p.state.reachable then .at_ e.home (c.pchOf e va) (p.keyOf c e va)
        else .fault e.home (c.pchOf e va) (if p.state = .retired then 1 else 0)

/-- The memory key of a context, as its home package's channels hold it (R276).  A context without a key slot has the empty key, the device's (log entry 12). -/
def ctxKey (s : State) (pkg ctx : Nat) : List Byte :=
  match s.ctx? pkg ctx with
  | some c => c.key
  | none => []

/-- The key under which a package's channels keep host pool lines and device data (R405, R412). -/
def deviceKey : List Byte := []

/-- A line holds a context's fault queue header, which is device data (R405). -/
def holdsFqHeader (s : State) (home ctx line : Nat) : Bool :=
  s.ctxs.any (fun c => c.num == ctx && c.state != .tornDown && c.span.contains home && lineOf c.fqaddr == line)

/-- The key that a context's line is kept under at its home (R405). -/
def lineKey (s : State) (home ctx line : Nat) : List Byte :=
  if holdsFqHeader s home ctx line then deviceKey else ctxKey s home ctx

/-- Where an access of n bytes within one stripe ends: its bytes, or why it does not perform. -/
inductive Got where
  | bytes (bs : List Byte) (poisoned : Bool)
  | fault (home pch cause : Nat)
  | unrouted
  deriving DecidableEq, Repr

/-- Whether n bytes of one line hold poison at their home. -/
def poisonedVa (s : State) (pkg ctx va n : Nat) : Bool :=
  match translate s pkg ctx va with
  | .at_ _ _ a => poisonedAt s a n
  | _ => false

/-- Read n bytes of one line at the home. -/
def readHome (s : State) (pkg ctx va n : Nat) : Got :=
  match translate s pkg ctx va with
  | .unrouted => .unrouted
  | .fault h p c => .fault h p c
  | .at_ h _ a => .bytes (readPhys s (lineKey s h ctx (lineOf va)) (lineOf va) a n) (poisonedAt s a n)

/-- Read n bytes from va on, which may span lines; the first failure decides. -/
def readSpan (s : State) (pkg ctx va : Nat) : Nat → Got
  | 0 => .bytes [] false
  | n + 1 =>
    match readSpan s pkg ctx va n with
    | .bytes bs p =>
      match readHome s pkg ctx (va + n) 1 with
      | .bytes b q => .bytes (bs ++ b) (p || q)
      | g => g
    | g => g

/-- Little-endian word of n bytes at va, where it can be read. -/
def readWordAt (s : State) (pkg ctx va n : Nat) : Option Nat :=
  match readHome s pkg ctx va n with
  | .bytes bs _ => some (leNat bs)
  | _ => none

/-! ## The home order, leases and FENCES windows -/

/-- Writes performed so far to a virtual line (R147). -/
def orderOf (s : State) (ctx line : Nat) : Nat :=
  match s.order.find? (fun x => x.1 == ctx && x.2.1 == line) with
  | some (_, _, n) => n
  | none => 0

/-- One more write is performed to a line. -/
def bumpOrder (s : State) (ctx line : Nat) : State :=
  { s with order := (ctx, line, orderOf s ctx line + 1) :: s.order.filter (fun x => !(x.1 == ctx && x.2.1 == line)) }

/-- Latest lease expiry granted on a line, in reference ticks (R145). -/
def leaseOf (s : State) (ctx line : Nat) : Nat :=
  match s.leases.find? (fun x => x.1 == ctx && x.2.1 == line) with
  | some (_, _, e) => e
  | none => 0

/-- A package's timebase at its home units (R4, R148). -/
def homeNow (s : State) (pkg : Nat) : Nat :=
  match s.pkg? pkg with
  | some p => s.tick + p.skew
  | none => s.tick

/-- CT of a write performed now at home to a line, as the issuing package receives it (R145, R147, R148). -/
def writeCt (s : State) (issuer home ctx line : Nat) : Nat :=
  max (homeNow s home) (leaseOf s ctx line) + if home = issuer then 0 else 40

/-- A write performed at home marks every window that registered the line before T (R156). -/
def Window.hit (w : Window) (now line issuer home : Nat) : Window :=
  if w.regd.contains line && decide (now < w.target + if home = issuer then 0 else 40) then
    { w with conflict := true } else w

def markWindows (s : State) (home ctx line : Nat) : State :=
  { s with groups := s.groups.map (fun g =>
      if g.ctx = ctx then
        { g with splits := g.splits.map (fun sp => { sp with window := sp.window.map (fun w => w.hit (homeNow s home) line g.pkg home) }) }
      else g) }

/-- Whether a line is pinned by a matrix step (R168): a CH line it has fetched and not yet used. -/
def pinned (s : State) (pkg ctx va : Nat) : Bool :=
  match routeOf s pkg ctx va with
  | some e => !e.mh && s.steps.any (fun st => st.ctx == ctx && st.fetched.any (fun f => f.line == lineOf va))
  | none => false

/-- A write whose CT waits for a lease to expire: the home grants no new lease on the line until then (R145). -/
def holdLeases (s : State) (home ctx line : Nat) : State :=
  let e := leaseOf s ctx line
  if homeNow s home < e then
    { s with leaseHold := (ctx, line, e) :: s.leaseHold.filter (fun x => !(x.1 == ctx && x.2.1 == line)) }
  else s

/-- Perform a write of bytes of one line at its home: contents, home order, leases, windows. -/
def performAt (s : State) (home ctx va key : Nat) (bs : List Byte) : State :=
  let s1 := writePhys s (lineKey s home ctx (lineOf va)) (lineOf va) key bs
  markWindows (holdLeases (bumpOrder s1 ctx (lineOf va)) home ctx (lineOf va)) home ctx (lineOf va)

/-- Perform a write of bytes of one line if it translates. -/
def writeHome (s : State) (pkg ctx va : Nat) (bs : List Byte) : State :=
  match translate s pkg ctx va with
  | .at_ h _ a => performAt s h ctx va a bs
  | _ => s

/-- Split bytes at va into pieces that lie in one 16-byte unit each. -/
def unitPieces (va : Nat) (bs : List Byte) : Nat → List (Nat × List Byte)
  | 0 => []
  | fuel + 1 =>
    if bs.isEmpty then []
    else
      let k := 16 - va % 16
      (va, bs.take k) :: unitPieces (va + k) (bs.drop k) fuel

/-- Split bytes at an address into pieces that lie in one line each. -/
def linePieces (a : Nat) (bs : List Byte) : Nat → List (Nat × List Byte)
  | 0 => []
  | fuel + 1 =>
    if bs.isEmpty then []
    else
      let k := 128 - a % 128
      (a, bs.take k) :: linePieces (a + k) (bs.drop k) fuel

/-- Write bytes that may span lines, line by line, where every line translates: a whole line keeps no poison (R24). -/
def writeSpan (s : State) (pkg ctx va : Nat) (bs : List Byte) : State :=
  (linePieces va bs (bs.length + 1)).foldl (fun s p => writeHome s pkg ctx p.1 p.2) s

/-- Every byte of a range translates. -/
def spanReachable (s : State) (pkg ctx va n : Nat) : Bool :=
  (unitPieces va (List.replicate n (0 : Byte)) (n + 1)).all (fun p =>
    match translate s pkg ctx p.1 with
    | .at_ _ _ _ => true
    | _ => false)

/-- Every byte of a range lies in a page that is MAPPED or POISONED (R281, R399). -/
def spanStands (s : State) (pkg ctx va n : Nat) : Bool :=
  (unitPieces va (List.replicate n (0 : Byte)) (n + 1)).all (fun p =>
    match routeOf s pkg ctx p.1 with
    | some e =>
      match s.page? ctx e.home (pageVa p.1) with
      | some q => q.state == .mapped || q.state == .poisoned
      | none => false
    | none => false)

/-- A package belongs to the span of a context that another one holds. -/
def inSpan (s : State) (pkg ctx p : Nat) : Bool :=
  match s.ctx? pkg ctx with
  | some c => c.span.contains p
  | none => p == pkg

/-- The first address of a range that fails translation: home, channel, cause and address. -/
def spanFault (s : State) (pkg ctx va n : Nat) : Option (Nat × Nat × Nat × Nat) :=
  (unitPieces va (List.replicate n (0 : Byte)) (n + 1)).findSome? (fun p =>
    match translate s pkg ctx p.1 with
    | .fault h c k => some (h, c, k, p.1)
    | _ => none)

/-- A range is canonical and lies wholly inside one placement range; an empty one is judged by its address. -/
def inOneRange (s : State) (pkg ctx va n : Nat) : Bool :=
  let last := va + max n 1 - 1
  match routeOf s pkg ctx va with
  | some e => decide (last < 2 ^ 64) && canonical last && e.covers last
  | none => false

/-- Every byte of a range is routed (R139). -/
def spanRouted (s : State) (pkg ctx va n : Nat) : Bool :=
  (unitPieces va (List.replicate n (0 : Byte)) (n + 1)).all (fun p => (routeOf s pkg ctx p.1).isSome)

/-! ## Reaching another package (R283, R421) -/

/-- A port that carries traffic. -/
def Port.usable (p : Port) : Bool := p.state == .up || p.state == .degraded

/-- A package's route to package n has a usable port. -/
def routeUp (s : State) (pkg n : Nat) : Bool :=
  n == pkg ||
    match s.pkg? pkg with
    | some p => (List.range 64).any (fun i => (p.routes.getD n 0).getLsbD i && (p.ports.getD i { }).usable)
    | none => false

/-- Two packages hold a context in one epoch, or one of them does not hold it. -/
def sameEpoch (s : State) (ctx a b : Nat) : Bool :=
  match s.ctx? a ctx, s.ctx? b ctx with
  | some c, some d => c.epoch == d.epoch
  | _, _ => true

/-- A package with a FAILED field: its module is unusable until module reset (R423). -/
def Pkg.broken (p : Pkg) : Bool := p.fields.any (fun f => f.state == .failed)

/-- A package answers requests. -/
def pkgAnswers (s : State) (n : Nat) : Bool :=
  match s.pkg? n with
  | some p => !p.broken
  | none => true

/-- A request for an address has a way to its home: traffic to an unreachable or an unusable package waits. -/
def linked (s : State) (pkg ctx va : Nat) : Bool :=
  match routeOf s pkg ctx va with
  | some e => routeUp s pkg e.home && pkgAnswers s e.home
  | none => true

/-- The home of an address has a way back: a response to a package that its home cannot reach waits there (R421). -/
def answered (s : State) (pkg ctx va : Nat) : Bool :=
  match routeOf s pkg ctx va with
  | some e => routeUp s e.home pkg
  | none => true

/-- A request for an address has a way to its home and its response one back. -/
def linkedBoth (s : State) (pkg ctx va : Nat) : Bool := linked s pkg ctx va && answered s pkg ctx va

/-- An access that the device makes at one instant reaches its home and is answered, and the home takes packets of the
context's epoch here (R283). -/
def linkedNow (s : State) (pkg ctx va : Nat) : Bool :=
  linkedBoth s pkg ctx va &&
    match routeOf s pkg ctx va with
    | some e => sameEpoch s ctx pkg e.home
    | none => true

/-- The epoch of a context on a package, which its packets issued there carry (R283). -/
def ctxEpoch (s : State) (pkg ctx : Nat) : Nat :=
  match s.ctx? pkg ctx with
  | some c => c.epoch
  | none => 0

/-- Home package of an address, as a package routes it; that package itself where it is not routed. -/
def homeOf (s : State) (pkg ctx va : Nat) : Nat :=
  match routeOf s pkg ctx va with
  | some e => e.home
  | none => pkg

/-- A request of some epoch meets another one at its home, which drops it (R283). -/
def staleAt (s : State) (pkg ctx epoch va : Nat) : Bool :=
  match s.ctx? (homeOf s pkg ctx va) ctx with
  | some c => c.epoch != epoch
  | none => false

/-- A packet of an old epoch is dropped and counted where it arrives (R283). -/
def dropPacket (s : State) (pkg : Nat) : State := s.mapPkg pkg (fun p => { p with dropped := p.dropped + 1 })

/-! ## Writes of the device's own (R168) -/

/-- A write to a line waits: it is pinned, or an earlier write waits for it. -/
def lineHeld (s : State) (pkg ctx va : Nat) : Bool :=
  pinned s pkg ctx va || s.heldWrites.any (fun w => w.ctx == ctx && lineOf w.va == lineOf va)

/-- A line of some bytes is pinned by a matrix step. -/
def spanHeld (s : State) (pkg ctx va n : Nat) : Bool :=
  (unitPieces va (List.replicate n (0 : Byte)) (n + 1)).any (fun p => lineHeld s pkg ctx p.1)

/-- One packet of a write that the device makes of itself: it waits where its line is pinned or it has no way to its
home, and is dropped and counted there where it is of another epoch (R168, R283, R421). -/
def sendOwn (s : State) (w : HeldWrite) : State :=
  if lineHeld s w.pkg w.ctx w.va || !linked s w.pkg w.ctx w.va then { s with heldWrites := s.heldWrites ++ [w] }
  else if staleAt s w.pkg w.ctx w.epoch w.va then dropPacket s (homeOf s w.pkg w.ctx w.va)
  else writeHome s w.pkg w.ctx w.va w.bytes

/-- A write that the device makes of itself, a packet for each line. -/
def writeOwn (s : State) (pkg ctx va : Nat) (bs : List Byte) : State :=
  (linePieces va bs (bs.length + 1)).foldl (fun s p =>
    sendOwn s { pkg := pkg, ctx := ctx, va := p.1, bytes := p.2, epoch := ctxEpoch s pkg ctx }) s

/-- The device's writes that need wait no longer are performed, in their order. -/
def writeHeldOnes (s : State) : State :=
  if s.heldWrites.isEmpty then s else s.heldWrites.foldl sendOwn { s with heldWrites := [] }

/-! ## The host pool (R412) -/

/-- Frames that pages hold or are migrating to on a pseudo-channel of a package: first 4 KiB unit, and units. -/
def frameRuns (s : State) (pkg pch : Nat) : List (Nat × Nat) :=
  s.pages.flatMap (fun p =>
    if p.pkg = pkg && p.state != .unmapped then
      match s.ctx? pkg p.ctx with
      | some c =>
        match c.route (vaFull p.va) with
        | some e =>
          (List.range e.n).flatMap (fun j =>
            if c.pcl.getD (e.listbase + j) 0 = pch then
              ((p.frames[j]?).toList ++ if p.state = .migrating then (p.newFrames[j]?).toList else []).map (fun u => (u, 512 / e.n))
            else [])
        | none => []
      | none => []
    else [])

/-- Two runs of units meet. -/
def runsMeet (a b : Nat × Nat) : Bool := decide (a.1 < b.1 + b.2) && decide (b.1 < a.1 + a.2)

/-- Whether a device physical address lies in the host pool of a package (R412). -/
def inHostPool (s : State) (pkg a : Nat) : Bool :=
  match s.pkg? pkg with
  | none => false
  | some p =>
    let pch := a / 2 ^ 30
    let unit := a % 2 ^ 30 / 4096
    decide (pch < 768) && decide (unit < p.frames) && !p.withdrawn.contains (pch, unit)
      && !(frameRuns s pkg pch).any (runsMeet (unit, 1))

/-- A range of device physical addresses lies wholly in the host pool. -/
def rangeInHostPool (s : State) (pkg a n : Nat) : Bool :=
  ((List.range (n / 4096 + 2)).all (fun i =>
    let u := a / 4096 + i
    !decide (u * 4096 < a + n) || inHostPool s pkg (u * 4096)))

/-- Read n bytes of the host pool. -/
def readPool (s : State) (pkg a n : Nat) : List Byte :=
  (List.range n).flatMap (fun i => readPhys s deviceKey 0 (2 ^ 40 * pkg + a + i) 1)

/-- Write bytes of the host pool. -/
def writePool (s : State) (pkg a : Nat) (bs : List Byte) : State :=
  (unitPieces a bs (bs.length + 1)).foldl (fun s p => writePhys s deviceKey 0 (2 ^ 40 * pkg + p.1) p.2) s

end Sys2Proof.Machine
end

