-- ==== Sys2Proof/Machine/Tree.lean ====
section
/-! DEFINITION. The hierarchy tree of a kernel instance: node sizes, coordinates, bindings and scopes (R26 to R43, R151, R152). -/

namespace Sys2Proof.Machine

open Sys2Proof

/-- Number of levels L. -/
def treeL (ls : List Level) : Nat := ls.length

/-- The level bound to GROUP, g (R28). -/
def treeG (ls : List Level) : Nat := ls.findIdx (fun l => l.phys == 1)

/-- The product of the fan-outs of levels a + 1 to b. -/
def fanProd (ls : List Level) (a b : Nat) : Nat := ((ls.drop (a + 1)).take (b - a)).foldl (fun n l => n * l.fan) 1

/-- s_k: lanes of a level-k node, for k at most g (R29). -/
def laneSize (ls : List Level) (k : Nat) : Nat := fanProd ls 0 k

/-- m_k: groups of a level-k node, for k at least g (R29). -/
def groupSize (ls : List Level) (k : Nat) : Nat := fanProd ls (treeG ls) k

/-- Groups in the grid. -/
def gridSize (ls : List Level) : Nat := groupSize ls (treeL ls - 1)

/-- The level a 4-bit level or scope operand names, 14 and 15 giving the root's number and L (R40). -/
def levelOf (ls : List Level) (code : Nat) : Nat := if code = 14 then treeL ls - 1 else code

/-- The binding of a scope operand (R26, R40); SYSTEM for 15. -/
def bindOf (ls : List Level) (code : Nat) : Nat :=
  if code = 15 then 7 else (ls.getD (levelOf ls code) { fan := 1, phys := 0, co := false }).phys

/-- The fence skew of a binding, in ticks (R152). -/
def skewOf (bind : Nat) : Nat := if bind ≤ 4 then 0 else if bind = 5 then 2 else 40

/-- f_k. -/
def fanOf (ls : List Level) (k : Nat) : Nat := if k = 0 then 1 else (ls.getD k { fan := 1, phys := 0, co := false }).fan

/-- c_k of a group, for g ≤ k (R35). -/
def groupCoord (ls : List Level) (rank k : Nat) : Nat :=
  if treeL ls ≤ k + 1 then 0 else rank / groupSize ls k % fanOf ls (k + 1)

/-- c_k of a lane, for k < g (R35). -/
def laneCoord (ls : List Level) (lane k : Nat) : Nat := lane / laneSize ls k % fanOf ls (k + 1)

/-- The index of the level-k node of a lane of a group, in rank order (R327). -/
def nodeIndex (ls : List Level) (rank lane k : Nat) : Nat :=
  if k < treeG ls then rank * 96 / laneSize ls k + lane / laneSize ls k else rank / groupSize ls k

/-- Whether level k is co-resident (R31). -/
def coResident (ls : List Level) (k : Nat) : Bool :=
  let b := bindOf ls k
  b != 7 && (decide (b ≤ 3) || (ls.drop k).any (·.co))

/-- The highest co-resident level (R31). -/
def topCo (ls : List Level) : Nat := ((List.range (treeL ls)).filter (coResident ls)).getLastD 0

/-- The highest level bound to CORE, where there is one (R131). -/
def coreLevel (ls : List Level) : Option Nat :=
  ((List.range (treeL ls)).filter (fun k => bindOf ls k == 2)).getLast?

/-- The operand constant TCk of a lane (R94): 0 at the root and above. -/
def treeConst (ls : List Level) (rank lane k : Nat) : Nat :=
  if treeL ls ≤ k + 1 then 0
  else if k < treeG ls then laneCoord ls lane k
  else groupCoord ls rank k

/-- Whether the abort line of the level-k node of a lane is raised (R43). -/
def abortRaised (k : Inst) (rank lane lv : Nat) : Bool := k.abort.contains (lv, nodeIndex k.levels rank lane lv)

end Sys2Proof.Machine
end

