-- ==== Sys2Proof/Machine/EngRows.lean ====
section
/-! DEFINITION. The rows that an engine operation writes and their units (R253, R255 to R265), the parameter block of a REDGO (R386, R388), and what the discard of operations leaves of the ranges they were writing (R282). -/

namespace Sys2Proof.Machine

open Sys2Proof

/-! ## Units

A row is a run of bytes; its units are the pieces between multiples of a granule.  Unit j of row r has the
number r x 2^32 + j. -/

/-- A row: first address, bytes, and granule. -/
abbrev EngRow := Nat × Nat × Nat

/-- Unit j of a row: address and bytes. -/
def EngRow.piece (r : EngRow) (j : Nat) : Option (Nat × Nat) :=
  let lo := max r.1 ((r.1 / r.2.2 + j) * r.2.2)
  let hi := min (r.1 + r.2.1) ((r.1 / r.2.2 + j + 1) * r.2.2)
  if lo < hi then some (lo, hi - lo) else none

/-- Number of units of a row. -/
def EngRow.count (r : EngRow) : Nat := if r.2.1 = 0 then 0 else (r.1 % r.2.2 + r.2.1 + r.2.2 - 1) / r.2.2

def unitNo (r j : Nat) : Nat := r * 2 ^ 32 + j

/-! ## What has been read -/

/-- Bytes that an operation has read of a unit. -/
def Eng.got (e : Eng) (u : Nat) : Option (List Byte) := (e.reads.find? (fun x => x.1 == u)).map (·.2)

/-- All bytes of a row, once each of its units has been read. -/
def Eng.rowBytes (e : Eng) (i : Nat) (r : EngRow) : Option (List Byte) :=
  ((List.range r.count).mapM (fun j => e.got (unitNo i j))).map List.flatten

/-- Tile entry t of an operation's core. -/
def engTile (s : State) (e : Eng) (t : Nat) : Tile :=
  match s.core? e.pkg e.core with
  | some c => c.tiles.getD t { }
  | none => { }

/-- Bytes of an element type of COLL. -/
def collBytes (type : Nat) : Nat := [4, 2, 4, 8].getD type 4

/-- Elements of a member's source and of its destination. -/
def collSizes (kind p count : Nat) : Nat × Nat :=
  match kind with
  | 2 => (count, p * count)
  | 3 => (p * count, count)
  | _ => (count, count)

/-- Rank of an operation's group in its instance, with the instance. -/
def engRank (s : State) (e : Eng) : Option (Inst × Nat) :=
  match s.group? e.gid with
  | none => none
  | some g => (s.inst? g.inst).map (fun k => (k, g.rank))

/-- Member number of a collective's operation in its node. -/
def collMember (s : State) (e : Eng) (lv : Nat) : Nat :=
  match engRank s e with
  | some (k, r) => r % groupSize k.levels lv
  | none => 0

/-- Members of a collective's node. -/
def collP (s : State) (e : Eng) (lv : Nat) : Nat :=
  match engRank s e with
  | some (k, _) => groupSize k.levels lv
  | none => 1

/-! ## The parameter block of a REDGO (R386, R388) -/

/-- The block as read. -/
structure RdeBlock where
  nsrc : Nat
  type : Nat
  flagen : Bool
  len : Nat
  dst : Nat
  flag : Nat
  flagval : Nat
  srcs : List Nat
  bad : Bool           -- a reserved field, or a field outside R386
  deriving DecidableEq, Repr

def rdeParse (b : List Byte) : RdeBlock :=
  let w0 := leAt b 0 4
  let nsrc := w0 % 32
  let len := leAt b 4 4
  let flagen := w0 / 2 ^ 10 % 2 == 1
  let srcs := (List.range 16).map (fun j => leAt b (0x20 + 8 * j) 8)
  { nsrc := nsrc, type := w0 / 2 ^ 8 % 4, flagen := flagen, len := len, dst := leAt b 8 8, flag := leAt b 0x10 8
    flagval := leAt b 0x18 4, srcs := srcs.take nsrc
    bad := w0 / 32 % 8 != 0 || decide (2 ^ 11 ≤ w0) || nsrc == 0 || decide (16 < nsrc) || len % 128 != 0 || decide (len < 128)
      || decide (2 ^ 20 < len) || leAt b 0x1C 4 != 0 || (b.drop 0xA0).any (· != 0) || (srcs.drop nsrc).any (· != 0)
      || (!flagen && leAt b 0x10 8 != 0) }

/-- The row of a REDGO's parameter block. -/
def blockRow (block : Nat) : EngRow := (block, 256, 16)

/-- Bytes [va, va + n) lie in one memory-homed range of a package. -/
def inMhRange (s : State) (pkg ctx va n : Nat) : Bool :=
  match routeOf s pkg ctx va with
  | some e => e.mh && e.home == pkg && decide (va + n ≤ 2 ^ 64) && canonical (va + n - 1) && e.covers (va + n - 1)
  | none => false

/-- The check of a block: 0x48 BADBLK, 0x49 SITE, 0x4A ALIGN, or 0. -/
def rdeCheck (s : State) (e : Eng) (b : RdeBlock) : Nat :=
  if b.bad then 0x48
  else if (b.dst :: b.srcs).any (fun a => !inMhRange s e.pkg e.ctx a b.len) then 0x49
  else if b.dst % 128 ≠ 0 ∨ b.flag % 4 ≠ 0 ∨ b.srcs.any (fun a => a % 128 != 0) = true then 0x4A
  else 0

/-- The block of a REDGO, once read, where it is good. -/
def rdeGood (s : State) (e : Eng) (block : Nat) : Option RdeBlock :=
  match (e.rowBytes 0 (blockRow block)).map rdeParse with
  | some b => if rdeCheck s e b = 0 then some b else none
  | none => none

/-- The operation's destination is to be written: a REDGO or CPYG that has been carried out with a result. -/
def Eng.writing (e : Eng) : Bool := e.tail && [some 0, some 0x4C, some 0x51].contains e.status

/-! ## Rows written -/

/-- Row i that an operation writes. -/
def writeRow (s : State) (e : Eng) (i : Nat) : Option EngRow :=
  match e.kind with
  | .mstMem dst stride _ _ _ bytes => (bytes[i]?).map (fun b => (dst + i * stride, b.length, 16))
  | .cpy dst _ len | .nodeCopy dst _ len _ _ => if i = 0 then some (dst, len, 16) else none
  | .cpy2d dst _ rb rows _ ds => if i < rows then some (dst + i * ds, rb, 16) else none
  | .tst dst t stride =>
    let tl := engTile s e t
    if i < tl.nrows then some (dst + i * stride, 4 * tl.ncols, 16) else none
  | .gath dst _ n rowb _ _ => if i = 0 then some (dst, n * rowb, 16) else none
  | .rowpub dst _ len => if i = 0 then some (dst, len, 4096) else none
  | .coll dst _ count lv kind type _ => if i = 0 then some (dst, (collSizes kind (collP s e lv) count).2 * collBytes type, 16) else none
  | .cpyg _ dst len _ _ => if i = 0 ∧ e.writing = true then some (dst, len, 16) else none
  | .redgo block _ =>
    match rdeGood s e block with
    | some b => if i = 0 ∧ e.writing = true then some (b.dst, b.len, 16) else none
    | none => none
  | _ => none

def writeRows (s : State) (e : Eng) : Nat :=
  match e.kind with
  | .mstMem _ _ _ _ _ bytes => bytes.length
  | .cpy2d _ _ _ rows _ _ => rows
  | .tst _ t _ => (engTile s e t).nrows
  | .cpyg _ _ _ _ _ | .redgo _ _ => if e.writing then 1 else 0
  | .cpy _ _ _ | .nodeCopy _ _ _ _ _ | .gath _ _ _ _ _ _ | .rowpub _ _ _ | .coll _ _ _ _ _ _ _ => 1
  | _ => 0

/-- An undefined byte of an operation's destination (R256, R264; log entry 11). -/
def undefByte (e : Eng) (va : Nat) : Byte := BitVec.ofNat 8 (Config.undefWord e.id va).toNat

/-! ## Discarded operations (R282) -/

/-- Where it still goes, a discarded operation leaves each row it was writing with undefined contents (R6, R282; log
entry 11). -/
def undefWork (s : State) (e : Eng) : State :=
  ((List.range (writeRows s e)).filterMap (writeRow s e)).foldl
    (fun s r => writeSpan s e.pkg e.ctx r.1 ((List.range r.2.1).map (fun k => undefByte e (r.1 + k)))) s

end Sys2Proof.Machine
end

