-- ==== Sys2Proof/Machine/FloatCore.lean ====
section
/-! DEFINITION. Number formats, exact values and rounding (spec/03_arithmetic.md R47 to R65). Values are exact: a sign, a natural number and a power of two. -/

namespace Sys2Proof.Machine

open Sys2Proof

/-- An exact value or a special: NaN, an infinity, or (-1)^neg × m × 2^e. A zero keeps its sign. -/
inductive FVal where
  | nan
  | inf (neg : Bool)
  | fin (neg : Bool) (m : Nat) (e : Int)
  deriving DecidableEq, Repr

/-- A binary format with hidden bit (R47, R51): field sizes, bias, and how its top codes are used. -/
structure FFmt where
  width : Nat
  man : Nat
  bias : Nat
  maxCode : Nat        -- magnitude code of the largest finite value
  hasInf : Bool        -- code maxCode + 1 is an infinity
  satFin : Bool        -- finite overflow gives the largest finite value in every mode (R63)
  nanCode : Nat        -- canonical NaN
  deriving DecidableEq, Repr

def fp64 : FFmt := ⟨64, 52, 1023, 0x7FEFFFFFFFFFFFFF, true, false, 0x7FF8000000000000⟩
def fp32 : FFmt := ⟨32, 23, 127, 0x7F7FFFFF, true, false, 0x7FC00000⟩
def bf16 : FFmt := ⟨16, 7, 127, 0x7F7F, true, false, 0x7FC0⟩
def fp16 : FFmt := ⟨16, 10, 15, 0x7BFF, true, false, 0x7E00⟩
def e4m3 : FFmt := ⟨8, 3, 7, 0x7E, false, true, 0x7F⟩
def e5m2 : FFmt := ⟨8, 2, 15, 0x7B, true, true, 0x7E⟩
def e2m1 : FFmt := ⟨4, 1, 1, 0x7, false, true, 0x7⟩

/-- The rounding modes of R58. -/
inductive RMode where
  | rne | rtz | rup | rdn
  | sto (d : Nat)      -- stochastic, with the lane's 16 random bits (R61)
  deriving DecidableEq, Repr

/-- 2^k for an integer k ≥ 0, 1 below. -/
def pow2 (k : Int) : Nat := 2 ^ k.toNat

/-- Exponent of the value of magnitude code c: the value is (significand) × 2^(this). -/
def FFmt.codeExp (f : FFmt) (c : Nat) : Int :=
  let ex := c >>> f.man
  (if ex = 0 then (1 : Int) else ex) - f.bias - f.man

/-- Significand of magnitude code c, hidden bit included (R47, R51). -/
def FFmt.codeSig (f : FFmt) (c : Nat) : Nat :=
  let ex := c >>> f.man
  let frac := c % 2 ^ f.man
  if ex = 0 then frac else frac + 2 ^ f.man

/-- The value a bit pattern of the format encodes (R47, R49, R51). -/
def FFmt.decode (f : FFmt) (bits : Nat) : FVal :=
  let neg := bits / 2 ^ (f.width - 1) % 2 = 1
  let c := bits % 2 ^ (f.width - 1)
  if c ≤ f.maxCode then .fin neg (f.codeSig c) (f.codeExp c)
  else if f.hasInf && c == f.maxCode + 1 then .inf neg
  else .nan

/-- floor(log2 m), 0 for m = 0. -/
def log2 (m : Nat) : Nat := m.log2

/-- Compare m1 × 2^e1 with m2 × 2^e2. -/
def cmpMag (m1 : Nat) (e1 : Int) (m2 : Nat) (e2 : Int) : Ordering :=
  let e := min e1 e2
  compare (m1 * pow2 (e1 - e)) (m2 * pow2 (e2 - e))

/-- Choose between the adjacent magnitudes of codes c and c + 1 for a value strictly between them, given
num / den, its distance from the lower one over the gap (R58, R61): true picks the upper one. -/
def roundUp (mode : RMode) (neg : Bool) (c num den : Nat) : Bool :=
  match mode with
  | .rne => if 2 * num < den then false else if den < 2 * num then true else c % 2 = 1
  | .rtz => false
  | .rup => !neg
  | .rdn => neg
  | .sto d => decide (d < 2 ^ 16 * num / den)

/-- The code at or just below a nonzero magnitude m × 2^e on the format's grid continued without a top, and
what is left: (code, num, den) with the value code's plus num / den of the gap. -/
def FFmt.floorCode (f : FFmt) (m : Nat) (e : Int) : Nat × Nat × Nat :=
  let qmin : Int := 1 - (f.bias : Int) - f.man
  let q : Int := max ((log2 m : Int) + e - f.man) qmin
  let top := (q - qmin).toNat * 2 ^ f.man
  if q ≤ e then (top + m * pow2 (e - q), 0, 1)
  else
    let den := pow2 (q - e)
    (top + m / den, m % den, den)

/-- The code that a finite overflow gives (R61, R63). -/
def FFmt.overflow (f : FFmt) (mode : RMode) (neg : Bool) : Nat :=
  if f.satFin || !f.hasInf then f.maxCode
  else
    match mode with
    | .rne => f.maxCode + 1
    | .rtz => f.maxCode
    | .rup => if neg then f.maxCode else f.maxCode + 1
    | .rdn => if neg then f.maxCode + 1 else f.maxCode
    | .sto _ => f.maxCode

/-- The bit pattern of a sign and a magnitude code. -/
def FFmt.bits (f : FFmt) (neg : Bool) (c : Nat) : Nat := c + if neg then 2 ^ (f.width - 1) else 0

/-- Round a value to the format (R47 to R51, R61, R63). -/
def FFmt.encode (f : FFmt) (mode : RMode) (v : FVal) : Nat :=
  match v with
  | .nan => f.nanCode
  | .inf neg => f.bits neg (if f.hasInf then f.maxCode + 1 else f.maxCode)
  | .fin neg 0 _ => f.bits neg 0
  | .fin neg m e =>
    let (c, num, den) := f.floorCode m e
    if num = 0 then
      if c ≤ f.maxCode then f.bits neg c else f.bits neg (f.overflow mode neg)
    else
      match mode with
      | .sto _ =>
        if f.maxCode ≤ c then f.bits neg f.maxCode
        else f.bits neg (if roundUp mode neg c num den then c + 1 else c)
      | _ =>
        let c' := if roundUp mode neg c num den then c + 1 else c
        if f.maxCode < c then f.bits neg (f.overflow mode neg)
        else if c' ≤ f.maxCode then f.bits neg c'
        else f.bits neg (f.overflow mode neg)

/-! ## TK8 (R53 to R55) -/

/-- The number of leading bits of C equal to its bit 6, counted down from bit 6 (R53). -/
def tk8Run (c : Nat) : Nat :=
  let b := c / 64 % 2
  ((List.range 7).takeWhile (fun j => c / 2 ^ (6 - j) % 2 == b)).length

/-- The magnitude of a code 0x01 to 0x7F as (m, e), value m × 2^e (R53). -/
def tk8Mag (c : Nat) : Nat × Int :=
  if c = 0x7F then (1, 24)
  else
    let b := c / 64 % 2
    let l := tk8Run c
    let k : Int := if b = 1 then (l : Int) - 1 else -(l : Int)
    let n := 6 - l
    let x := if 2 ≤ n then c / 2 ^ (n - 2) % 4 else if n = 1 then 2 * (c % 2) else 0
    let f := n - 2
    let fr := c % 2 ^ f
    (2 ^ f + fr, 4 * k + x - f)

/-- The value of a TK8 code; NaR is NaN (R53, R55). -/
def tk8Decode (code : Nat) : FVal :=
  let neg := code / 128 % 2 = 1
  let c := code % 128
  if c = 0 then (if neg then .nan else .fin false 0 0)
  else .fin neg (tk8Mag c).1 (tk8Mag c).2

/-- Largest code whose magnitude is at most m × 2^e, 0 where there is none. -/
def tk8Floor (m : Nat) (e : Int) : Nat :=
  ((List.range 128).filter (fun c => c != 0 && (cmpMag (tk8Mag c).1 (tk8Mag c).2 m e != .gt))).foldl max 0

/-- Conversion into TK8 (R55). -/
def tk8Encode (mode : RMode) (v : FVal) : Nat :=
  match v with
  | .nan => 0x80
  | .inf neg => if neg then 0xFF else 0x7F
  | .fin _ 0 _ => 0
  | .fin neg m e =>
    let sgn := if neg then 0x80 else 0
    let c := tk8Floor m e
    if c = 0x7F then sgn + 0x7F
    else
      let lo : Nat × Int := if c = 0 then (0, 0) else tk8Mag c
      let hi := tk8Mag (c + 1)
      let b := min e (min lo.2 hi.2)
      let x := m * pow2 (e - b)
      let l := lo.1 * pow2 (lo.2 - b)
      let h := hi.1 * pow2 (hi.2 - b)
      let c' := if x = l then c else if roundUp mode neg c (x - l) (h - l) then c + 1 else c
      if c' = 0 then 0 else sgn + c'

/-! ## Exact arithmetic on values -/

def FVal.neg : FVal → FVal
  | .nan => .nan
  | .inf s => .inf (!s)
  | .fin s m e => .fin (!s) m e

def FVal.isNan : FVal → Bool
  | .nan => true
  | _ => false

def FVal.isZero : FVal → Bool
  | .fin _ 0 _ => true
  | _ => false

/-- (-1)^neg × m. -/
def signed (neg : Bool) (m : Nat) : Int := if neg then -(m : Int) else m

/-- Exact sum; an exact zero of operands of opposite signs is negative only in RDN (R183). -/
def FVal.add (mode : RMode) (x y : FVal) : FVal :=
  match x, y with
  | .nan, _ => .nan
  | _, .nan => .nan
  | .inf s, .inf t => if s = t then .inf s else .nan
  | .inf s, .fin _ _ _ => .inf s
  | .fin _ _ _, .inf t => .inf t
  | .fin s m e, .fin t n g =>
    let b := min e g
    let z := signed s (m * pow2 (e - b)) + signed t (n * pow2 (g - b))
    if z = 0 then
      if m = 0 ∧ n = 0 ∧ s = t then .fin s 0 0 else .fin (mode == .rdn) 0 0
    else .fin (decide (z < 0)) z.natAbs b

/-- Exact product (R66, R183). -/
def FVal.mul (x y : FVal) : FVal :=
  match x, y with
  | .nan, _ => .nan
  | _, .nan => .nan
  | .inf s, .inf t => .inf (s != t)
  | .inf s, .fin t n _ => if n = 0 then .nan else .inf (s != t)
  | .fin s m _, .inf t => if m = 0 then .nan else .inf (s != t)
  | .fin s m e, .fin t n g => .fin (s != t) (m * n) (e + g)

/-- Quotient with enough bits, and a last bit that says whether it is inexact, for one rounding to at most
53 bits of precision (R76: IEEE 754-2019 division). -/
def FVal.div (x y : FVal) : FVal :=
  match x, y with
  | .nan, _ => .nan
  | _, .nan => .nan
  | .inf _, .inf _ => .nan
  | .inf s, .fin t _ _ => .inf (s != t)
  | .fin s _ _, .inf t => .fin (s != t) 0 0
  | .fin s m e, .fin t n g =>
    if n = 0 then (if m = 0 then .nan else .inf (s != t))
    else if m = 0 then .fin (s != t) 0 0
    else
      let sh := 64 + log2 n
      let q := m * 2 ^ sh / n
      let r := m * 2 ^ sh % n
      .fin (s != t) (2 * q + if r = 0 then 0 else 1) (e - g - sh - 1)

/-- x < y for values neither of which is NaN, with -0 = +0 (R185). -/
def FVal.lt (x y : FVal) : Bool :=
  match x, y with
  | .nan, _ => false
  | _, .nan => false
  | .inf s, .inf t => s && !t
  | .inf s, .fin _ _ _ => s
  | .fin _ _ _, .inf t => !t
  | .fin s m e, .fin t n g =>
    let b := min e g
    decide (signed s (m * pow2 (e - b)) < signed t (n * pow2 (g - b)))

/-- x = y for values neither of which is NaN, with -0 = +0 (R185). -/
def FVal.eq (x y : FVal) : Bool := !x.isNan && !y.isNan && !x.lt y && !y.lt x

def FVal.isNeg : FVal → Bool
  | .nan => false
  | .inf s => s
  | .fin s _ _ => s

/-- floor of a magnitude m × 2^e, with what is left over its denominator. -/
def floorMag (m : Nat) (e : Int) : Nat × Nat × Nat :=
  if 0 ≤ e then (m * pow2 e, 0, 1) else (m / pow2 (-e), m % pow2 (-e), pow2 (-e))

/-- Round a finite magnitude to an integer in the mode (R64, R187). -/
def roundIntMag (mode : RMode) (neg : Bool) (m : Nat) (e : Int) : Nat :=
  let (c, num, den) := floorMag m e
  if num = 0 then c else if roundUp mode neg c num den then c + 1 else c

/-- clamp(t, lo, hi). -/
def clampInt (t lo hi : Int) : Int := if t < lo then lo else if hi < t then hi else t

/-- Conversion to an integer type with range lo to hi (R64). -/
def FVal.toIntSat (mode : RMode) (lo hi : Int) (v : FVal) : Int :=
  match v with
  | .nan => 0
  | .inf neg => if neg then lo else hi
  | .fin neg m e => clampInt (signed neg (roundIntMag mode neg m e)) lo hi

/-- An integer as an exact value. -/
def FVal.ofInt (z : Int) : FVal := .fin (decide (z < 0)) z.natAbs 0

/-! ## Blocks (R52, R65) -/

/-- The value of an E8M0 scale E applied to an element (R52). -/
def scaleBy (scale : Nat) (v : FVal) : FVal :=
  if scale = 0xFF then .nan
  else
    match v with
    | .fin s m e => .fin s m (e + scale - 127)
    | w => w

/-- Exponent of the largest magnitude of a block: floor(log2 amax) (R65). -/
def magLog (m : Nat) (e : Int) : Int := (log2 m : Int) + e

/-- The scale of a block (R65): 0xFF where a value is NaN or infinite. -/
def blockScale (emaxElem : Nat) (vs : List FVal) : Nat :=
  if vs.any (fun v => match v with | .fin _ _ _ => false | _ => true) then 0xFF
  else
    let logs := vs.filterMap (fun v => match v with | .fin _ 0 _ => none | .fin _ m e => some (magLog m e) | _ => none)
    match logs with
    | [] => 0
    | l :: ls => (clampInt (ls.foldl max l - emaxElem + 127) 0 254).toNat

end Sys2Proof.Machine
end

