-- ==== Sys2Proof/Machine/Flags.lean ====
section
/-! DEFINITION. The status that instructions compute and wait on: full/empty states (R117, R118), predicates and the activity mask (R112, R113), comparison conditions (R180, R185), and the status words a trap leaves (R211). -/

namespace Sys2Proof.Machine

open Sys2Proof

/-! ## Lane bits in scalar words (R112) -/

/-- Word w of a 96-bit lane mask. -/
def maskWord (m : Mask) (w : Nat) : Word := BitVec.ofNat 32 (m.toNat / 2 ^ (32 * w))

/-- The mask whose three words are given. -/
def maskOfWords (a b c : Word) : Mask := BitVec.ofNat 96 (a.toNat + 2 ^ 32 * b.toNat + 2 ^ 64 * c.toNat)

/-- Replace word w of a mask. -/
def maskWithWord (m : Mask) (w : Nat) (v : Word) : Mask :=
  match w with
  | 0 => maskOfWords v (maskWord m 1) (maskWord m 2)
  | 1 => maskOfWords (maskWord m 0) v (maskWord m 2)
  | _ => maskOfWords (maskWord m 0) (maskWord m 1) v

/-- First scalar number of Pn: S(37 + 3n) (R93, R112). -/
def predScalar (n : Nat) : Nat := 37 + 3 * n

/-- A scalar of the group: S0 to S60, and the states of S61 to S63. -/
def Group.scalar (g : Group) (i : Nat) : SReg := g.sregs.getD i { }

/-- The 96 bits of predicate Pn. -/
def Group.pred (g : Group) (n : Nat) : Mask :=
  maskOfWords (g.scalar (predScalar n)).val (g.scalar (predScalar n + 1)).val (g.scalar (predScalar n + 2)).val

/-- The lanes of a mask that pass the guard G (R89). -/
def guardMask (g : Group) (gf : BitVec 4) (m : Mask) : Mask :=
  let n := gf.toNat % 8
  if n = 0 then m else if gf.toNat < 8 then m &&& g.pred n else m &&& ~~~(g.pred n)

/-! ## Full and empty (R117) -/

/-- The full/empty state of operand register n: a vector, or S0 to S63; a constant is FULL. -/
def regState (g : Group) (n : Nat) : RegState :=
  if n < 640 then (g.vregs.getD n { lanes := [] }).state
  else if n < 704 then (g.scalar (n - 640)).state
  else .full

/-- Set the full/empty state of operand register n. -/
def Group.setRegState (g : Group) (n : Nat) (st : RegState) : Group :=
  if n < 640 then { g with vregs := modAt g.vregs n (fun v => { v with state := st }) }
  else if n < 704 then { g with sregs := modAt g.sregs (n - 640) (fun v => { v with state := st }) }
  else g

/-- The first register of a list in a given state. -/
def firstIn (g : Group) (rs : List Nat) (st : RegState) : Option Nat := rs.find? (fun n => regState g n == st)

/-- What a source's register does to its reader (R118): the trap EMPTYRD or ORPHAN, with the operand number, or
a block. -/
inductive Empty where
  | ready | emptyRd (n : Nat) | orphan (n : Nat) | blocked
  deriving DecidableEq, Repr

/-- One source, its registers and its EP bit. -/
def srcEmpty (g : Group) (rs : List Nat) (ep : Bool) : Empty :=
  match rs.find? (fun n => regState g n != .full) with
  | none => .ready
  | some n =>
    if ep then .emptyRd n
    else match firstIn g rs .void with
      | some v => .orphan v
      | none => .blocked

/-- The sources in field order (R97 step 5, R119): the first trap; a block gives way to a later EP-0 source
that is VOID. -/
def srcsEmpty (g : Group) : List (List Nat × Bool) → Empty
  | [] => .ready
  | (rs, ep) :: t =>
    match srcEmpty g rs ep with
    | .ready => srcsEmpty g t
    | .blocked =>
      match t.findSome? (fun x => if x.2 then none else firstIn g x.1 .void) with
      | some v => .orphan v
      | none => .blocked
    | e => e

/-! ## Conditions -/

/-- ICMP's condition (R180). -/
def icmpCond (code : Nat) (a b : Int) : Bool :=
  match code with
  | 0 => decide (a = b)
  | 1 => decide (a ≠ b)
  | 2 => decide (a < b)
  | 3 => decide (a ≤ b)
  | 4 => decide (b < a)
  | _ => decide (b ≤ a)

/-- FCMP's and DCMP's condition (R185). -/
def fcmpCond (code : Nat) (a b : FVal) : Bool :=
  let un := a.isNan || b.isNan
  match code with
  | 0 => a.eq b
  | 1 => !a.eq b
  | 2 => a.lt b
  | 3 => !un && !b.lt a
  | 4 => b.lt a
  | 5 => !un && !a.lt b
  | _ => un

/-- FCLASS's word of an FP32 encoding (R186). -/
def fclassWord (w : Word) : Word :=
  let neg := w.getLsbD 31
  let ex := w.toNat / 2 ^ 23 % 256
  let fr := w.toNat % 2 ^ 23
  let bit : Nat :=
    if ex = 255 then
      if fr = 0 then (if neg then 0 else 7) else if fr / 2 ^ 22 = 1 then 9 else 8
    else if ex = 0 then
      if fr = 0 then (if neg then 3 else 4) else (if neg then 2 else 5)
    else (if neg then 1 else 6)
  BitVec.ofNat 32 (2 ^ bit)

/-- The word of a kind-1 comparison (R180). -/
def condWord (c : Bool) : Word := if c then 0xFFFFFFFF else 0

/-! ## Trap causes (R215) -/

def cILLOP : Nat := 0x01
def cILLCLS : Nat := 0x02
def cILLOPD : Nat := 0x03
def cEMPTYRD : Nat := 0x04
def cPENDWR : Nat := 0x05
def cORPHAN : Nat := 0x06
def cWAITTO : Nat := 0x07
def cRLOCK : Nat := 0x08
def cTILEST : Nat := 0x09
def cADDR : Nat := 0x0A
def cALIGN : Nat := 0x0B
def cRETUND : Nat := 0x0C
def cSPLITOV : Nat := 0x0D
def cJTBOUND : Nat := 0x0E
def cROPNDEF : Nat := 0x0F
def cROPSITE : Nat := 0x10
def cTRAPI : Nat := 0x11

/-- WAITTO's kind (R215). -/
def WaitKind.code : WaitKind → Nat
  | .source => 0
  | .wctr => 1
  | .tile => 2
  | .barrier => 3
  | .waitt => 4
  | .rlt => 5
  | .fence => 6
  | .stepLimit => 1

/-- SR.TCAUSE as trap entry sets it (R211): CAUSE, SKIP for TRAPI, IN, INFO. -/
def tcauseWord (cause info : Nat) : Word :=
  BitVec.ofNat 32 (cause % 256 + (if cause = cTRAPI then 256 else 0) + 512 + info % 2 ^ 20 * 2 ^ 12)

def Split.inHandler (sp : Split) : Bool := sp.tcause.getLsbD 9
def Split.skip (sp : Split) : Bool := sp.tcause.getLsbD 8

/-- The wait limit in cycles, none for no limit (R121). -/
def waitLimit (lim : Word) : Option Nat :=
  let l := lim.toNat % 64
  if l = 0 then none else some (2 ^ (if l < 16 then 16 else if 40 < l then 40 else l))

/-! ## The stochastic generator (R60, R61) -/

/-- One advance of st. -/
def stAdvance (st : Word) : Word :=
  let a := st ^^^ (st <<< 13)
  let b := a ^^^ (a >>> 17)
  b ^^^ (b <<< 5)

/-- The lane's 16 random bits. -/
def stDraw (st : Word) (i j : Nat) : Nat :=
  let z := st ^^^ BitVec.ofNat 32 (i * 0x85EBCA6B) ^^^ BitVec.ofNat 32 (j * 0xC2B2AE35)
  let z := z ^^^ (z >>> 16)
  let z := z * 0x7FEB352D
  let z := z ^^^ (z >>> 15)
  z.toNat / 2 ^ 16

/-- st at a group's first issue (R60). -/
def stInit (seed : Word) (rank : Nat) : Word :=
  let z := seed ^^^ BitVec.ofNat 32 (rank * 0x9E3779B9)
  if z = 0 then 1 else z

end Sys2Proof.Machine
end

