-- ==== Sys2Proof/Machine/Operands.lean ====
section
/-! DEFINITION. Operands: what each register field may name (R88, R92 to R96, R115, R175), the form of an instruction word, and reading registers. -/

namespace Sys2Proof.Machine

open Sys2Proof

/-! ## Operand numbers (R93, R94) -/

def isVecReg (n : Nat) : Bool := decide (n < 640)
def isScalReg (n : Nat) : Bool := decide (640 ≤ n) && decide (n < 704)
def isConst (n : Nat) : Bool := decide (704 ≤ n) && decide (n < 726)
def isTile (n : Nat) : Bool := decide (736 ≤ n) && decide (n < 768)
def isView (n : Nat) : Bool := decide (768 ≤ n) && decide (n < 776)
def isPair (n : Nat) : Bool := decide (n < 704) && n % 2 == 0

/-- The tree-level constant number of operand n: 712 + k names TCk. -/
def isTcVec (ls : List Level) (n : Nat) : Bool := decide (712 ≤ n) && decide (n < 726) && decide (n - 712 < treeG ls)

/-- A vector, or a constant that varies by lane (R94, R96). -/
def isVecLike (ls : List Level) (n : Nat) : Bool := isVecReg n || n == 706 || isTcVec ls n

/-- The predicate operands: first scalars of P1 to P7 (R175). -/
def isPredNum (n : Nat) : Bool := decide (680 ≤ n) && decide (n ≤ 698) && (n - 680) % 3 == 0

/-- What a register field of an instruction may name, and how many 32-bit registers it takes. -/
inductive Role where
  | unused
  | dst (w : Nat)          -- a vector destination, or a scalar one under R96
  | dstVec (w : Nat)       -- a vector destination only
  | dstAny (w : Nat)       -- a vector, or a scalar result whatever the sources
  | dstScal (w : Nat)      -- a scalar result, S0 to S63
  | dstScal60 (w : Nat)    -- a scalar result, S0 to S60
  | dstPred
  | src (w : Nat)
  | srcVec (w : Nat)       -- a vector register source only
  | srcScal (w : Nat)      -- a scalar or a scalar constant
  | srcReg (w : Nat)       -- a vector or a scalar, no constant
  | srcPred
  | ab                     -- an even vector or scalar pair (R95)
  | abScal                 -- an even scalar pair
  | hintAb                 -- an even vector or scalar pair of a hint, which no empty register stops (R225)
  | hintPair               -- an even scalar pair of a hint (R406)
  | hintScal               -- a scalar or a scalar constant of a hint
  | desc (w : Nat)         -- a run of w scalars from a multiple of w up, S0 to S59: address, quad or octet (R235)
  | tile
  | viewSrc                -- a view that is read
  | viewDst                -- a view that is written
  | viewAny                -- a view that is written, its registers handled by the instruction
  | viewAcc                -- the same, read too: what a matrix step adds to (R244)
  | viewRead               -- the same, read as a source (R237 step 6)
  | tileOrDesc             -- a tile, or an address pair
  | srcRun (w : Nat)       -- a register or a constant whose width the tile decides: w registers, checked at step 6
  | dstRun (w : Nat)       -- a vector whose width the tile decides
  deriving DecidableEq, Repr

/-- One register field of a word: INFO's number (R215), the operand number, its role, and its EP bit. -/
structure Opd where
  idx : Nat
  num : Nat
  role : Role
  ep : Bool := false
  deriving DecidableEq, Repr

/-- What an instruction's word says before anything executes: its opcode, whether a MOD, SCOPE, ORD or
must-be-zero value is reserved, its guard, its register fields in source order, and three properties. -/
structure Form where
  op : Nat
  bad : Bool
  g : BitVec 4
  opds : List Opd
  once : Bool := false         -- acts once per split whatever its destination
  compute : Bool := false      -- class 0 to 2: the S61 to S63 exception of R113
  inWindow : Bool := false        -- may issue in a FENCES window (R155)
  transfer : Bool := false     -- a control transfer
  hint : Bool := false         -- never traps after R97's steps 1 to 3 (R225, R406)
  deriving DecidableEq, Repr

/-- A set EP bit on an unused field, a constant or a tile is ILLOP, as is a nonzero unused field (R88, R92). -/
def Opd.illop (o : Opd) : Bool :=
  (o.role == .unused && (o.num != 0 || o.ep)) || (o.ep && (isConst o.num || isTile o.num))

/-- R97 step 2. -/
def Form.illop (f : Form) : Bool := f.bad || f.g == 8 || f.opds.any Opd.illop

/-! ## What the issuing split sees -/

/-- The issuing group, split and instance. -/
structure Iss where
  g : Group
  sp : Split
  k : Inst
  deriving DecidableEq, Repr

/-- The register is one that the kernel declares, with the alignment of its width (R57, R95). -/
def regOk (k : Inst) (n w : Nat) : Bool :=
  (w == 3 || n % w == 0) && (if n < 640 then decide (n + w ≤ k.regs) else decide (640 ≤ n) && decide (n + w ≤ 704))

/-- A constant that the width admits: any for 32 bits, ZERO alone for more (R95). -/
def constOk (n w : Nat) : Bool := isConst n && (w == 1 || n == 704)

/-- The word of a view, 0 where it is not declared (R115). -/
def viewWord (k : Inst) (n : Nat) : Word := k.views.getD (n - 768) 0

structure View where
  base : Nat
  rows : Nat
  cols : Nat
  type : Nat
  deriving DecidableEq, Repr

/-- The fields of a view word (R115). -/
def viewOf (w : Word) : View :=
  { base := w.toNat % 1024, rows := w.toNat / 2 ^ 10 % 1024, cols := w.toNat / 2 ^ 20 % 256, type := w.toNat / 2 ^ 28 % 4 }

/-- The registers a view spans (R116). -/
def View.regs (v : View) : List Nat :=
  let e := (v.rows * v.cols + 95) / 96
  (List.range (if v.type = 1 then 2 * e else e)).map (v.base + ·)

/-- A run of w scalars that an address, quad or octet field may name (R235). -/
def descOk (n w : Nat) : Bool := decide (640 ≤ n) && (n - 640) % w == 0 && decide (n - 640 + w ≤ 60)

/-- Whether an operand breaks R95 in its own field. -/
def Opd.illopd (k : Inst) (o : Opd) : Bool :=
  match o.role with
  | .unused => false
  | .dst w | .dstAny w => !(decide (o.num < 704) && regOk k o.num w)
  | .dstVec w => !(isVecReg o.num && regOk k o.num w)
  | .dstScal w => !(isScalReg o.num && regOk k o.num w)
  | .dstScal60 w => !(isScalReg o.num && (w == 3 || o.num % w == 0) && decide (o.num + w ≤ 701))
  | .dstPred => !isPredNum o.num
  | .src w => !((decide (o.num < 704) && regOk k o.num w) || constOk o.num w)
  | .srcVec w => !(isVecReg o.num && regOk k o.num w)
  | .srcScal w => !((isScalReg o.num && regOk k o.num w) || (constOk o.num w && !isVecLike k.levels o.num))
  | .srcReg w => !(decide (o.num < 704) && regOk k o.num w)
  | .srcPred => !(isPredNum o.num || o.num == 701)
  | .ab | .hintAb => !(isPair o.num && regOk k o.num 2)
  | .abScal | .hintPair => !(isPair o.num && isScalReg o.num && regOk k o.num 2)
  | .hintScal => !((isScalReg o.num && regOk k o.num 1) || (constOk o.num 1 && !isVecLike k.levels o.num))
  | .desc w => !descOk o.num w
  | .tile => !isTile o.num
  | .viewSrc | .viewDst | .viewAny | .viewAcc | .viewRead => !(isView o.num && (viewOf (viewWord k o.num)).rows != 0)
  | .tileOrDesc => !(isTile o.num || descOk o.num 2)
  | .srcRun _ => !((decide (o.num < 704) && regOk k o.num 1) || isConst o.num)
  | .dstRun _ => !(isVecReg o.num && regOk k o.num 1)

/-- A destination that R96 may make scalar. -/
def Opd.scalarDst (o : Opd) : Bool :=
  match o.role with
  | .dst _ => isScalReg o.num
  | _ => false

/-- A source that R96 looks at. -/
def Opd.r96Src (o : Opd) : Bool :=
  match o.role with
  | .src _ | .srcReg _ | .srcVec _ | .ab => true
  | _ => false

/-- The field R96 blames: the first vector source under a scalar destination. -/
def Form.r96 (f : Form) (ls : List Level) : Option Nat :=
  if f.opds.any Opd.scalarDst then
    (f.opds.find? (fun o => o.r96Src && isVecLike ls o.num)).map (·.idx)
  else none

/-- R97 step 3: the first field, in the order D, A, B, C, that offends. -/
def Form.illopd (f : Form) (k : Inst) : Option Nat :=
  [0, 1, 2, 3].find? (fun i => f.opds.any (fun o => o.idx == i && o.illopd k) || f.r96 k.levels == some i)

/-- The registers an operand reads, for the full/empty rules. -/
def Opd.srcRegs (k : Inst) (o : Opd) : List Nat :=
  let rs (w : Nat) := if o.num < 704 then (List.range w).map (o.num + ·) else []
  match o.role with
  | .src w | .srcVec w | .srcScal w | .srcReg w | .srcRun w => rs w
  | .srcPred => rs 3
  | .ab | .abScal => rs 2
  | .desc w => rs w
  | .tileOrDesc => if isTile o.num then [] else rs 2
  | .viewSrc => (viewOf (viewWord k o.num)).regs
  | _ => []

/-- The registers that an instruction reads through an operand, a hint's and a view that is only read included. -/
def Opd.readRegs (k : Inst) (o : Opd) : List Nat :=
  let rs (w : Nat) := if o.num < 704 then (List.range w).map (o.num + ·) else []
  match o.role with
  | .hintAb | .hintPair => rs 2
  | .hintScal => rs 1
  | .viewRead => (viewOf (viewWord k o.num)).regs
  | _ => o.srcRegs k

/-- The registers an operand writes. -/
def Opd.dstRegs (k : Inst) (o : Opd) : List Nat :=
  let rs (w : Nat) := (List.range w).map (o.num + ·)
  match o.role with
  | .dst w | .dstAny w | .dstVec w | .dstScal w | .dstScal60 w | .dstRun w => rs w
  | .dstPred => rs 3
  | .viewDst => (viewOf (viewWord k o.num)).regs
  | _ => []

/-- What a region's rule counts as read through an operand: an accumulator too (R135). -/
def Opd.usedRegs (k : Inst) (o : Opd) : List Nat :=
  match o.role with
  | .viewAcc => (viewOf (viewWord k o.num)).regs
  | _ => o.readRegs k

/-- What it counts as written: a matrix step's view and MZERO's too (R135). -/
def Opd.setRegs (k : Inst) (o : Opd) : List Nat :=
  match o.role with
  | .viewAny | .viewAcc => (viewOf (viewWord k o.num)).regs
  | _ => o.dstRegs k

def Form.srcs (f : Form) (k : Inst) : List (List Nat × Bool) :=
  (f.opds.map (fun o => (o.srcRegs k, o.ep))).filter (fun x => !x.1.isEmpty)

/-- Every register that an instruction reads through its operand fields. -/
def Form.reads (f : Form) (k : Inst) : List Nat := f.opds.flatMap (fun o => o.readRegs k)

def Form.dsts (f : Form) (k : Inst) : List Nat := f.opds.flatMap (fun o => o.dstRegs k)

/-- The registers that a region's rule counts as read and as written (R135). -/
def Form.uses (f : Form) (k : Inst) : List Nat := f.opds.flatMap (fun o => o.usedRegs k)
def Form.sets (f : Form) (k : Inst) : List Nat := f.opds.flatMap (fun o => o.setRegs k)

/-- The instruction acts once per split (R96). -/
def Form.isOnce (f : Form) : Bool := f.once || f.opds.any Opd.scalarDst

/-! ## Formats (R87, R88) -/

/-- Bit i of an EP field. -/
def epBit (ep : BitVec 3) (i : Nat) : Bool := ep.getLsbD i

/-- The fields of formats A and X with their roles. -/
def opdsA (w : FmtA) (d a b c : Role) : List Opd :=
  [⟨0, w.d.toNat, d, false⟩, ⟨1, w.a.toNat, a, epBit w.ep 0⟩, ⟨2, w.b.toNat, b, epBit w.ep 1⟩, ⟨3, w.c.toNat, c, epBit w.ep 2⟩]

/-- The fields of format I; EP[14:13] must be zero. -/
def opdsI (w : FmtI) (d a : Role) : List Opd := [⟨0, w.d.toNat, d, false⟩, ⟨1, w.a.toNat, a, epBit w.ep 0⟩]

/-- The fields of format M: AB and then data. -/
def opdsM (w : FmtM) (data addr : Role) (dataRead : Bool) : List Opd :=
  [⟨1, w.ab.toNat, addr, epBit w.ep 0⟩, ⟨0, w.d.toNat, data, dataRead && epBit w.ep 1⟩]

/-- EP bits of format M that no field takes. -/
def epBadM (w : FmtM) (dataRead : Bool) : Bool := epBit w.ep 2 || (!dataRead && epBit w.ep 1)

def opdsS (w : FmtS) (d a b : Role) : List Opd :=
  [⟨0, w.d.toNat, d, false⟩, ⟨1, w.a.toNat, a, epBit w.ep 0⟩, ⟨2, w.b.toNat, b, epBit w.ep 1⟩]

/-! ## Reading registers (R93, R94, R111, R113) -/

/-- The 32-bit word of operand n in a lane. -/
def readWord (x : Iss) (n lane : Nat) : Word :=
  if n < 640 then (x.g.vregs.getD n { lanes := [] }).lanes.getD lane 0
  else if n < 701 then (x.g.scalar (n - 640)).val
  else if n < 704 then maskWord x.sp.mask (n - 701)
  else match n with
    | 704 => 0
    | 705 => 0xFFFFFFFF
    | 706 => BitVec.ofNat 32 lane
    | 707 => 0x3F800000
    | 708 => BitVec.ofNat 32 x.g.rank
    | 709 => BitVec.ofNat 32 (gridSize x.k.levels)
    | 710 => BitVec.ofNat 32 (treeG x.k.levels)
    | 711 => BitVec.ofNat 32 x.k.depth
    | _ => if n < 726 then BitVec.ofNat 32 (treeConst x.k.levels x.g.rank lane (n - 712)) else 0

/-- A 64-bit operand (R57): the pair, or ZERO. -/
def readPair (x : Iss) (n lane : Nat) : Nat :=
  if n < 704 then (readWord x n lane).toNat + 2 ^ 32 * (readWord x (n + 1) lane).toNat else (readWord x n lane).toNat

/-- An operand of width 32 or 64 as a number. -/
def readNat (x : Iss) (wide : Bool) (n lane : Nat) : Nat :=
  if wide then readPair x n lane else (readWord x n lane).toNat

/-- The bit of a predicate source in a lane: Pn, or S61 for the activity mask (R175). -/
def predBit (x : Iss) (n lane : Nat) : Bool :=
  if n = 701 then x.sp.mask.getLsbD lane
  else (readWord x (n + lane / 32) lane).getLsbD (lane % 32)

end Sys2Proof.Machine
end

