-- ==== Sys2Proof/Machine/Ops.lean ====
section
/-! DEFINITION. The named operations every meaning is written with: the passage of time, register writes, context faults (R280 to R282), taking a trap and returning from it (R210 to R213), and issuing an instruction with the checks of R97. -/

namespace Sys2Proof.Machine

open Sys2Proof

/-! ## Time (R4, R120) -/

/-- A group whose waits count: resident, in the active set or not (R120, R316). -/
def Group.counting (g : Group) : Bool :=
  match g.state with
  | .resident | .active | .kidwait => true
  | .parked | .saved | .retired => false

/-- A group that is on its core: a wait of its that has reached the limit traps, parked since or not (R120). -/
def Group.present (g : Group) : Bool := g.counting || g.state == .parked

/-- The wait of a split has reached its group's limit: WAITTO is the split's next step (R120).  In a FENCES window no trap
is taken (R155). -/
def waitDue (g : Group) (sp : Split) : Option Wait :=
  match sp.wait, waitLimit g.waitlim with
  | some w, some lim => if lim ≤ w.count ∧ g.present = true ∧ sp.window.isNone = true then some w else none
  | _, _ => none

/-- Some split of a group takes WAITTO before the group goes on. -/
def Group.waitOver (g : Group) : Bool := g.splits.any (fun sp => (waitDue g sp).isSome)

/-- The cycles of a move that a field counts: those of its own clock where the move gives them (R4, R430, R431). -/
def clockOf (dc : Nat) (slow : List (Nat × Nat × Nat)) (pkg fld : Nat) : Nat :=
  match slow.find? (fun x => x.1 == pkg && x.2.1 == fld) with
  | some (_, _, n) => n
  | none => dc

/-- The clocks advance: dt ticks of the timebase, and in every field that is ON the cycles of its own clock (R4,
R216). -/
def passClocks (s : State) (dt dc : Nat) (slow : List (Nat × Nat × Nat)) : State :=
  { s with
    tick := s.tick + dt
    pkgs := s.pkgs.map (fun p => { p with fields := p.fields.mapIdx (fun i f =>
      if f.state = .on then { f with cycles := f.cycles + clockOf dc slow p.num i } else f) }) }

/-- Count cycles on the open wait of a split. -/
def Split.countWait (sp : Split) (dc : Nat) : Split :=
  { sp with wait := sp.wait.map (fun w => { w with count := w.count + dc }) }

/-! ## Writing registers (R111, R113, R118, R171) -/

/-- Replace the words of the lanes of a mask, from lane i up. -/
def mapLanes (m : Mask) (f : Nat → Word) : Nat → List Word → List Word
  | _, [] => []
  | i, v :: t => (if m.getLsbD i then f i else v) :: mapLanes m f (i + 1) t

/-- Write Vn in the lanes of a mask; the register becomes FULL. -/
def Group.setVec (g : Group) (n : Nat) (m : Mask) (f : Nat → Word) : Group :=
  { g with vregs := modAt g.vregs n (fun v => { state := .full, lanes := mapLanes m f 0 v.lanes }) }

/-- Write Si, S0 to S60; the register becomes FULL. -/
def Group.setScal (g : Group) (i : Nat) (v : Word) : Group :=
  { g with sregs := setAt g.sregs i { state := .full, val := v } }

/-- A split writes register n, of a scalar some bits: what open windows have noted of the register takes it in (R156,
R172). -/
def Group.logWrite (g : Group) (spid n : Nat) (bits v : Word) : Group :=
  let undo := (g.split? spid).any (·.window.isSome)
  { g with logs := g.logs.map (fun l =>
      if l.num = n then { l with writes := l.writes ++ [{ sp := spid, undo := undo, bits := bits, val := v }] } else l) }

/-- Write one operand register n of a group for a split: lanes of a vector, a scalar once with the value of
lane l0, or a word of the split's mask ANDed with its lane set (R113). -/
def putWord (s : State) (gid spid : Nat) (n : Nat) (m : Mask) (l0 : Nat) (f : Nat → Word) : State :=
  if n < 640 then s.mapGroup gid (fun g => (g.setVec n m f).logWrite spid n 0 0)
  else if n < 701 then s.mapGroup gid (fun g => (g.setScal (n - 640) (f l0)).logWrite spid n (BitVec.allOnes 32) (f l0))
  else (s.mapGroup gid (fun g => g.setRegState n .full)).mapSplit gid spid (fun sp =>
    { sp with mask := maskWithWord sp.mask (n - 701) (f l0) &&& sp.lanes })

/-- Write w consecutive operand registers, register j of lane i taking bits [32j + 31 : 32j] of f i. -/
def putWords (s : State) (gid spid n : Nat) (m : Mask) (l0 : Nat) (f : Nat → Nat) : Nat → State
  | 0 => s
  | w + 1 => putWord (putWords s gid spid n m l0 f w) gid spid (n + w) m l0 (fun i => BitVec.ofNat 32 (f i / 2 ^ (32 * w)))

/-- A word with some of its bits replaced. -/
def withBits (bits new old : Word) : Word := (old &&& ~~~bits) ||| (bits &&& new)

/-- Write the acting lanes' bits of the predicate whose first scalar is operand n (R175). -/
def putPred (s : State) (gid spid n : Nat) (m : Mask) (f : Nat → Bool) : State :=
  let bits := Mask.ofPred f
  s.mapGroup gid (fun g =>
    [0, 1, 2].foldl (fun g w =>
      (g.setScal (n - 640 + w) (withBits (maskWord m w) (maskWord bits w) (g.scalar (n - 640 + w)).val)).logWrite spid (n + w)
        (maskWord m w) (maskWord bits w)) g)

/-- Mark registers PENDING: a long-latency producer has issued (R118). -/
def setPending (s : State) (gid : Nat) (rs : List Nat) : State :=
  s.mapGroup gid (fun g => rs.foldl (fun g n => g.setRegState n .pending) g)

/-! ## Slots, cores and sessions (R328, R329, R377, R427) -/

/-- The group identifier of R328. -/
def Group.gidWord (g : Group) : Word :=
  BitVec.ofNat 32 (g.core + 2 ^ 10 * g.slot + 2 ^ 15 * g.gen + 2 ^ 23 * g.pkg)

/-- A value kept per (core, slot), 0 where nothing is listed. -/
def slotVal (l : List (Nat × Nat × Nat)) (core slot : Nat) : Nat :=
  match l.find? (fun x => x.1 == core && x.2.1 == slot) with
  | some (_, _, v) => v
  | none => 0

def setSlotVal (l : List (Nat × Nat × Nat)) (core slot v : Nat) : List (Nat × Nat × Nat) :=
  (core, slot, v) :: l.filter (fun x => !(x.1 == core && x.2.1 == slot))

/-- The cycle count of a field. -/
def fieldCycles (s : State) (pkg fld : Nat) : Nat :=
  match s.pkg? pkg with
  | some p => (p.fields.getD fld { }).cycles
  | none => 0

/-- Free a group's slot: GEN advances, the time is kept, and the sessions it owns end (R329, R377). -/
def freeSlot (s : State) (g : Group) : State :=
  let s1 := s.mapPkg g.pkg (fun p =>
    { p with slotGens := setSlotVal p.slotGens g.core g.slot ((slotVal p.slotGens g.core g.slot + 1) % 256)
             slotFreed := setSlotVal p.slotFreed g.core g.slot (fieldCycles s g.pkg (fieldOf g.core)) })
  { s1 with sessions := s1.sessions.filter (fun n => n.gid != g.id) }

/-- Current reserved for a core of class c, in units of 0.1 A (R427). -/
def classCurrent (c : Nat) : Nat := [6, 12, 18, 24, 30, 34, 36, 38].getD c 0

/-- A group of the instance holds the core: it is resident there. -/
def coreHeld (s : State) (inst pkg core : Nat) : Bool :=
  s.groups.any (fun g => g.inst == inst && g.pkg == pkg && g.core == core && g.state != .saved)

/-- Credit a core's reservation to its field (R427). -/
def creditCore (s : State) (pkg core inst : Nat) : State :=
  match s.inst? inst with
  | some k => s.mapField pkg (fieldOf core) (fun f => { f with head := f.head + classCurrent k.curcls })
  | none => s

/-! ## Context faults (R280 to R282) -/

/-- A context that can fault on a package: any state but TORN DOWN and FAULTED (R274). -/
def Ctx.canFault (c : Ctx) : Bool := c.state != .tornDown && c.state != .faulted

/-- Address of a queue's entry. -/
def entryVa (s : State) (pkg ctx q : Nat) : Nat :=
  match s.ctx? pkg ctx with
  | some c => c.qtaddr + 64 * q
  | none => 0

def QState.code : QState → Nat
  | .idle => 0
  | .armed => 1
  | .running => 2
  | .waiting => 3
  | .drained => 4

/-- The fields of its entry that the device writes, as plain writes where their page is there (R286). -/
def storeEntry (s : State) (pkg ctx : Nat) (e : Queue) : State :=
  let va := entryVa s pkg ctx e.num
  let s : State := writeOwn s pkg ctx (va + 4) (toLE 4 (e.state.code + 2 ^ 4 * e.effprio + 2 ^ 8 * e.err))
  let s : State := writeOwn s pkg ctx (va + 0x24) (toLE 4 e.runs)
  writeOwn s pkg ctx (va + 0x28) (toLE 8 e.cur)

/-- The context runs on the package, and no STOP of it is under way (R277, R298). -/
def ctxRuns (s : State) (pkg ctx : Nat) : Bool :=
  (match s.ctx? pkg ctx with
   | some c => c.state == .running
   | none => false)
  && (match s.pkg? pkg with
      | some p => (match p.ctxCmd with | some cmd => !(cmd.op == 5 && cmd.ctx == ctx) | none => true)
      | none => false)

/-- Where the ageing of what arms or is launched now counts from: the tick, or no tick counted yet while the context is
stopped (R297, R298). -/
def ageStart (s : State) (pkg ctx : Nat) : Nat := if ctxRuns s pkg ctx then s.tick else 0

/-- A queue that a context fault or the context's end takes to DRAINED (R296). -/
def Queue.fallen (q : Queue) : Bool := q.taken && q.exists_ && q.state != .drained

/-- DRAINED with ERR 4, its nodes in flight discarded.  CUR stays (log entry 143). -/
def Queue.drop (q : Queue) : Queue := { q with state := .drained, err := 4, asyncs := [], wait := none, atNode := false, kept := false, doneNow := false, genSeen := false }

/-- The queues of a context fault: each one's entry is written with it (R286, R296). -/
def dropQueues (s : State) (pkg ctx : Nat) : State :=
  match s.ctx? pkg ctx with
  | none => s
  | some c =>
    let s : State := c.queues.foldl (fun s q => if q.fallen then storeEntry s pkg ctx q.drop else s) s
    s.mapCtx pkg ctx (fun c => { c with wings := [], queues := c.queues.map (fun q => if q.fallen then q.drop else q) })

/-- The definition loads and drops of a context under way on a package end with it: their slots are EMPTY, since a
package of the span is not RESIDENT or RUNNING (R353). -/
def endDefs (s : State) (pkg ctx : Nat) : State :=
  let ns := (s.defOps.filter (fun o => o.ctx == ctx && o.pkg == pkg && o.code.isNone && (o.lead || !o.load))).map (·.slot)
  { s with
    ctxs := s.ctxs.map (fun c => if c.num = ctx ∧ inSpan s pkg ctx c.pkg = true then
      { c with slots := ns.foldl (fun l n => modAt l n (fun t => { gen := t.gen })) c.slots } else c)
    defOps := s.defOps.filter (fun o => !(o.ctx == ctx && o.pkg == pkg)) }

/-- The range-lock entries of a context's steps and engine operations on a package, and those that wait for its groups to
read a status, are freed in every table that holds them (R282). -/
def freeEntries (s : State) (pkg ctx : Nat) : State :=
  let ops := (s.engs.filter (fun e => e.ctx == ctx && e.pkg == pkg)).map (·.id) ++ (s.steps.filter (fun t => t.ctx == ctx && t.pkg == pkg)).map (·.id)
  let gids := (s.groups.filter (fun g => g.ctx == ctx && g.pkg == pkg)).map (·.id)
  s.mapCores (fun c => { c with rlt := c.rlt.filter (fun e => !(ops.contains e.op || e.quarantine.any (fun q => gids.contains q.1))) })

/-- Discard a context's work on a package (R282): its groups without a save, its child grids, its matrix steps
and engine operations with their RLT entries, the remote opcodes queued at homes there, its wings ring; its
queues drain with ERR 4 (R296).  The ranges its operations were writing have undefined contents. -/
def discardWork (s : State) (pkg ctx : Nat) : State :=
  let s : State := (s.engs.filter (fun e => e.ctx == ctx && e.pkg == pkg)).foldl undefWork s
  let mine := s.groups.filter (fun g => g.ctx == ctx && g.pkg == pkg)
  let s : State := mine.foldl (fun s g => if g.state = .saved then s else freeSlot s g) s
  let cores := s.cores.filter (fun c => c.pkg == pkg && s.insts.any (fun k => k.id == c.inst && k.ctx == ctx))
  let s : State := cores.foldl (fun s c => if coreHeld s c.inst pkg c.idx then creditCore s pkg c.idx c.inst else s) s
  let s : State := freeEntries s pkg ctx
  let mine (c : Core) : Bool := c.pkg == pkg && s.insts.any (fun k => k.id == c.inst && k.ctx == ctx)
  let gone := s.cores.filter mine ++ (s.coreRecs.map (·.core)).filter mine
  let s : State := { s with
    groups := s.groups.filter (fun g => !(g.ctx == ctx && g.pkg == pkg))
    cores := s.cores.filter (fun c => !mine c)
    steps := s.steps.filter (fun x => !(x.ctx == ctx && x.pkg == pkg))
    engs := s.engs.filter (fun x => !(x.ctx == ctx && x.pkg == pkg))
    coreRecs := s.coreRecs.filter (fun r => !mine r.core)
    pageWaits := s.pageWaits.filter (fun w => !(w.ctx == ctx && w.pkg == pkg))
    nms := s.nms.filter (fun x => !(x.ctx == ctx && x.pkg == pkg))
    rops := s.rops.filter (fun r => !(r.ctx == ctx && r.phase != .acked &&
      (match routeOf s r.pkg ctx r.target with | some e => e.home == pkg | none => r.pkg == pkg))) }
  let s : State := s.keepEntries gone
  let s : State := { s with
    insts := s.insts.filterMap (fun k =>
      if k.ctx = ctx ∧ k.pkg = pkg then
        (if s.groups.any (fun g => g.inst == k.id) then some { k with state := .complete } else none)
      else if k.ctx = ctx ∧ k.state = .complete ∧ !s.groups.any (fun g => g.inst == k.id) then none
      else some k) }
  dropQueues (endDefs s pkg ctx) pkg ctx

/-- The 64 bytes of a fault record (R281). -/
def faultRecord (c : Ctx) (f : CtxFaultInfo) : List Byte :=
  toLE 4 (f.cause % 256 + 2 ^ 8 * c.epoch + 2 ^ 16 * f.pkg) ++ toLE 4 f.info ++ toLE 4 f.core ++ toLE 4 f.tpc
    ++ toLE 8 f.addr ++ toLE 8 f.tick ++ List.replicate 32 0

/-- A context enters FAULTED on one package: its work there is discarded, the record is written where it can
be, and a command under way on it ends with RESULT 6 (R274, R281 to R283). -/
def enterFaulted (s : State) (pkg ctx : Nat) (f : CtxFaultInfo) : State :=
  match s.ctx? pkg ctx with
  | none => s
  | some c =>
    if c.canFault then
      let s : State := discardWork s pkg ctx
      let s : State := writeOwn s pkg ctx c.fraddr (if spanStands s pkg ctx c.fraddr 64 then faultRecord c f else [])
      let s : State := s.mapCtx pkg ctx (fun c => { c with state := .faulted, before := c.state, peer := none })
      s.mapPkg pkg (fun p =>
        match p.ctxCmd with
        | some cmd => if cmd.ctx = ctx then { p with ctxCmd := none, ctxResult := 6, ctxStatState := 7 } else p
        | none => p)
    else s

/-- Raise a context fault on a package: it faults here, and cause PEER travels to the rest of the span with the tick of
the raise (R281). -/
def raiseCtxFault (s : State) (pkg ctx : Nat) (f : CtxFaultInfo) : State :=
  match s.ctx? pkg ctx with
  | none => s
  | some c =>
    if c.canFault then
      let t := homeNow s pkg
      let s : State := enterFaulted s pkg ctx { f with tick := t }
      { s with ctxs := s.ctxs.map (fun d =>
          if d.num = ctx ∧ d.pkg ≠ pkg ∧ c.span.contains d.pkg ∧ d.canFault ∧ d.peer = none then { d with peer := some (pkg, t) } else d) }
    else s

/-- A device fault (R23): every resident context of the package faults with UNCORR's device cause. -/
def deviceFault (s : State) (pkg : Nat) : State :=
  (s.ctxs.filter (fun c => c.pkg == pkg && (c.state == .resident || c.state == .running))).foldl
    (fun s c => raiseCtxFault s pkg c.num { cause := 0x24, pkg := pkg }) s

/-! ## Traps (R210 to R213) -/

/-- What traps: cause, INFO, and the address for ADDR, ALIGN and RLOCK. -/
structure Trap where
  cause : Nat
  info : Nat
  addr : Nat := 0
  deriving DecidableEq, Repr

/-- ILLOP with the opcode as INFO (R215). -/
def Form.trapIllop (f : Form) : Trap := { cause := cILLOP, info := f.op }

/-- TILEST with entry and reason (R215). -/
def tilest (entry reason : Nat) : Trap := { cause := cTILEST, info := entry % 32 + 32 * reason }

/-- A split that performs a dirty act (R331). -/
def Split.dirty (sp : Split) : Split := { sp with region := sp.region.map (fun r => { r with clean := false }) }

/-- The split is clean (R331). -/
def Split.isClean (sp : Split) : Bool :=
  match sp.region with
  | some r => r.clean
  | none => false

/-- The code offset of the word a split stands at (R199, R212): of its next instruction inside a clause, of
its header at a boundary. -/
def Split.pc (sp : Split) : Nat := if sp.clause.isEmpty then sp.hdr else sp.hdr + 8 + 8 * sp.idx

/-- The place of the word a split stands at. -/
def Split.at (sp : Split) : TrapAt :=
  { pc := sp.pc, header := sp.clause.isEmpty, hdr := sp.hdr, idx := sp.idx, len := sp.clause.length }

/-- The place of the clause header a split stands at. -/
def Split.atHeader (sp : Split) : TrapAt := { pc := sp.hdr, header := true, hdr := sp.hdr, idx := 0, len := 0 }

/-- The split stands at a clause boundary at code offset h; no wait goes on there, so a WAITT that RTE comes back to takes its
tick anew (R216; log entry 129). -/
def Split.goTo (sp : Split) (h : Nat) : Split :=
  { sp with hdr := h, idx := 0, clause := [], resume := none, wait := none, waitt := none, bar := none }

/-- Taking a trap (R210, R211, R212): the split's TCAUSE, TPC and TADDR are set, IN is set, and it continues
at the handler with its lanes, mask and registers unchanged. -/
def Split.enterHandler (sp : Split) (t : Trap) (p : TrapAt) (handler : Nat) : Split :=
  { (sp.goTo handler).dirty with
    yld := false
    tcause := tcauseWord t.cause t.info
    tpc := BitVec.ofNat 32 p.pc
    tpcEntry := BitVec.ofNat 32 p.pc
    tpcHeader := p.header
    trapHdr := p.hdr
    trapIdx := p.idx
    trapLen := p.len
    taddr := if t.cause = cADDR ∨ t.cause = cALIGN ∨ t.cause = cRLOCK then BitVec.ofNat 64 t.addr else sp.taddr }

/-- A trap of a split: its handler, or a context fault where the kernel has none or IN is set (R210). -/
def takeTrap (s : State) (g : Group) (sp : Split) (k : Inst) (t : Trap) (p : TrapAt) : State :=
  let esc : CtxFaultInfo := { cause := t.cause, pkg := g.pkg, info := t.info % 2 ^ 20, core := g.core, tpc := p.pc, addr := t.addr }
  match k.handler with
  | some h =>
    if sp.inHandler then raiseCtxFault s g.pkg g.ctx esc
    else s.mapSplit g.id sp.id (fun sp => sp.enterHandler t p h)
  | none => raiseCtxFault s g.pkg g.ctx esc

/-- The split stands at a hint, PREF or PGHINT, inside its clause. -/
def Split.atHint (sp : Split) : Bool :=
  match sp.clause[sp.idx]? with
  | some w => opcodeOf w == 0x0CB || opcodeOf w == 0x1DC
  | none => false

/-- The register for which a split that is blocked in place on its sources traps with ORPHAN once some registers are
VOID (R118, R119). -/
def Split.orphanOf (g : Group) (sp : Split) (rs : List Nat) : Option Nat :=
  match sp.wait with
  | some w =>
    if w.kind = .source ∧ w.boundary = false ∧ sp.clause.isEmpty = false ∧ sp.window.isNone = true ∧ (waitDue g sp).isNone = true
        ∧ sp.atHint = false then w.regs.find? rs.contains
    else none
  | none => none

/-- Every reader blocked on one of some registers, now VOID, traps with ORPHAN (R118). -/
def trapReaders (s : State) (gid : Nat) (rs : List Nat) : State :=
  match s.group? gid with
  | none => s
  | some g =>
    match s.inst? g.inst with
    | none => s
    | some k =>
      g.splits.foldl (fun s sp =>
        match Split.orphanOf g sp rs with
        | some n => takeTrap s g sp k { cause := cORPHAN, info := n } sp.at
        | none => s) s

/-- The PENDING ones of some registers become VOID: their producer ended without a result (R118). -/
def voidRegs (s : State) (gid : Nat) (rs : List Nat) : State :=
  s.mapGroup gid (fun g => rs.foldl (fun g n => if regState g n = .pending then g.setRegState n .void else g) g)

/-- Registers whose producer ended without a result: they are VOID, and every reader blocked on one traps (R118). -/
def setVoid (s : State) (gid : Nat) (rs : List Nat) : State :=
  match s.group? gid with
  | none => s
  | some g => trapReaders (voidRegs s gid rs) gid (rs.filter (fun n => regState g n == .pending))

/-- A parked access that DENY has ended: its split traps with ADDR at its instruction, INFO and SR.TADDR naming the
lowest faulting lane (R402, R448).  A split whose lanes have all left by EXIT can enter no handler: its trap is a context
fault. -/
def denyTrap (s : State) (gid spid lane va : Nat) (p : TrapAt) : State :=
  match s.group? gid with
  | none => s
  | some g =>
    match g.split? spid, s.inst? g.inst with
    | some sp, some k => takeTrap s g sp k { cause := cADDR, info := lane, addr := va } p
    | none, _ => raiseCtxFault s g.pkg g.ctx { cause := cADDR, pkg := g.pkg, info := lane, core := g.core, tpc := p.pc, addr := va }
    | _, none => s

/-! ## Batches (R249 to R251) -/

/-- Commit a group's open batch: its steps may run, and mtx counts it. -/
def commitOpen (s : State) (gid : Nat) : State :=
  match s.group? gid with
  | none => s
  | some g =>
    if g.openBatch.isEmpty then s
    else
      State.mapGroup { s with steps := s.steps.map (fun st => if g.openBatch.contains st.id then { st with seq := s.nextId } else st)
                              nextId := s.nextId + 1 }
        gid (fun g => { g with batches := g.batches ++ [g.openBatch], openBatch := [], mtx := g.mtx + 1 })

/-- The registers a step writes. -/
def stepRegs (k : Inst) (st : Step) : List Nat := (viewOf (viewWord k (768 + st.view))).regs

/-- Steps in flight of a group that write one of some registers. -/
def stepsWriting (s : State) (x : Iss) (rs : List Nat) : List Step :=
  s.steps.filter (fun st => st.gid == x.g.id && (stepRegs x.k st).any (fun r => rs.contains r))

/-! ## Issue (R97, R119, R155) -/

/-- What an instruction does at step 6 of R97. -/
inductive Res where
  | done (s : State)                          -- it took effect; the split goes on at the next word
  | jump (s : State)                          -- it placed the split itself
  | trap (t : Trap)
  | block (k : WaitKind) (on : Nat := 0)      -- a wait in place (R119, R120), on a counter or a tile entry
  | blockIn (s : State) (k : WaitKind) (regs : List Nat := [])  -- the same, with what the instruction has done so far, on registers
  | stall                                     -- held by its FENCES window (R155)
  deriving Repr

/-- How the checks of R97 steps 2 to 5 decide. -/
inductive Verdict where
  | trap (t : Trap)
  | noLane
  | block (rs : List Nat)
  | go (act : Mask)
  deriving DecidableEq, Repr

/-- A group that issues: ACTIVE, or PARKED inside a clause with its place kept (R316), and no save of it has begun
(R332). -/
def Group.issues (g : Group) : Bool :=
  !g.saving &&
    match g.state with
    | .active => true
    | .parked => g.holdsPlace
    | _ => false

/-- The issuing split: an issuing group's, inside a clause. -/
def issuer (s : State) : Option Iss :=
  match s.cur with
  | none => none
  | some (gid, spid) =>
    match s.group? gid with
    | none => none
    | some g =>
      match g.split? spid, s.inst? g.inst with
      | some sp, some k => if g.issues = true ∧ sp.idx < sp.clause.length then some { g := g, sp := sp, k := k } else none
      | _, _ => none

/-- The guard's predicate registers (R89). -/
def guardRegs (gf : BitVec 4) : List Nat :=
  let n := gf.toNat % 8
  if n = 0 then [] else [640 + predScalar n, 641 + predScalar n, 642 + predScalar n]

/-- The lanes an instruction acts in (R89, R113). -/
def actMask (x : Iss) (f : Form) : Mask := guardMask x.g f.g x.sp.mask

/-- An unguarded write to S61, S62 or S63 takes effect with an empty mask, whatever its instruction (R113; log
entry 39). -/
def maskWrite (x : Iss) (f : Form) : Bool :=
  f.g == 0 && (f.dsts x.k).any (fun n => decide (701 ≤ n) && decide (n < 704))

/-- R97 step 5: empty sources, then a destination with a pending producer. -/
def emptyCheck (x : Iss) (f : Form) (act : Mask) : Verdict :=
  match srcsEmpty x.g (f.srcs x.k) with
  | .emptyRd n => .trap { cause := cEMPTYRD, info := n }
  | .orphan n => .trap { cause := cORPHAN, info := n }
  | .blocked => .block (((f.srcs x.k).filter (fun r => !r.2)).flatMap (·.1))
  | .ready =>
    match firstIn x.g (f.dsts x.k) .pending with
    | some n => .trap { cause := cPENDWR, info := n }
    | none => .go act

/-- R97 steps 2 to 5.  A hint whose guard has no value does nothing (R225, R406; log entry 55). -/
def verdict (x : Iss) (f : Form) : Verdict :=
  if f.illop then .trap f.trapIllop
  else
    match f.illopd x.k with
    | some i => .trap { cause := cILLOPD, info := i }
    | none =>
      match srcEmpty x.g (guardRegs f.g) false with
      | .orphan n => if f.hint then .noLane else .trap { cause := cORPHAN, info := n }
      | .emptyRd n => .trap { cause := cEMPTYRD, info := n }
      | .blocked => .block (guardRegs f.g)
      | .ready =>
        if actMask x f = 0 ∧ maskWrite x f = false then .noLane
        else emptyCheck x f (actMask x f)

/-- The instruction stalls because of the split's FENCES window (R155): outside the list, or a 33rd register. -/
def windowStalls (x : Iss) (f : Form) : Bool :=
  match x.sp.window with
  | none => false
  | some w => !f.inWindow || decide (32 < w.kept.length + ((f.dsts x.k).filter (fun n => !w.kept.any (fun r => r.num == n))).length)

/-- A register of a group as a window keeps it. -/
def Group.keep (g : Group) (n : Nat) : KeptReg := { num := n, words := if n < 640 then (g.vregs.getD n { lanes := [] }).lanes else [] }

/-- A window's split has written register n, or issued a load of it: a new log starts with what the register was before,
and a write that made it what it is now. -/
def Group.logIn (g now : Group) (spid n : Nat) (h : Group) : Group :=
  let own : RegWrite := { sp := spid, undo := true, bits := 0, val := 0 }
  if h.logs.any (fun l => l.num == n) then
    { h with logs := h.logs.map (fun l => if l.num = n then { l with writes := l.writes ++ [own] } else l) }
  else
    { h with logs := h.logs ++ [{ num := n, state := regState g n, base := (g.scalar (n - 640)).val
                                  writes := [{ own with bits := BitVec.allOnes 32, val := (now.scalar (n - 640)).val }] }] }

/-- The registers written in a window are counted, each kept as it was before its first write there (R154, R155). -/
def Split.noteRegs (sp : Split) (g : Group) (rs : List Nat) : Split :=
  { sp with window := sp.window.map (fun w =>
      { w with kept := w.kept ++ (rs.filter (fun n => !w.kept.any (fun r => r.num == n))).map g.keep }) }

/-- What an instruction reads and writes inside a region: a write of a live-in, or a read of any other register that the
region has not written, breaks the region's rule (R135). -/
def Region.note (r : Region) (reads writes : List Nat) : Region :=
  let liveIn (n : Nat) : Bool := r.live.any (fun p => decide (p.1 ≤ n) && decide (n ≤ p.2))
  { r with
    broken := r.broken || writes.any liveIn || reads.any (fun n => !liveIn n && !r.wrote.contains n)
    wrote := r.wrote ++ writes.filter (fun n => !r.wrote.contains n) }

def Split.noteRegion (sp : Split) (reads writes : List Nat) : Split :=
  { sp with region := sp.region.map (fun r => r.note reads writes) }

/-- The split moves past the word it stands at; past the last word of its clause it stands at the word that
follows the clause (R78), where a barrier wait left open goes on at the boundary (R320). -/
def Split.advance (sp : Split) : Split :=
  if sp.idx + 1 < sp.clause.length then { sp with idx := sp.idx + 1, wait := none, waitt := none, bar := none }
  else { sp with hdr := sp.hdr + 8 * (sp.clause.length + 1), idx := 0, clause := [], waitt := none
                 wait := if sp.bar.isSome then some { kind := .barrier, count := 0, boundary := true } else none }

/-- Reading a CPYG status lifts the quarantine entry that waits for it (R417). -/
def liftQuarantine (s : State) (g : Group) (rs : List Nat) : State :=
  s.mapCores (fun c =>
    { c with rlt := c.rlt.filter (fun e =>
        match e.quarantine with
        | some (gid, sc) => !(gid == g.id && rs.contains sc)
        | none => true) })

/-- The registers that an instruction of a FENCES window writes are noted, with what they were before it (R154, R156). -/
def noteLogs (s : State) (x : Iss) (f : Form) : State :=
  if x.sp.window.isSome then s.mapGroup x.g.id (fun g => (f.dsts x.k).foldl (fun h n => x.g.logIn g x.sp.id n h) g) else s

/-- An instruction that took effect leaves the split at the next word. -/
def finish (s : State) (x : Iss) (f : Form) : State :=
  (noteLogs (liftQuarantine s x.g (f.reads x.k)) x f).mapSplit x.g.id x.sp.id (fun sp =>
    ((sp.noteRegs x.g (f.dsts x.k)).noteRegion (guardRegs f.g ++ f.uses x.k) (f.sets x.k)).advance)

/-- The split blocks in place (R119): its wait begins, or goes on counting. -/
def blockOn (s : State) (x : Iss) (kind : WaitKind) (on : Nat := 0) (regs : List Nat := []) : State :=
  s.mapSplit x.g.id x.sp.id (fun sp =>
    let fresh : Wait := { kind := kind, count := 0, boundary := false, regs := regs, on := on }
    let w : Wait :=
      match sp.wait with
      | some w => if w.kind = kind ∧ w.boundary = false then { w with regs := regs, on := on } else fresh
      | none => fresh
    { sp with wait := some w })

/-- The open batch is committed where an uncommitted step is the producer of one of some registers (R251). -/
def commitFor (s : State) (x : Iss) (rs : List Nat) : State :=
  if (stepsWriting s x rs).any (fun st => st.seq == 0) then commitOpen s x.g.id else s

/-- A block on source registers. -/
def blockOnRegs (s : State) (x : Iss) (rs : List Nat) : State := blockOn (commitFor s x rs) x .source 0 rs

/-- A trap of the issuing instruction; in a FENCES window it stalls instead (R155). -/
def issueTrap (s : State) (x : Iss) (t : Trap) : State :=
  if x.sp.window.isSome then s else takeTrap s x.g x.sp x.k t x.sp.at

/-- The end of an issue, from what the instruction did. -/
def endIssue (s : State) (x : Iss) (f : Form) : Res → State
  | .done s' => finish s' x f
  | .jump s' => s'
  | .trap t => issueTrap s x t
  | .block .stepLimit on => blockOn (commitOpen s x.g.id) x .stepLimit on
  | .block k on => blockOn s x k on
  | .blockIn s' k rs => blockOn s' x k 0 rs
  | .stall => s

/-- An instruction whose guard no lane passes does nothing but read its guard (R89, R135). -/
def passOver (s : State) (x : Iss) (f : Form) : State :=
  s.mapSplit x.g.id x.sp.id (fun sp => (sp.noteRegion (guardRegs f.g) []).advance)

/-- One issue by the issuing split, once it is known. -/
def issueAt (s : State) (x : Iss) (f : Form) (body : Iss → Mask → State → Res) : State :=
  if windowStalls x f then s
  else
    match verdict x f with
    | .trap t => issueTrap s x t
    | .noLane => passOver s x f
    | .block rs => blockOnRegs s x rs
    | .go act => endIssue s x f (body x act s)

/-- Issue an instruction of a form with a body: the checks of R97 in their order, then its own traps and
effects. -/
def issueWith (s : State) (f : Form) (body : Iss → Mask → State → Res) : Host.Outcome State Fault Refusal :=
  match issuer s with
  | none => .refused .notEnabled
  | some x => .next (issueAt s x f body)

/-- A step of the device with its outcome where its condition holds; elsewhere the step does not occur (log entry 6). -/
def ifReady (o : Option (Host.Outcome State Fault Refusal)) : Host.Outcome State Fault Refusal := o.getD (.refused .notEnabled)

/-- A step of the device whose condition holds, or that is not enabled. -/
def ifEnabled (o : Option State) : Host.Outcome State Fault Refusal :=
  match o with
  | some s => .next s
  | none => .refused .notEnabled

/-- Mark the issuing split dirty (R331). -/
def markDirty (s : State) (x : Iss) : State := s.mapSplit x.g.id x.sp.id Split.dirty

end Sys2Proof.Machine
end

