-- ==== Sys2Proof/Machine/Bench.lean ====
section
/-! DEFINITION. Fetching: the word a split stands at, and the bench on which one instruction is placed (log entry 14). -/

namespace Sys2Proof.Machine

open Sys2Proof

/-- The instruction word a split of a group stands at, inside a clause (R78). -/
def issueWord (s : State) (gid sp : Nat) : Option DWord :=
  match s.group? gid with
  | none => none
  | some g =>
    match g.split? sp with
    | none => none
    | some sp => sp.clause[sp.idx]?

/-- The group's module has a FAILED field: unusable until module reset (R423). -/
def groupUnusable (s : State) (gid : Nat) : Bool :=
  match s.group? gid with
  | none => false
  | some g =>
    match s.pkg? g.pkg with
    | none => false
    | some p => p.broken

/-- A split of all 96 lanes about to issue the words of a clause (R114). -/
def freshSplit (st : Word) (hdr : Nat) (clause : List DWord) : Split :=
  { id := 0, lanes := BitVec.allOnes 96, mask := BitVec.allOnes 96, hdr := hdr, idx := 0, clause := clause, resume := none, st := st }

/-- The registers of a group at its first issue (R114): all FULL and zero. -/
def freshVregs (n : Nat) : List VReg := List.replicate n { lanes := List.replicate 96 0 }
def freshSregs : List SReg := List.replicate 64 { }

/-- A group at its first issue (R114, R323). -/
def freshGroup (id inst ctx rank pkg core slot gen regs now cyc : Nat) (sp : Split) : Group :=
  { id := id, inst := inst, ctx := ctx, rank := rank, pkg := pkg, core := core, slot := slot, gen := gen
    state := .resident, holdsPlace := false
    vregs := freshVregs regs, sregs := freshSregs, waitlim := 26, tbase := 0, rfault := 0
    mtx := 0, eng := 0, rop := 0, kids := 0
    done := BitVec.allOnes 96, retStacks := List.replicate 96 [], marks := [], bars := [], arrived := [], collCount := []
    splits := [sp], nextSplit := 1, openBatch := [], batches := [], acquired := false
    readyCyc := 0, activeSince := now, swapsAt := cyc }

/-- A core at an instance's start on it (R122, R123, R128, R134, R323). -/
def freshCore (pkg idx inst regend ashend : Nat) : Core :=
  { pkg := pkg, idx := idx, inst := inst, regend := regend, ashend := ashend
    tiles := List.replicate 32 { }, ashlar := [], l1 := [], rlt := [], objs := List.replicate 64 { }
    items := [], swaps := 0 }

/-- The units of R123: registers of one group, the ashlar, and the groups a core holds. -/
def poolF (regs : Nat) : Nat := (384 * regs + 4095) / 4096
def poolA (rows : Nat) : Nat := rows / 32
def nCore (regs rows : Nat) : Nat := min 32 ((480 - poolA rows) / poolF regs)
def poolRegend (regs rows : Nat) : Nat := nCore regs rows * poolF regs

/-- The bench's tree: groups of 96 lanes under a PACKAGE root of one. -/
def benchLevels : List Level :=
  [{ fan := 1, phys := 0, co := false }, { fan := 96, phys := 1, co := false }, { fan := 1, phys := 5, co := false }]

/-- The bench's instance: 16 vector registers, 64 ashlar rows, no handler. -/
def benchInst (id pkg ctx : Nat) : Inst :=
  { id := id, pkg := pkg, ctx := ctx, epoch := 0, state := .running, image := 0, launcher := .node 0 0
    ind := false, countArg := 1, count := 1, param := 0, seed := 1, scope := 14, cwaddr := 0, cwval := 0, depth := 0
    abortAtStart := false, codeVa := 0, codeLen := 24, regs := 16, ashrows := 64, handler := none, regions := []
    views := List.replicate 8 0, curcls := 0, levels := benchLevels, cbase := 0, csize := 0, area := 0
    placed := [{ rank := 0, pkg := pkg, core := 0 }], abort := [], barriers := [], departed := [], retired := 0, maxCt := 0 }

/-- The bench's context, RUNNING. -/
def benchCtx (pkg num : Nat) : Ctx :=
  { pkg := pkg, num := num, state := .running, before := .running, epoch := 0, ccb := [], ccbAddr := 0, ptaddr := 0, pcladdr := 0
    keypol := 0, lease := 2000, spanm1 := 0, spidx := 0, allow := List.replicate 6 112, grbase := 0, grsize := 0
    wrbase := 0, wrlog2 := 10, fraddr := 0, fqaddr := 0, qtaddr := 0, span := [pkg], pt := [], pcl := [], digest := []
    key := [], xfer := [], iv := [], last := 0, slots := List.replicate 64 { }, queues := [], wings := []
    fqWait := [], peer := none }

/-- A context number that a package does not use. -/
def freeCtxNum (s : State) (pkg : Nat) : Nat :=
  ((List.range 2048).find? (fun n => !s.ctxs.any (fun c => c.pkg == pkg && c.num == n))).getD 0

/-- A core that holds no instance. -/
def freeCoreIdx (s : State) (pkg : Nat) : Nat :=
  ((List.range 672).find? (fun n => !s.cores.any (fun c => c.pkg == pkg && c.idx == n))).getD 0

/-- The first package. -/
def firstPkg (s : State) : Nat :=
  match s.pkgs with
  | p :: _ => p.num
  | [] => 0

/-- s with a bench group whose one split is about to issue the word, and the agenda that lets it move next. -/
def benchState (s : State) (w : DWord) : State :=
  let pkg := firstPkg s
  let ctx := freeCtxNum s pkg
  let core := freeCoreIdx s pkg
  let iid := s.nextId
  let gid := s.nextId + 1
  let g := freshGroup gid iid ctx 0 pkg core 0 0 16 0 0 (freshSplit (stInit 1 0) 0 [w])
  { s with
    ctxs := benchCtx pkg ctx :: s.ctxs
    insts := benchInst iid pkg ctx :: s.insts
    cores := freshCore pkg core iid (poolRegend 16 64) (poolRegend 16 64 + poolA 64) :: s.cores
    groups := { g with state := .active, acquired := true } :: s.groups
    nextId := s.nextId + 2
    agenda := [{ ticks := 0, cycles := 1, act := .issue gid 0 }] }

end Sys2Proof.Machine
end

