-- ==== Sys2Proof/Machine/Compute.lean ====
section
/-! DEFINITION. What the compute instructions share (R171 to R176): forms of formats A, I and K, and bodies that write words, predicates or comparison results. -/

namespace Sys2Proof.Machine

open Sys2Proof

/-- Write w registers from operand d up with the value f gives each lane (R171, R172). -/
def bodyWords (d w : Nat) (f : Iss → Nat → Nat) (x : Iss) (act : Mask) (s : State) : Res :=
  .done (putWords s x.g.id x.sp.id d act act.lowest (f x) w)

/-- Write a predicate's bits (R175). -/
def bodyPred (d : Nat) (f : Iss → Nat → Bool) (x : Iss) (act : Mask) (s : State) : Res :=
  .done (putPred s x.g.id x.sp.id d act (f x))

/-- A comparison's result: a predicate, or a word of ones or zero (R180, R185). -/
def bodyCmp (word : Bool) (d : Nat) (f : Iss → Nat → Bool) (x : Iss) (act : Mask) (s : State) : Res :=
  if word then bodyWords d 1 (fun x i => (condWord (f x i)).toNat) x act s else bodyPred d f x act s

/-- The destination of a comparison (R180). -/
def cmpDst (word : Bool) : Role := if word then .dst 1 else .dstPred

/-- A compute instruction of format A: the roles of its four fields. -/
def formA (op : Nat) (w : FmtA) (bad : Bool) (d a b c : Role) : Form :=
  { op := op, bad := bad, g := w.g, opds := opdsA w d a b c, compute := true, inWindow := true }

/-- A compute instruction of format I; EP[14:13] must be zero. -/
def formI (op : Nat) (w : FmtI) (bad : Bool) (d a : Role) : Form :=
  { op := op, bad := bad || epBit w.ep 1 || epBit w.ep 2, g := w.g, opds := opdsI w d a, compute := true, inWindow := true }

/-! ## Class 0 types (R176, R177) -/

/-- TYPE, MOD[7:5]. -/
def typeOf (m : BitVec 8) : Nat := m.toNat / 32
/-- MOD[4:0]. -/
def lowMod (m : BitVec 8) : Nat := m.toNat % 32
/-- The width of a TYPE is 64. -/
def tyWide (ty : Nat) : Bool := decide (2 ≤ ty)
/-- The width in bits. -/
def tyBits (ty : Nat) : Nat := if tyWide ty then 64 else 32
/-- The width in registers. -/
def tyRegs (ty : Nat) : Nat := if tyWide ty then 2 else 1
def tySigned (ty : Nat) : Bool := ty % 2 == 0
/-- TYPE or MOD[4:0] is not one the instruction admits. -/
def intBad (m : BitVec 8) (tys : List Nat) (lows : List Nat) : Bool :=
  !tys.contains (typeOf m) || !lows.contains (lowMod m)

/-- A w-bit pattern read by its type. -/
def asInt (ty v : Nat) : Int := if tySigned ty ∧ 2 ^ (tyBits ty - 1) ≤ v then (v : Int) - 2 ^ tyBits ty else v
/-- The low w bits of an integer. -/
def wrapInt (ty : Nat) (t : Int) : Nat := (t % 2 ^ tyBits ty).toNat
def tyLo (ty : Nat) : Int := if tySigned ty then -(2 ^ (tyBits ty - 1)) else 0
def tyHi (ty : Nat) : Int := if tySigned ty then 2 ^ (tyBits ty - 1) - 1 else 2 ^ tyBits ty - 1
/-- The stored pattern of an exact result: clamped with .sat, then wrapped (R177). -/
def intResult (ty : Nat) (sat : Bool) (t : Int) : Nat :=
  wrapInt ty (if sat then clampInt t (tyLo ty) (tyHi ty) else t)

/-- IMM20 sign-extended to the operand width (R91). -/
def immS (ty : Nat) (imm : BitVec 20) : Nat := wrapInt ty imm.toInt

def readInt (x : Iss) (ty n lane : Nat) : Int := asInt ty (readNat x (tyWide ty) n lane)

/-- A body of integer arithmetic over A, B and C. -/
def intBody3 (w : FmtA) (f : Int → Int → Int → Int) : Iss → Mask → State → Res :=
  let ty := typeOf w.mod
  bodyWords w.d.toNat (tyRegs ty) (fun x i =>
    intResult ty (w.mod.getLsbD 0) (f (readInt x ty w.a.toNat i) (readInt x ty w.b.toNat i) (readInt x ty w.c.toNat i)))

/-- A body of integer arithmetic over A and an immediate. -/
def intBodyI (w : FmtI) (f : Int → Int → Int) : Iss → Mask → State → Res :=
  let ty := typeOf w.mod
  bodyWords w.d.toNat (tyRegs ty) (fun x i =>
    intResult ty (w.mod.getLsbD 0) (f (readInt x ty w.a.toNat i) (asInt ty (immS ty w.imm))))

/-- A body over bit patterns of A, B and C (R178). -/
def bitBody (w : FmtA) (f : Nat → Nat → Nat → Nat) : Iss → Mask → State → Res :=
  let ty := typeOf w.mod
  bodyWords w.d.toNat (tyRegs ty) (fun x i =>
    f (readNat x (tyWide ty) w.a.toNat i) (readNat x (tyWide ty) w.b.toNat i) (readNat x (tyWide ty) w.c.toNat i) % 2 ^ tyBits ty)

/-- A body over the bit pattern of A and an immediate zero-extended (R91). -/
def bitBodyI (w : FmtI) (f : Nat → Nat → Nat) : Iss → Mask → State → Res :=
  let ty := typeOf w.mod
  bodyWords w.d.toNat (tyRegs ty) (fun x i => f (readNat x (tyWide ty) w.a.toNat i) w.imm.toNat % 2 ^ tyBits ty)

end Sys2Proof.Machine
end

