-- ==== Sys2Proof/Machine/Access.lean ====
section
/-! DEFINITION. Accesses: effective addresses and their checks (R165, R219, R220), the order among a split's accesses (R150, R159, R401), fences and releases (R153, R158), and parking (R220, R316, R399). -/

namespace Sys2Proof.Machine

open Sys2Proof

/-! ## Addresses (R219) -/

/-- OFF20 sign-extended. -/
def offInt (off : BitVec 20) : Int := off.toInt

/-- An address modulo 2^64. -/
def addr64 (v : Int) : Nat := (v % 2 ^ 64).toNat

/-- The instruction of format M acts once per split: a scalar pair, and a scalar or a scalar constant as data
(R219). -/
def onceM (x : Iss) (ab data : Nat) : Bool := isScalReg ab && !isVecLike x.k.levels data

/-- The effective address of a lane (R219). -/
def effAddr (x : Iss) (ab : Nat) (off : Int) (wm : Nat) (once : Bool) (lane : Nat) : Nat :=
  if isVecReg ab then addr64 ((readPair x ab lane : Int) + off)
  else addr64 ((readPair x ab lane : Int) + off + if once then 0 else wm * lane)

/-- The lanes for which an access is made, with their addresses; one where the instruction acts once. -/
def laneAddrs (x : Iss) (ab : Nat) (off : Int) (wm : Nat) (once : Bool) (act : Mask) : List (Nat × Nat) :=
  if once then [(act.lowest, effAddr x ab off wm true 0)]
  else act.lanes.map (fun i => (i, effAddr x ab off wm false i))

/-! ## The range-lock table (R164, R165) -/

/-- A line lies in an entry of the core, of W mode where onlyW. -/
def rltHit (s : State) (pkg core va : Nat) (onlyW : Bool) : Bool :=
  match s.core? pkg core with
  | none => false
  | some c => c.rlt.any (fun e => (e.write || !onlyW) && decide (e.lo ≤ va56 va) && decide (va56 va < e.hi))

/-- The first lane that breaks a check, as INFO and address; INFO is 0 for an access made once (R448). -/
def firstBad (once : Bool) (la : List (Nat × Nat)) (ok : Nat → Bool) : Option (Nat × Nat) :=
  (la.find? (fun p => !ok p.2)).map (fun p => (if once then 0 else p.1, p.2))

/-- The checks of R220 over every acting lane: ALIGN, then ADDR, then RLOCK. -/
def accessTrap (s : State) (x : Iss) (once : Bool) (wm : Nat) (onlyW : Bool) (la : List (Nat × Nat)) : Option Trap :=
  match firstBad once la (fun a => a % wm == 0) with
  | some (i, a) => some { cause := cALIGN, info := i, addr := a }
  | none =>
    match firstBad once la (fun a => (routeOf s x.g.pkg x.g.ctx a).isSome) with
    | some (i, a) => some { cause := cADDR, info := i, addr := a }
    | none =>
      match firstBad once la (fun a => !rltHit s x.g.pkg x.g.core a onlyW) with
      | some (i, a) => some { cause := cRLOCK, info := i, addr := a }
      | none => none

/-! ## Outstanding accesses of a split (R149, R201) -/

def heldBy (gid sp : Nat) (g : Nat) (holders : List Nat) : Bool := g == gid && holders.contains sp

/-- Every lane of a load is performed, delivered or ended. -/
def Load.performed (l : Load) : Bool := l.lanes.all (fun a => a.performed || a.failed)
def Write.performed (w : Write) : Bool := w.lanes.all (fun a => a.performed || a.failed)

/-- Loads of a split not yet performed. -/
def loadsOpen (s : State) (gid sp : Nat) : Bool := s.loads.any (fun l => heldBy gid sp l.gid l.holders && !l.performed)

/-- How many remote opcodes of a split a request stands for: a combined one stands for each of its issuers' (R83, R371). -/
def Rop.heldFor (r : Rop) (gid sp : Nat) : Nat := (r.issuers.filter (fun i => i.gid == gid && i.holders.contains sp)).length

/-- Writes of a split whose CT has not returned (R149). -/
def writesOpen (s : State) (gid sp : Nat) : Nat :=
  (s.writes.filter (fun w => heldBy gid sp w.gid w.holders)).length + (s.rops.map (fun r => r.heldFor gid sp)).foldl (· + ·) 0

/-- The CT of a write returns to a split (R149). -/
def Split.ctReturn (sp : Split) (id ct : Nat) : Split := { sp with ctmax := max sp.ctmax ct, cts := (id, ct) :: sp.cts }

/-- The CT of a write returns to every split of a group that holds it. -/
def returnCt (s : State) (gid : Nat) (holders : List Nat) (id ct : Nat) : State :=
  s.mapGroup gid (fun g => { g with splits := g.splits.map (fun sp => if holders.contains sp.id then sp.ctReturn id ct else sp) })

/-- The CTs of two splits that become one: a write that both held counts once (R83, R202). -/
def joinCts (a b : List (Nat × Nat)) : List (Nat × Nat) := a ++ b.filter (fun c => !a.contains c)

/-- A new split holds what its parent holds (R201). -/
def shareHolders (s : State) (gid old new : Nat) : State :=
  let h (l : List Nat) : List Nat := if l.contains old then new :: l else l
  { s with
    loads := s.loads.map (fun l => if l.gid = gid then { l with holders := h l.holders } else l)
    writes := s.writes.map (fun w => if w.gid = gid then { w with holders := h w.holders } else w)
    rops := s.rops.map (fun r => { r with issuers := r.issuers.map (fun i => if i.gid = gid then { i with holders := h i.holders } else i) })
    steps := s.steps.map (fun t => if t.gid = gid then { t with holders := h t.holders } else t)
    engs := s.engs.map (fun e => if e.gid = gid then { e with holders := h e.holders } else e)
    defOps := s.defOps.map (fun d => if d.gid = gid then { d with holders := h d.holders } else d) }

/-! ## Fences (R153, R158) -/

/-- ct_now() as the issuing split's field reads it. -/
def nowOf (s : State) (g : Group) : Nat := ctNow s g.pkg (fieldOf g.core)

/-- A fence's condition at a scope: earlier loads performed, earlier writes' CTs returned, and ct_now() at
CTMAX + skew. -/
def fenceReady (s : State) (x : Iss) (scope : Nat) : Bool :=
  !loadsOpen s x.g.id x.sp.id && writesOpen s x.g.id x.sp.id == 0
    && decide (x.sp.ctmax + skewOf (bindOf x.k.levels scope) ≤ nowOf s x.g)

/-- An acquire at a scope of some binding invalidates the issuing core's L1 where that is CORE or wider (R159). -/
def acquireAs (s : State) (x : Iss) (bind : Nat) : State :=
  if 2 ≤ bind then s.mapCore x.g.pkg x.g.core Core.dropL1 else s

/-- An acquire at scope j of the issuing group's tree. -/
def acquireAt (s : State) (x : Iss) (scope : Nat) : State := acquireAs s x (bindOf x.k.levels scope)

/-! ## Order among a split's accesses -/

def sharesHolder (a b : List Nat) : Bool := a.any (fun i => b.contains i)

/-- An earlier acquire of one of the splits is not performed: later reads wait in the memory system (R159).  A ROPR
acquires when its return arrives (R369). -/
def acqPending (s : State) (gid : Nat) (holders : List Nat) (id : Nat) : Bool :=
  s.loads.any (fun l => l.gid == gid && decide (l.id < id) && l.acq.isSome && sharesHolder l.holders holders && !l.performed)
    || s.writes.any (fun w => w.gid == gid && decide (w.id < id) && w.acq.isSome && sharesHolder w.holders holders && !w.performed)
    || s.rops.any (fun r => r.issuers.any (fun i =>
      i.gid == gid && i.acqScope.isSome && decide (i.place < id) && sharesHolder i.holders holders))

/-- An earlier write of one of the splits to a line is not performed (R150); lane order within one operation
(R221). -/
def olderWrite (s : State) (gid : Nat) (holders : List Nat) (id lane line : Nat) : Bool :=
  s.writes.any (fun w => w.gid == gid && sharesHolder w.holders holders
      && w.lanes.any (fun a => lineOf a.va == line && !a.performed && !a.failed
        && (decide (w.id < id) || (w.id == id && decide (a.lane < lane)))))
    || s.rops.any (fun r => r.phase != .acked && r.lines.any (fun a => lineOf a == line)
      && r.issuers.any (fun i => i.gid == gid && decide (i.place < id) && sharesHolder i.holders holders))

/-- Two runs of bytes overlap. -/
def meets (a n b m : Nat) : Bool := decide (va56 a < va56 b + m) && decide (va56 b < va56 a + n)

/-- An earlier .bp or .acq load, or atomic, of one of the splits to some of n bytes is not performed: a later one could
return what comes before it in home order (R150). -/
def olderCoherent (s : State) (gid : Nat) (holders : List Nat) (id va n : Nat) : Bool :=
  s.loads.any (fun l => l.gid == gid && !l.plain && decide (l.id < id) && sharesHolder l.holders holders
      && l.lanes.any (fun a => !a.performed && !a.failed && meets a.va l.width va n))
    || s.writes.any (fun w => w.gid == gid && w.atom.isSome && decide (w.id < id) && sharesHolder w.holders holders
      && w.lanes.any (fun a => !a.performed && !a.failed && meets a.va w.width va n))

/-- An earlier access of one of the splits is parked on the page of an address, or is yet to replay there (R401). -/
def olderParked (s : State) (gid : Nat) (holders : List Nat) (id va : Nat) : Bool :=
  let onPage (a : LaneAcc) : Bool := (a.parked || (a.replay && !a.performed && !a.failed)) && pageVa a.va == pageVa va
  s.loads.any (fun l => l.gid == gid && decide (l.id < id) && sharesHolder l.holders holders && l.lanes.any onPage)
    || s.writes.any (fun w => w.gid == gid && decide (w.id < id) && sharesHolder w.holders holders && w.lanes.any onPage)

/-! ## Fault records and parking (R220, R316, R399, R400) -/

/-- A record waits to be posted in its context's fault queue on a package. -/
def queueRecord (s : State) (pkg ctx : Nat) (r : FaultRec) : State :=
  s.mapCtx pkg ctx (fun c => { c with fqWait := c.fqWait ++ [r] })

/-- A group parks: it keeps its place where it stands inside a clause (R316). -/
def Group.park (g : Group) : Group :=
  match g.state with
  | .active => { g with state := .parked, holdsPlace := true }
  | .resident => { g with state := .parked, holdsPlace := false }
  | _ => g

/-- A group's lanes that wait for their page. -/
def groupParked (s : State) (gid : Nat) : Bool :=
  s.loads.any (fun l => l.gid == gid && l.lanes.any (·.parked)) || s.writes.any (fun w => w.gid == gid && w.lanes.any (·.parked))

/-- A parked group goes on where it was; one whose lanes have all left waits for its children, if it has any (R316). -/
def Group.unpark (g : Group) : Group :=
  if g.state = .parked then
    { g with state := if g.holdsPlace = false then .resident else if g.splits.isEmpty && g.kids != 0 then .kidwait else .active
             holdsPlace := false }
  else g

/-- A parked group whose every faulting lane has replayed goes on (R316). -/
def unpark (s : State) (gid : Nat) : State := if groupParked s gid then s else s.mapGroup gid Group.unpark

/-! ## Accesses that DENY ends (R402) -/

/-- The split that issued an access: the oldest of its holders; for a jump table's fetch, the split of its lane. -/
def issuingSplit (s : State) (gid : Nat) (holders : List Nat) (lanes : List LaneAcc) : Nat :=
  match holders.getLast? with
  | some sp => sp
  | none =>
    match s.group? gid with
    | some g => ((g.splits.find? (fun sp => lanes.any (fun a => sp.lanes.getLsbD a.lane))).map (·.id)).getD 0
    | none => 0

/-- The lowest of some lanes, with its address. -/
def lowestLane (ls : List LaneAcc) : Option (Nat × Nat) :=
  ls.foldl (fun b a =>
    match b with
    | some (l, va) => if a.lane < l then some (a.lane, a.va) else some (l, va)
    | none => some (a.lane, a.va)) none

/-- The mask of some lanes. -/
def laneBits (ls : List Nat) : Mask := Mask.ofPred (fun i => ls.contains i)

/-- Post a record for an access that met an unmapped or retired page. -/
def faultRec (s : State) (pkg ctx : Nat) (kind cause : Nat) (noreplay : Bool) (gid : Word) (va pch : Nat) (lanes : Mask) : State :=
  queueRecord s pkg ctx { kind := kind, cause := cause, noreplay := noreplay, gid := gid, addr := va, pch := pch, lanes := lanes, tick := homeNow s pkg }

end Sys2Proof.Machine
end

