-- ==== Sys2Proof/Machine/Float.lean ====
section
/-! DEFINITION. Class 1, the floating-point instructions (R101, R182 to R190). -/

namespace Sys2Proof.Machine

open Sys2Proof

/-- The rounding mode of a rounding code, with the random bits d for code 4 (R58, R61). -/
def rmode (code d : Nat) : RMode :=
  match code with
  | 0 => .rne
  | 1 => .rtz
  | 2 => .rup
  | 3 => .rdn
  | _ => .sto d

/-- The rounding code, MOD[2:0]. -/
def rndOf (m : BitVec 8) : Nat := m.toNat % 8

def fv32 (v : Word) : FVal := fp32.decode v.toNat
def fp32At (x : Iss) (n lane : Nat) : FVal := fv32 (readWord x n lane)
def fp64At (x : Iss) (n lane : Nat) : FVal := fp64.decode (readPair x n lane)

/-- IMM20 as the FP32 bits [31:12] (R91). -/
def immF (imm : BitVec 20) : Word := imm ++ (0 : BitVec 12)

/-- .sat (R183). -/
def satF (bits : Nat) : Nat :=
  match fp32.decode bits with
  | .nan => 0
  | .inf neg => if neg then 0 else 0x3F800000
  | v => if v.isNeg ∨ v.isZero then 0 else if (fp32.decode 0x3F800000).lt v then 0x3F800000 else bits

/-- Round to FP32, then .sat. -/
def outF32 (mode : RMode) (sat : Bool) (v : FVal) : Nat := if sat then satF (fp32.encode mode v) else fp32.encode mode v

/-- Fused multiply-add: exact, then rounded once by the caller (R183). -/
def fmaVal (mode : RMode) (a b c : FVal) : FVal := (a.mul b).add mode c

def fSub (mode : RMode) (a b : FVal) : FVal := a.add mode b.neg

/-- MOD of FP32 arithmetic: MOD[3] .sat, rounding 0 to 3. -/
def farithBad (m : BitVec 8) : Bool := decide (16 ≤ m.toNat) || decide (4 ≤ rndOf m)

def farithBody (w : FmtA) (f : RMode → FVal → FVal → FVal → FVal) : Iss → Mask → State → Res :=
  let md := rmode (rndOf w.mod) 0
  bodyWords w.d.toNat 1 (fun x i =>
    outF32 md (w.mod.getLsbD 3) (f md (fp32At x w.a.toNat i) (fp32At x w.b.toNat i) (fp32At x w.c.toNat i)))

def farithBodyI (w : FmtI) (f : RMode → FVal → FVal → FVal) : Iss → Mask → State → Res :=
  let md := rmode (rndOf w.mod) 0
  bodyWords w.d.toNat 1 (fun x i => outF32 md (w.mod.getLsbD 3) (f md (fp32At x w.a.toNat i) (fv32 (immF w.imm))))

def formFadd (w : FmtA) : Form := formA 0x040 w (farithBad w.mod) (.dst 1) (.src 1) (.src 1) .unused
def execFadd (w : FmtA) (s : State) : Host.Outcome State Fault Refusal := issueWith s (formFadd w) (farithBody w (fun md a b _ => a.add md b))
def formFaddI (w : FmtI) : Form := formI 0x060 w (farithBad w.mod) (.dst 1) (.src 1)
def execFaddI (w : FmtI) (s : State) : Host.Outcome State Fault Refusal := issueWith s (formFaddI w) (farithBodyI w (fun md a b => a.add md b))
def formFsub (w : FmtA) : Form := formA 0x041 w (farithBad w.mod) (.dst 1) (.src 1) (.src 1) .unused
def execFsub (w : FmtA) (s : State) : Host.Outcome State Fault Refusal := issueWith s (formFsub w) (farithBody w (fun md a b _ => fSub md a b))
def formFsubI (w : FmtI) : Form := formI 0x061 w (farithBad w.mod) (.dst 1) (.src 1)
def execFsubI (w : FmtI) (s : State) : Host.Outcome State Fault Refusal := issueWith s (formFsubI w) (farithBodyI w fSub)
def formFmul (w : FmtA) : Form := formA 0x042 w (farithBad w.mod) (.dst 1) (.src 1) (.src 1) .unused
def execFmul (w : FmtA) (s : State) : Host.Outcome State Fault Refusal := issueWith s (formFmul w) (farithBody w (fun _ a b _ => a.mul b))
def formFmulI (w : FmtI) : Form := formI 0x062 w (farithBad w.mod) (.dst 1) (.src 1)
def execFmulI (w : FmtI) (s : State) : Host.Outcome State Fault Refusal := issueWith s (formFmulI w) (farithBodyI w (fun _ a b => a.mul b))
def formFfma (w : FmtA) : Form := formA 0x043 w (farithBad w.mod) (.dst 1) (.src 1) (.src 1) (.src 1)
def execFfma (w : FmtA) (s : State) : Host.Outcome State Fault Refusal := issueWith s (formFfma w) (farithBody w fmaVal)

/-! ## Minimum and maximum (R184) -/

/-- One operand's bits, unrounded; -0 lies below +0; both NaN give the canonical NaN. -/
def fminmaxBits (f : FFmt) (wantMax : Bool) (a b : Nat) : Nat :=
  let x := f.decode a
  let y := f.decode b
  if x.isNan ∧ y.isNan then f.nanCode
  else if x.isNan then b
  else if y.isNan then a
  else
    let less := x.lt y || (x.eq y && x.isNeg && !y.isNeg)
    if less = wantMax then b else a

def fminmaxBody (w : FmtA) (mx : Bool) : Iss → Mask → State → Res :=
  bodyWords w.d.toNat 1 (fun x i => fminmaxBits fp32 mx (readWord x w.a.toNat i).toNat (readWord x w.b.toNat i).toNat)
def fminmaxBodyI (w : FmtI) (mx : Bool) : Iss → Mask → State → Res :=
  bodyWords w.d.toNat 1 (fun x i => fminmaxBits fp32 mx (readWord x w.a.toNat i).toNat (immF w.imm).toNat)
def dminmaxBody (w : FmtA) (mx : Bool) : Iss → Mask → State → Res :=
  bodyWords w.d.toNat 2 (fun x i => fminmaxBits fp64 mx (readPair x w.a.toNat i) (readPair x w.b.toNat i))

def formFmin (w : FmtA) : Form := formA 0x044 w (w.mod != 0) (.dst 1) (.src 1) (.src 1) .unused
def execFmin (w : FmtA) (s : State) : Host.Outcome State Fault Refusal := issueWith s (formFmin w) (fminmaxBody w false)
def formFminI (w : FmtI) : Form := formI 0x064 w (w.mod != 0) (.dst 1) (.src 1)
def execFminI (w : FmtI) (s : State) : Host.Outcome State Fault Refusal := issueWith s (formFminI w) (fminmaxBodyI w false)
def formFmax (w : FmtA) : Form := formA 0x045 w (w.mod != 0) (.dst 1) (.src 1) (.src 1) .unused
def execFmax (w : FmtA) (s : State) : Host.Outcome State Fault Refusal := issueWith s (formFmax w) (fminmaxBody w true)
def formFmaxI (w : FmtI) : Form := formI 0x065 w (w.mod != 0) (.dst 1) (.src 1)
def execFmaxI (w : FmtI) (s : State) : Host.Outcome State Fault Refusal := issueWith s (formFmaxI w) (fminmaxBodyI w true)
def formDmin (w : FmtA) : Form := formA 0x053 w (w.mod != 0) (.dst 2) (.src 2) (.src 2) .unused
def execDmin (w : FmtA) (s : State) : Host.Outcome State Fault Refusal := issueWith s (formDmin w) (dminmaxBody w false)
def formDmax (w : FmtA) : Form := formA 0x054 w (w.mod != 0) (.dst 2) (.src 2) (.src 2) .unused
def execDmax (w : FmtA) (s : State) : Host.Outcome State Fault Refusal := issueWith s (formDmax w) (dminmaxBody w true)

/-! ## Comparisons (R185), classes (R186) and rounding to an integer (R187) -/

/-- MOD[7:5] a condition 0 to 6, MOD[4] kind, MOD[3:0] zero. -/
def fcmpBad (m : BitVec 8) : Bool := m.toNat / 32 == 7 || m.toNat % 16 != 0

def formFcmp (w : FmtA) : Form := formA 0x046 w (fcmpBad w.mod) (cmpDst (w.mod.getLsbD 4)) (.src 1) (.src 1) .unused
def execFcmp (w : FmtA) (s : State) : Host.Outcome State Fault Refusal :=
  issueWith s (formFcmp w) (bodyCmp (w.mod.getLsbD 4) w.d.toNat (fun x i =>
    fcmpCond (w.mod.toNat / 32) (fp32At x w.a.toNat i) (fp32At x w.b.toNat i)))
def formFcmpI (w : FmtI) : Form := formI 0x066 w (fcmpBad w.mod) (cmpDst (w.mod.getLsbD 4)) (.src 1)
def execFcmpI (w : FmtI) (s : State) : Host.Outcome State Fault Refusal :=
  issueWith s (formFcmpI w) (bodyCmp (w.mod.getLsbD 4) w.d.toNat (fun x i =>
    fcmpCond (w.mod.toNat / 32) (fp32At x w.a.toNat i) (fv32 (immF w.imm))))
def formDcmp (w : FmtA) : Form := formA 0x055 w (fcmpBad w.mod) (cmpDst (w.mod.getLsbD 4)) (.src 2) (.src 2) .unused
def execDcmp (w : FmtA) (s : State) : Host.Outcome State Fault Refusal :=
  issueWith s (formDcmp w) (bodyCmp (w.mod.getLsbD 4) w.d.toNat (fun x i =>
    fcmpCond (w.mod.toNat / 32) (fp64At x w.a.toNat i) (fp64At x w.b.toNat i)))
def formFclass (w : FmtA) : Form := formA 0x047 w (w.mod != 0) (.dst 1) (.src 1) .unused .unused
def execFclass (w : FmtA) (s : State) : Host.Outcome State Fault Refusal :=
  issueWith s (formFclass w) (bodyWords w.d.toNat 1 (fun x i => (fclassWord (readWord x w.a.toNat i)).toNat))

/-- The integral FP32 value (R187): a nonzero value that rounds to zero keeps its sign. -/
def frndBits (mode : RMode) (v : FVal) : Nat :=
  match v with
  | .fin neg m e => fp32.encode .rne (.fin neg (roundIntMag mode neg m e) 0)
  | v => fp32.encode .rne v

def formFrnd (w : FmtA) : Form := formA 0x048 w (decide (4 ≤ w.mod.toNat)) (.dst 1) (.src 1) .unused .unused
def execFrnd (w : FmtA) (s : State) : Host.Outcome State Fault Refusal :=
  issueWith s (formFrnd w) (bodyWords w.d.toNat 1 (fun x i => frndBits (rmode (rndOf w.mod) 0) (fp32At x w.a.toNat i)))

/-! ## FP64 arithmetic (R183) -/

def darithBody (w : FmtA) (f : RMode → FVal → FVal → FVal → FVal) : Iss → Mask → State → Res :=
  let md := rmode (rndOf w.mod) 0
  bodyWords w.d.toNat 2 (fun x i =>
    fp64.encode md (f md (fp64At x w.a.toNat i) (fp64At x w.b.toNat i) (fp64At x w.c.toNat i)))

def formDadd (w : FmtA) : Form := formA 0x050 w (farithBad w.mod) (.dst 2) (.src 2) (.src 2) .unused
def execDadd (w : FmtA) (s : State) : Host.Outcome State Fault Refusal :=
  issueWith s (formDadd w) (darithBody w (fun md a b _ => if w.mod.getLsbD 3 then fSub md a b else a.add md b))
def formDmul (w : FmtA) : Form := formA 0x051 w (decide (4 ≤ w.mod.toNat)) (.dst 2) (.src 2) (.src 2) .unused
def execDmul (w : FmtA) (s : State) : Host.Outcome State Fault Refusal := issueWith s (formDmul w) (darithBody w (fun _ a b _ => a.mul b))
def formDfma (w : FmtA) : Form := formA 0x052 w (decide (4 ≤ w.mod.toNat)) (.dst 2) (.src 2) (.src 2) (.src 2)
def execDfma (w : FmtA) (s : State) : Host.Outcome State Fault Refusal := issueWith s (formDfma w) (darithBody w fmaVal)

/-! ## Stochastic rounding's draw (R60) -/

/-- An issue with rounding code 4 in which a lane acts advances the split's generator once.  An unguarded write to S61,
S62 or S63 under an empty mask takes effect (R113) and leaves st as it is. -/
def advanceSt (s : State) (x : Iss) (act : Mask) (code : Nat) : State :=
  if code = 4 ∧ act ≠ 0 then s.mapSplit x.g.id x.sp.id (fun sp => { sp with st := stAdvance sp.st }) else s

/-- The mode of element j of a lane, with the state after the advance. -/
def laneMode (x : Iss) (code lane j : Nat) : RMode := rmode code (stDraw (stAdvance x.sp.st) lane j)

/-- The lane whose draw a value written once takes: the lane itself, or for a scalar destination the lowest
acting lane (log entry 9). -/
def drawLane (d : Nat) (act : Mask) (lane : Nat) : Nat := if d < 640 then lane else act.lowest

/-- The mode in which element j of what a lane writes to operand d is rounded.  Where no lane acts, in a write to S61, S62
or S63 under an empty mask, no rule gives the draw: its bits are free (log entry 9). -/
def drawMode (s : State) (x : Iss) (act : Mask) (code d lane j : Nat) : RMode :=
  if act = 0 then rmode code ((Config.undefWord s.choiceCtr (2 ^ 16 * s.tick + 2 ^ 8 * j + lane)).toNat % 2 ^ 16)
  else laneMode x code (drawLane d act lane) j

/-! ## BF16 pairs (R188) -/

/-- Element j of a BF16 pair. -/
def bfElem (v : Word) (j : Nat) : FVal := bf16.decode (v.toNat / 2 ^ (16 * j) % 2 ^ 16)

def bfBad (m : BitVec 8) : Bool := decide (5 ≤ m.toNat)

def bfBody (w : FmtA) (f : RMode → FVal → FVal → FVal → FVal) (x : Iss) (act : Mask) (s : State) : Res :=
  bodyWords w.d.toNat 1 (fun x i =>
    let el (j : Nat) : Nat :=
      let md := drawMode s x act (rndOf w.mod) w.d.toNat i j
      bf16.encode md (f md (bfElem (readWord x w.a.toNat i) j) (bfElem (readWord x w.b.toNat i) j) (bfElem (readWord x w.c.toNat i) j))
    el 0 + 2 ^ 16 * el 1) x act (advanceSt s x act (rndOf w.mod))

def formBadd2 (w : FmtA) : Form := formA 0x058 w (bfBad w.mod) (.dst 1) (.src 1) (.src 1) .unused
def execBadd2 (w : FmtA) (s : State) : Host.Outcome State Fault Refusal := issueWith s (formBadd2 w) (bfBody w (fun md a b _ => a.add md b))
def formBmul2 (w : FmtA) : Form := formA 0x059 w (bfBad w.mod) (.dst 1) (.src 1) (.src 1) .unused
def execBmul2 (w : FmtA) (s : State) : Host.Outcome State Fault Refusal := issueWith s (formBmul2 w) (bfBody w (fun _ a b _ => a.mul b))
def formBfma2 (w : FmtA) : Form := formA 0x05A w (bfBad w.mod) (.dst 1) (.src 1) (.src 1) (.src 1)
def execBfma2 (w : FmtA) (s : State) : Host.Outcome State Fault Refusal := issueWith s (formBfma2 w) (bfBody w fmaVal)

/-! ## FCVT (R104, R189, R190) -/

/-- Registers of a register type code: 1 FP64, 5 SI64, 6 UI64 take a pair. -/
def cvtRegs (t : Nat) : Nat := if t = 1 ∨ t = 5 ∨ t = 6 then 2 else 1

/-- The value a source register holds under a type code, element j of a BF16 pair. -/
def cvtVal (t j bits : Nat) : FVal :=
  match t with
  | 0 => fp32.decode bits
  | 1 => fp64.decode bits
  | 2 => bf16.decode (bits / 2 ^ (16 * j) % 2 ^ 16)
  | 3 => .ofInt (asInt 0 bits)
  | 4 => .ofInt bits
  | 5 => .ofInt (asInt 2 bits)
  | _ => .ofInt bits

/-- Conversion to a destination type code other than the BF16 pair (R63, R64). -/
def cvtTo (t : Nat) (mode : RMode) (v : FVal) : Nat :=
  match t with
  | 0 => fp32.encode mode v
  | 1 => fp64.encode mode v
  | 3 => wrapInt 0 (v.toIntSat mode (tyLo 0) (tyHi 0))
  | 4 => wrapInt 1 (v.toIntSat mode (tyLo 1) (tyHi 1))
  | 5 => wrapInt 2 (v.toIntSat mode (tyLo 2) (tyHi 2))
  | 6 => wrapInt 3 (v.toIntSat mode (tyLo 3) (tyHi 3))
  | _ => bf16.encode mode v

/-- MOD[3] selects the element of a BF16 source (R182, R189), though R90's table calls MOD[4:3] zero (log entry 121). -/
def formFcvt (dst : BitVec 3) (w : FmtA) : Form :=
  let dt := dst.toNat
  let st := w.mod.toNat / 32
  formA (0x068 + dt) w
    (st == 7 || dt == 7 || st == dt || w.mod.getLsbD 4 || (w.mod.getLsbD 3 && st != 2)
      || decide (5 ≤ rndOf w.mod) || (rndOf w.mod == 4 && dt != 2))
    (.dst (cvtRegs dt)) (.src (cvtRegs st)) (if dt = 2 then .src (cvtRegs st) else .unused) .unused

def bodyFcvt (dst : BitVec 3) (w : FmtA) (x : Iss) (act : Mask) (s : State) : Res :=
  let dt := dst.toNat
  let st := w.mod.toNat / 32
  let rd (x : Iss) (n i : Nat) : Nat := readNat x (cvtRegs st == 2) n i
  bodyWords w.d.toNat (cvtRegs dt) (fun x i =>
    let md := drawMode s x act (rndOf w.mod) w.d.toNat i
    if dt = 2 then
      bf16.encode (md 0) (cvtVal st 0 (rd x w.a.toNat i)) + 2 ^ 16 * bf16.encode (md 1) (cvtVal st 0 (rd x w.b.toNat i))
    else cvtTo dt (md 0) (cvtVal st (if w.mod.getLsbD 3 then 1 else 0) (rd x w.a.toNat i))) x act (advanceSt s x act (rndOf w.mod))

def execFcvt (dst : BitVec 3) (w : FmtA) (s : State) : Host.Outcome State Fault Refusal :=
  issueWith s (formFcvt dst w) (bodyFcvt dst w)

end Sys2Proof.Machine
end

