-- ==== Sys2Proof/Machine/MemInstr.lean ====
section
/-! DEFINITION. Class 3, the memory instructions and the fences (R103, R153 to R155, R219 to R228). -/

namespace Sys2Proof.Machine

open Sys2Proof

/-! ## Memory types (R103, R222, R223) -/

/-- Width in memory of a type code, in bytes (R219). -/
def memWidth (ty : Nat) : Nat := [4, 8, 16, 1, 1, 2, 2, 1, 1, 1].getD ty 4

/-- Registers of a type code. -/
def memRegs (ty : Nat) : Nat := [1, 2, 4].getD ty 1

/-- What a register receives from memory (R222). -/
def loadConv (ty : Nat) (bs : List Byte) : Nat :=
  let v := leNat bs
  match ty with
  | 3 => wrapInt 0 (if 128 ≤ v then (v : Int) - 256 else v)
  | 5 => fp32.encode .rne (fp16.decode v)
  | 6 => fp32.encode .rne (bf16.decode v)
  | 7 => fp32.encode .rne (e4m3.decode v)
  | 8 => fp32.encode .rne (e5m2.decode v)
  | 9 => fp32.encode .rne (tk8Decode v)
  | _ => v

/-- What a store writes of its data (R223). -/
def storeConv (ty : Nat) (mode : RMode) (v : Nat) : List Byte :=
  match ty with
  | 3 => toLE 1 (((clampInt (asInt 0 v) (-128) 127) % 256).toNat)
  | 4 => toLE 1 (min v 255)
  | 5 => toLE 2 (fp16.encode mode (fp32.decode v))
  | 6 => toLE 2 (bf16.encode mode (fp32.decode v))
  | 7 => toLE 1 (e4m3.encode mode (fp32.decode v))
  | 8 => toLE 1 (e5m2.encode mode (fp32.decode v))
  | 9 => toLE 1 (tk8Encode mode (fp32.decode v))
  | _ => toLE (memWidth ty) v

/-- w registers from operand n up, in a lane, as one number. -/
def readRegs (x : Iss) (n lane : Nat) : Nat → Nat
  | 0 => 0
  | w + 1 => readRegs x n lane w + 2 ^ (32 * w) * (if n < 704 then (readWord x (n + w) lane).toNat else if w = 0 then (readWord x n lane).toNat else 0)

/-! ## Issuing a load -/

/-- The lines a windowed load needs beside those counted (R155). -/
def newLines (w : Window) (la : List (Nat × Nat)) : List Nat :=
  la.foldl (fun acc p => let l := lineOf p.2; if w.lines.contains l || acc.contains l then acc else l :: acc) []

/-- A window's load would need a 65th line. -/
def windowFull (x : Iss) (la : List (Nat × Nat)) : Bool :=
  match x.sp.window with
  | some w => decide (64 < w.lines.length + (newLines w la).length)
  | none => false

/-- A lane of a load; a plain load's notes what its location holds at its home at the load's issue (R134), unless an
acquire holds its read (R159). -/
def issueLane (s : State) (x : Iss) (plain : Bool) (width : Nat) (p : Nat × Nat) : LaneAcc :=
  let a : LaneAcc := { lane := p.1, va := p.2 }
  if plain && !acqPending s x.g.id [x.sp.id] s.nextId then
    { a with ver := some (orderOf s x.g.ctx (lineOf p.2))
             atIssue := match readHome s x.g.pkg x.g.ctx p.2 width with | .bytes bs _ => bs | _ => []
             bad := poisonedVa s x.g.pkg x.g.ctx p.2 width }
  else a

/-- An LD, which a FENCES window registers; an LDC or a jump table's read it does not (R155). -/
def LoadUse.isLd : LoadUse → Bool
  | .reg _ _ _ => true
  | .const _ _ | .jump _ => false

/-- Issue a load: its destination is PENDING, its accesses are in flight (R117, R220). -/
def issueLoad (s : State) (x : Iss) (use : LoadUse) (width : Nat) (plain : Bool) (acq : Option Nat) (kind : Nat)
    (dst : List Nat) (act : Mask) (la : List (Nat × Nat)) : State :=
  let win := x.sp.window.isSome && use.isLd
  let l : Load :=
    { id := s.nextId, gid := x.g.id, holders := [x.sp.id], ctx := x.g.ctx, pkg := x.g.pkg, core := x.g.core, use := use
      width := width, plain := plain && !win, acq := acq, windowed := win, bypass := win, kind := kind
      lanes := la.map (fun p => issueLane s x (plain && !win) width p), mask := act, place := x.sp.at, gw := x.g.gidWord
      epoch := ctxEpoch s x.g.pkg x.g.ctx }
  let s := setPending s x.g.id dst
  let s := { s with loads := s.loads ++ [l], nextId := s.nextId + 1 }
  s.mapSplit x.g.id x.sp.id (fun sp =>
    { sp with window := sp.window.map (fun w => if win then { w with lines := newLines w la ++ w.lines } else w) })

/-! ## LD, LDC and PREF -/

/-- ORD[1:0] 3 or ORD[3:2] not zero, or a SCOPE without .acq (R103). -/
def ldBad (w : FmtM) : Bool := decide (3 ≤ w.ord.toNat) || (w.ord.toNat != 2 && w.scope != 0) || epBadM w false

def formLd (ty : BitVec 4) (w : FmtM) : Form :=
  { op := 0x0C0 + ty.toNat, bad := ldBad w, g := w.g, opds := opdsM w (.dst (memRegs ty.toNat)) .ab false, inWindow := true }

def bodyLd (ty : BitVec 4) (w : FmtM) (x : Iss) (act : Mask) (s : State) : Res :=
  let t := ty.toNat
  let d := w.d.toNat
  let once := onceM x w.ab.toNat d
  let la := laneAddrs x w.ab.toNat w.off.toInt (memWidth t) once act
  match accessTrap s x once (memWidth t) true la with
  | some tr => .trap tr
  | none =>
    if windowFull x la then .stall
    else .done (issueLoad s x (.reg d t once) (memWidth t) (w.ord.toNat == 0)
      (if w.ord.toNat = 2 then some w.scope.toNat else none) 0 ((List.range (memRegs t)).map (d + ·)) act la)

def execLd (ty : BitVec 4) (w : FmtM) (s : State) : Host.Outcome State Fault Refusal := issueWith s (formLd ty w) (bodyLd ty w)

def formLdc (w : FmtM) : Form :=
  { op := 0x0CA, bad := w.ord != 0 || w.scope != 0 || epBadM w false, g := w.g, opds := opdsM w (.dst 1) .ab false, inWindow := true }

/-- LDC's checks (R224, R448): alignment, the constant area's size, then RLOCK; SR.TADDR takes the offset. -/
def ldcTrap (s : State) (x : Iss) (once : Bool) (la : List (Nat × Nat)) : Option Trap :=
  match firstBad once la (fun a => a % 4 == 0) with
  | some (i, a) => some { cause := cALIGN, info := i, addr := a }
  | none =>
    match firstBad once la (fun a => decide (a < x.k.csize)) with
    | some (i, a) => some { cause := cADDR, info := i, addr := a }
    | none =>
      match firstBad once la (fun a => !rltHit s x.g.pkg x.g.core (x.k.cbase + a) true) with
      | some (i, a) => some { cause := cRLOCK, info := i, addr := a }
      | none => none

def bodyLdc (w : FmtM) (x : Iss) (act : Mask) (s : State) : Res :=
  let d := w.d.toNat
  let once := onceM x w.ab.toNat d
  let la := laneAddrs x w.ab.toNat w.off.toInt 4 once act
  match ldcTrap s x once la with
  | some tr => .trap tr
  | none => .done (issueLoad s x (.const d once) 4 true none 0 [d] act (la.map (fun p => (p.1, addr64 (x.k.cbase + p.2)))))

def execLdc (w : FmtM) (s : State) : Host.Outcome State Fault Refusal := issueWith s (formLdc w) (bodyLdc w)

/-- PREF is a hint: the device may drop the request, and a request it makes is an L1_PREFETCH_FILL of its own
(R225). -/
def formPref (w : FmtM) : Form :=
  { op := 0x0CB, bad := decide (3 ≤ w.ord.toNat) || w.scope != 0 || epBadM w false, g := w.g, opds := opdsM w .unused .hintAb false, inWindow := true
    hint := true }
def bodyPref (_ : Iss) (_ : Mask) (s : State) : Res := .done s
def execPref (w : FmtM) (s : State) : Host.Outcome State Fault Refusal := issueWith s (formPref w) bodyPref

/-! ## ST -/

/-- A store, atomic or RED in flight. -/
def issueWrite (s : State) (x : Iss) (atom : Option Nat) (use : WriteUse) (width : Nat) (acq : Option Nat) (kind : Nat)
    (act : Mask) (once : Bool) (lanes : List LaneAcc) (rel : Bool := false) : State :=
  let w : Write :=
    { id := s.nextId, gid := x.g.id, holders := [x.sp.id], ctx := x.g.ctx, pkg := x.g.pkg, core := x.g.core, atom := atom
      use := use, width := width, acq := acq, kind := kind, lanes := lanes, mask := act, scalar := once, place := x.sp.at
      gw := x.g.gidWord, epoch := ctxEpoch s x.g.pkg x.g.ctx, rel := rel }
  { s with writes := s.writes ++ [w], nextId := s.nextId + 1 }

/-- A store drops the guest copies its package holds of the lines it writes (R145). -/
def dropGuests (s : State) (pkg ctx : Nat) (vas : List Nat) : State :=
  { s with guests := s.guests.filter (fun g => !(g.pkg == pkg && g.ctx == ctx && vas.any (fun a => lineOf a == g.line))) }

def formSt (ty : BitVec 4) (w : FmtM) : Form :=
  let rnd := w.ord.toNat % 8
  { op := 0x0D0 + ty.toNat
    bad := decide (5 ≤ rnd) || (rnd != 0 && decide (ty.toNat < 5)) || (decide (w.ord.toNat < 8) && w.scope != 0) || epBadM w true
    g := w.g, opds := opdsM w (.src (memRegs ty.toNat)) .ab true }

/-- The bytes that each lane of a store writes. -/
def stLanes (ty : BitVec 4) (w : FmtM) (x : Iss) (la : List (Nat × Nat)) : List LaneAcc :=
  la.map (fun p =>
    { lane := p.1, va := p.2
      data := storeConv ty.toNat (laneMode x (w.ord.toNat % 8) p.1 0) (readRegs x w.d.toNat p.1 (memRegs ty.toNat)) })

def bodySt (ty : BitVec 4) (w : FmtM) (x : Iss) (act : Mask) (s : State) : Res :=
  let t := ty.toNat
  let once := onceM x w.ab.toNat w.d.toNat
  let la := laneAddrs x w.ab.toNat w.off.toInt (memWidth t) once act
  match accessTrap s x once (memWidth t) false la with
  | some tr => .trap tr
  | none =>
    if 8 ≤ w.ord.toNat ∧ fenceReady s x w.scope.toNat = false then .block .fence
    else
      let s := advanceSt s x act (w.ord.toNat % 8)
      .done (issueWrite (dropGuests s x.g.pkg x.g.ctx (la.map (·.2))) x none .none (memWidth t) none 1 act once (stLanes ty w x la)
        (decide (8 ≤ w.ord.toNat)))

def execSt (ty : BitVec 4) (w : FmtM) (s : State) : Host.Outcome State Fault Refusal := issueWith s (formSt ty w) (bodySt ty w)

/-! ## ATOM and RED (R226 to R228) -/

/-- Width of an atomic operation, in bytes (R227). -/
def atomWidth (op : Nat) : Nat := if op = 1 ∨ op = 3 ∨ op = 13 ∨ op = 15 then 8 else 4
/-- Registers read at issue (R226). -/
def atomRead (op : Nat) : Nat := if op = 15 then 4 else if op = 14 then 2 else atomWidth op / 4
/-- Registers returned. -/
def atomRet (op : Nat) : Nat := atomWidth op / 4

/-- The new memory value (R227); cmp is the compare value of cas. -/
def atomNew (op m v cmp : Nat) : Nat :=
  match op with
  | 0 => (m + v) % 2 ^ 32
  | 1 => (m + v) % 2 ^ 64
  | 2 => fp32.encode .rne ((fp32.decode m).add .rne (fp32.decode v))
  | 3 => fp64.encode .rne ((fp64.decode m).add .rne (fp64.decode v))
  | 4 =>
    let e (j : Nat) : Nat := bf16.encode .rne ((bf16.decode (m / 2 ^ (16 * j) % 2 ^ 16)).add .rne (bf16.decode (v / 2 ^ (16 * j) % 2 ^ 16)))
    e 0 + 2 ^ 16 * e 1
  | 5 => if asInt 0 m ≤ asInt 0 v then m else v
  | 6 => min m v
  | 7 => if asInt 0 v ≤ asInt 0 m then m else v
  | 8 => max m v
  | 9 => m &&& v
  | 10 => m ||| v
  | 11 => m ^^^ v
  | 12 => v
  | 13 => v
  | _ => if m = cmp then v else m

/-- A SCOPE without an ordering (R103). -/
def scopeBad (w : FmtM) : Bool := w.ord == 0 && w.scope != 0

def formAtom (op : BitVec 4) (w : FmtM) : Form :=
  let o := op.toNat
  { op := 0x0E0 + o, bad := decide (4 ≤ w.ord.toNat) || scopeBad w || epBadM w true, g := w.g
    opds := opdsM w (.srcReg (atomRead o)) .ab true ++ [⟨0, w.d.toNat, .dst (atomRet o), false⟩] }

/-- The operand and the compare value of each lane. -/
def atomLanes (o : Nat) (d : Nat) (x : Iss) (la : List (Nat × Nat)) : List LaneAcc :=
  la.map (fun p =>
    let n := atomRet o
    if 14 ≤ o then
      { lane := p.1, va := p.2, cmp := toLE (4 * n) (readRegs x d p.1 n), data := toLE (4 * n) (readRegs x (d + n) p.1 n) }
    else { lane := p.1, va := p.2, data := toLE (4 * n) (readRegs x d p.1 n) })

def bodyAtom (op : BitVec 4) (w : FmtM) (x : Iss) (act : Mask) (s : State) : Res :=
  let o := op.toNat
  let d := w.d.toNat
  let once := onceM x w.ab.toNat d
  let la := laneAddrs x w.ab.toNat w.off.toInt (atomWidth o) once act
  match accessTrap s x once (atomWidth o) false la with
  | some tr => .trap tr
  | none =>
    if 2 ≤ w.ord.toNat ∧ fenceReady s x w.scope.toNat = false then .block .fence
    else
      let s := markDirty (setPending s x.g.id ((List.range (atomRet o)).map (d + ·))) x
      .done (issueWrite (dropGuests s x.g.pkg x.g.ctx (la.map (·.2))) x (some o) (.atomReg d (atomRet o == 2)) (atomWidth o)
        (if w.ord.toNat % 2 = 1 then some w.scope.toNat else none) 2 act once (atomLanes o d x la) (decide (2 ≤ w.ord.toNat)))

def execAtom (op : BitVec 4) (w : FmtM) (s : State) : Host.Outcome State Fault Refusal := issueWith s (formAtom op w) (bodyAtom op w)

def formRed (op : BitVec 4) (w : FmtM) : Form :=
  let o := op.toNat
  { op := 0x0F0 + o, bad := decide (4 ≤ w.ord.toNat) || w.ord == 1 || scopeBad w || epBadM w true, g := w.g
    opds := opdsM w (.src (atomRet o)) .ab true }

/-- RED has no destination, so every acting lane makes its access (R219; log entry 41). -/
def bodyRed (op : BitVec 4) (w : FmtM) (x : Iss) (act : Mask) (s : State) : Res :=
  let o := op.toNat
  let la := laneAddrs x w.ab.toNat w.off.toInt (atomWidth o) false act
  match accessTrap s x false (atomWidth o) false la with
  | some tr => .trap tr
  | none =>
    if w.ord ≠ 0 ∧ fenceReady s x w.scope.toNat = false then .block .fence
    else
      .done (issueWrite (dropGuests (markDirty s x) x.g.pkg x.g.ctx (la.map (·.2))) x (some o) .none (atomWidth o) none 2 act false
        (atomLanes o w.d.toNat x la) (w.ord != 0))

def execRed (op : BitVec 4) (w : FmtM) (s : State) : Host.Outcome State Fault Refusal := issueWith s (formRed op w) (bodyRed op w)

/-! ## FENCE and FENCES (R153 to R155) -/

def fenceBad (w : FmtM) : Bool := w.off != 0 || w.ord != 0 || w.ep != 0

def formFence (w : FmtM) : Form :=
  { op := 0x0CC, bad := fenceBad w, g := w.g, opds := opdsM w .unused .unused false }
def bodyFence (w : FmtM) (x : Iss) (_ : Mask) (s : State) : Res :=
  if fenceReady s x w.scope.toNat then .done s else .block .fence
def execFence (w : FmtM) (s : State) : Host.Outcome State Fault Refusal := issueWith s (formFence w) (bodyFence w)

def formFences (w : FmtM) : Form :=
  { op := 0x0CD, bad := fenceBad w || w.scope == 15, g := w.g, opds := opdsM w .unused .unused false }

/-- The checkpoint of a split at its FENCES (R154). -/
def checkpointOf (x : Iss) : Checkpoint :=
  { lanes := x.sp.lanes, mask := x.sp.mask, hdr := x.sp.hdr, idx := x.sp.idx, clause := x.sp.clause, st := x.sp.st
    retStacks := x.g.retStacks, yld := x.sp.yld }

/-- FENCES opens its window at T = CTMAX + skew once its earlier writes' CTs are in, or acts as FENCE after four
rollbacks in a row (R154, R157). -/
def bodyFences (w : FmtM) (x : Iss) (_ : Mask) (s : State) : Res :=
  if x.sp.asFence then
    if fenceReady s x w.scope.toNat then
      .done (s.mapSplit x.g.id x.sp.id (fun sp => { sp with asFence := false, rollbacks := 0 }))
    else .block .fence
  else if writesOpen s x.g.id x.sp.id ≠ 0 then .block .fence
  else
    let win : Window :=
      { target := x.sp.ctmax + skewOf (bindOf x.k.levels w.scope.toNat), scope := w.scope.toNat, saved := checkpointOf x
        lines := [], regd := [], kept := [], conflict := false, firstLoad := s.nextId }
    .done (s.mapSplit x.g.id x.sp.id (fun sp => { sp with window := some win }))

def execFences (w : FmtM) (s : State) : Host.Outcome State Fault Refusal := issueWith s (formFences w) (bodyFences w)

end Sys2Proof.Machine
end

