-- ==== Sys2Proof/Machine/SoftError.lean ====
section
/-! DEFINITION. Soft errors (R23, R24, R395): their counts, the poison they leave, and the faults they raise, at a home and at a core. -/

namespace Sys2Proof.Machine

open Sys2Proof

/-! ## Soft errors that a step meets (R23) -/

/-- A correctable error is counted in the field of a core. -/
def countCorrected (s : State) (pkg core : Nat) : State :=
  s.mapField pkg (fieldOf core) (fun f => { f with corrected := f.corrected + 1 })

/-- Context fault UNCORR at a core, with an address. -/
def raiseUncorr (s : State) (pkg ctx core va : Nat) : State :=
  raiseCtxFault s pkg ctx { cause := 0x20, pkg := pkg, core := core, addr := va }

/-- The fate of a soft error that a core's step meets: none where the step goes on after it. -/
def coreUpset (s : State) (pkg ctx core : Nat) (up : Upset) : State × Bool :=
  match up with
  | .none => (s, true)
  | .correctable | .correctableL2 => (countCorrected s pkg core, true)
  | .coreArray | .translation | .hbmUnit | .l2Dirty => (raiseUncorr s pkg ctx core 0, false)
  | .sharedArray => (deviceFault s pkg, false)

/-! ## Soft errors at a home (R23, R24, R395) -/

/-- Where an access stands at its home, and what a record of it says. -/
structure Site where
  pkg : Nat            -- the requesting package
  ctx : Nat
  va : Nat
  home : Nat
  pch : Nat
  key : Nat            -- physical
  kind : Nat           -- KIND of a record
  gid : Word
  deriving DecidableEq, Repr

/-- Index of the frame that an address lies in, in its page's set (R392). -/
def frameIndex (e : PtEntry) (va : Nat) : Nat := va % 2 ^ 21 / 4096 % e.n

/-- Mark physical 32-byte units poisoned. -/
def addPoison (s : State) (us : List Nat) : State :=
  { s with poison := us.filter (fun u => !s.poison.contains u) ++ s.poison }

/-- Uncorrectable HBM errors counted at a unit. -/
def eccOf (s : State) (u : Nat) : Nat := ((s.eccCount.find? (fun x => x.1 == u)).map (·.2)).getD 0

/-- An uncorrectable HBM error: the unit is poisoned, and a second one at it takes its page to POISONED. -/
def hbmError (s : State) (a : Site) : State :=
  let u := a.key / 32
  let n := eccOf s u + 1
  let s : State := addPoison { s with eccCount := (u, n) :: s.eccCount.filter (fun x => x.1 != u) } [u]
  match s.page? a.ctx a.home (pageVa a.va), routeOf s a.pkg a.ctx a.va with
  | some p, some e =>
    if 2 ≤ n ∧ p.state = .mapped then
      faultRec (s.mapPage a.ctx a.home (pageVa a.va) (fun p => { p with state := .poisoned, bad := some (frameIndex e a.va) }))
        a.home a.ctx a.kind 2 false a.gid a.va a.pch 0
    else s
  | _, _ => s

/-- A corrected error in a stack, its HBM or its MSC, is counted there. -/
def countStack (s : State) (home pch : Nat) : State :=
  s.mapPkg home (fun p => { p with stackCorrected := modAt p.stackCorrected (pch / 64) (· + 1) })

/-- A corrected error in the L2 slice that holds a line on a package is counted in the slice's field, 160 slices to a
field (R142, R144). -/
def countSlice (s : State) (pkg va : Nat) : State := s.mapField pkg (homeSlice va / 160) (fun f => { f with corrected := f.corrected + 1 })

/-- A corrected error in the L2 is counted in the field of the line's home slice; a memory-homed line stands in no L2, and
its error counts in the stack (R142). -/
def countL2 (s : State) (a : Site) : State :=
  match routeOf s a.pkg a.ctx a.va with
  | some e => if e.mh then countStack s a.home a.pch else countSlice s a.home a.va
  | none => s

/-- The fate of a soft error met at a home: none where the access goes on after it. -/
def homeUpset (s : State) (a : Site) (up : Upset) : State × Bool :=
  match up with
  | .none => (s, true)
  | .correctable => (countStack s a.home a.pch, true)
  | .correctableL2 => (countL2 s a, true)
  | .hbmUnit => (hbmError s a, true)
  | .l2Dirty => (addPoison s (lineUnits (a.key / 128)), true)
  | .sharedArray => (deviceFault s a.home, false)
  | .coreArray | .translation => (raiseUncorr s a.pkg a.ctx 0xFFFFFFFF a.va, false)

/-! ## Soft errors that steps without one meet (R23) -/

/-- The GID word of a record: a group's, or 0xFFFFFFFF. -/
def recGid (s : State) (gid : Nat) : Word :=
  match s.group? gid with
  | some g => g.gidWord
  | none => 0xFFFFFFFF

/-- An access of a context, of some KIND and group, meets a soft error at the home of an address: an atomic, a remote
opcode, a near-memory command, a REDGO's or the host's (log entry 3). -/
def softError (s : State) (pkg ctx va kind gid : Nat) (up : Upset) : Option State :=
  match translate s pkg ctx va with
  | .at_ h p key =>
    if kind ≤ 11 then
      some (homeUpset s { pkg := pkg, ctx := ctx, va := va, home := h, pch := p, key := key, kind := kind, gid := recGid s gid } up).1
    else none
  | _ => none

/-- The fate of a soft error that a fetch of code meets: one of HBM or of an L2 line at the code's home, which poisons and
counts there as for any read, or one of the core's own. -/
def codeUpset (s : State) (g : Group) (va : Nat) (up : Upset) : State × Bool :=
  match up with
  | .hbmUnit | .l2Dirty | .correctableL2 => ((softError s g.pkg g.ctx va 0 g.id up).getD s, true)
  | up => coreUpset s g.pkg g.ctx g.core up

end Sys2Proof.Machine
end

