-- ==== Sys2Proof/Machine/Ashlar.lean ====
section
/-! DEFINITION. The ashlar and its tiles: cells and elements (R124, R125, R129, R130), the tile table (R127 to R132), and TILEDEF, TILEREL, LDA and STA (R229 to R233). -/

namespace Sys2Proof.Machine

open Sys2Proof

/-! ## Cells (R124) -/

/-- Write one cell in the list of written cells, rising by cell number. -/
def cellWrite (l : List (Nat × Word)) (i : Nat) (v : Word) : List (Nat × Word) :=
  match l with
  | [] => [(i, v)]
  | (x, c) :: t => if i < x then (i, v) :: (x, c) :: t else if i = x then (i, v) :: t else (x, c) :: cellWrite t i v

/-- A cell as a tile of a given stamp reads it: a cell that nothing has written is undefined (R132; log entry 8). -/
def cellRead (l : List (Nat × Word)) (stamp i : Nat) : Word :=
  match l.find? (fun x => x.1 == i) with
  | some (_, v) => v
  | none => Config.undefCell stamp i

/-! ## Elements (R125, R129, R130) -/

/-- Width of an element by format code. -/
def elemBits (fmt : Nat) : Nat := [32, 16, 16, 8, 8, 8, 8, 8, 4, 8, 8, 8, 64].getD fmt 32
/-- Elements in a cell; FP64 takes two cells. -/
def epc (fmt : Nat) : Nat := 32 / elemBits fmt
/-- Block-scaled formats. -/
def isScaled (fmt : Nat) : Bool := decide (8 ≤ fmt) && decide (fmt ≤ 11)

/-- Scale cells of a row with ne element cells. -/
def scaleCells (fmt ne : Nat) : Nat := (ne * epc fmt / 32 + 3) / 4

/-- Element cells of a block-scaled row of ncols cells, where the layout of R130 holds. -/
def elemCells (fmt ncols : Nat) : Option Nat :=
  (List.range 33).find? (fun ne => ne % (32 / epc fmt) == 0 && ne + scaleCells fmt ne == ncols)

/-- Element columns of a tile row. -/
def Tile.elems (t : Tile) : Nat :=
  if isScaled t.fmt then (elemCells t.fmt t.ncols).getD 0 * epc t.fmt
  else if t.fmt = 12 then t.ncols / 2
  else t.ncols * epc t.fmt

/-- Cell number of cell column c of row r of a tile. -/
def Tile.cell (t : Tile) (r c : Nat) : Nat := 32 * (t.row0 + r) + t.col0 + c

/-- The bits of an element. -/
def elemGet (l : List (Nat × Word)) (t : Tile) (r e : Nat) : Nat :=
  if t.fmt = 12 then
    (cellRead l t.stamp (t.cell r (2 * e))).toNat + 2 ^ 32 * (cellRead l t.stamp (t.cell r (2 * e + 1))).toNat
  else
    let w := elemBits t.fmt
    (cellRead l t.stamp (t.cell r (e / epc t.fmt))).toNat / 2 ^ (w * (e % epc t.fmt)) % 2 ^ w

/-- A w-bit field of a word at bit p replaced. -/
def withField (v : Word) (p w x : Nat) : Word :=
  BitVec.ofNat 32 (v.toNat % 2 ^ p + 2 ^ p * (x % 2 ^ w) + 2 ^ (p + w) * (v.toNat / 2 ^ (p + w)))

/-- Write an element: only its own bits change (R126). -/
def elemPut (l : List (Nat × Word)) (t : Tile) (r e x : Nat) : List (Nat × Word) :=
  if t.fmt = 12 then
    cellWrite (cellWrite l (t.cell r (2 * e)) (BitVec.ofNat 32 x)) (t.cell r (2 * e + 1)) (BitVec.ofNat 32 (x / 2 ^ 32))
  else
    let w := elemBits t.fmt
    let i := t.cell r (e / epc t.fmt)
    cellWrite l i (withField (cellRead l t.stamp i) (w * (e % epc t.fmt)) w x)

/-- Cell that holds the scale of block j of a row. -/
def Tile.scaleCell (t : Tile) (r j : Nat) : Nat := t.cell r ((elemCells t.fmt t.ncols).getD 0 + j / 4)

/-- The E8M0 scale of block j of a row. -/
def scaleGet (l : List (Nat × Word)) (t : Tile) (r j : Nat) : Nat :=
  (cellRead l t.stamp (t.scaleCell r j)).toNat / 2 ^ (8 * (j % 4)) % 256

/-- Blocks of a row of a block-scaled tile. -/
def Tile.blocks (t : Tile) : Nat := t.elems / 32

/-- A scale cell's word with its bytes beyond the row's last block undefined, as a write leaves them: bits of a free
value (R130; log entry 8). -/
def scaleRest (t : Tile) (r j : Nat) (v : Word) : Word :=
  (List.range 4).foldl (fun v q =>
    if 4 * (j / 4) + q < t.blocks then v
    else withField v (8 * q) 8 ((Config.undefWord t.stamp (2 ^ 32 * t.scaleCell r j + v.toNat)).toNat / 2 ^ (8 * q))) v

def scalePut (l : List (Nat × Word)) (t : Tile) (r j x : Nat) : List (Nat × Word) :=
  cellWrite l (t.scaleCell r j) (scaleRest t r j (withField (cellRead l t.stamp (t.scaleCell r j)) (8 * (j % 4)) 8 x))

/-- The value of an element of a format, without its scale; integers as they are. -/
def elemVal (fmt bits : Nat) : FVal :=
  match fmt with
  | 0 => fp32.decode bits
  | 1 => fp16.decode bits
  | 2 => bf16.decode bits
  | 3 | 9 => e4m3.decode bits
  | 4 | 10 => e5m2.decode bits
  | 5 | 11 => tk8Decode bits
  | 6 => FVal.ofInt (if 128 ≤ bits then (bits : Int) - 256 else bits)
  | 7 => FVal.ofInt bits
  | 8 => e2m1.decode bits
  | _ => fp64.decode bits

/-- The code of a value in a floating element format. -/
def elemEncode (fmt : Nat) (mode : RMode) (v : FVal) : Nat :=
  match fmt with
  | 1 => fp16.encode mode v
  | 2 => bf16.encode mode v
  | 3 | 9 => e4m3.encode mode v
  | 4 | 10 => e5m2.encode mode v
  | 5 | 11 => tk8Encode mode v
  | 8 => e2m1.encode mode v
  | _ => fp32.encode mode v

/-- emax_elem of a block-scaled format (R65). -/
def emaxElem (fmt : Nat) : Nat := match fmt with | 8 => 2 | 9 => 8 | 10 => 15 | _ => 3

/-- A value divided by 2^(E - 127). -/
def unscale (e : Nat) (v : FVal) : FVal :=
  match v with
  | .fin n m x => .fin n m (x - ((e : Int) - 127))
  | v => v

/-- The scale and the codes of a block's values (R65); mode j is that of value j. -/
def blockCodes (fmt : Nat) (mode : Nat → RMode) (vs : List FVal) : Nat × List Nat :=
  let e := blockScale (emaxElem fmt) vs
  if e = 0xFF then (e, vs.map (fun _ => 0))
  else (e, (List.range vs.length).map (fun j => elemEncode fmt (mode j) (unscale e (vs.getD j .nan))))

/-! ## Poison in the ashlar (R24; log entry 118) -/

/-- The half bytes of the ashlar that an element takes: half q of cell c has the number 8 c + q. -/
def elemHalves (t : Tile) (r e : Nat) : List Nat :=
  if t.fmt = 12 then (List.range 16).map (8 * t.cell r (2 * e) + ·)
  else
    let n := elemBits t.fmt / 4
    (List.range n).map (8 * t.cell r (e / epc t.fmt) + n * (e % epc t.fmt) + ·)

/-- Those of the scale of block j of a row. -/
def scaleHalves (t : Tile) (r j : Nat) : List Nat := (List.range 2).map (8 * t.scaleCell r j + 2 * (j % 4) + ·)

/-- Those of a cell. -/
def cellHalves (i : Nat) : List Nat := (List.range 8).map (8 * i + ·)

/-- Some half bytes of the ashlar are written, with poisoned data or with good. -/
def Core.setBad (c : Core) (hs : List Nat) (bad : Bool) : Core :=
  { c with ashBad := c.ashBad.filter (fun h => !hs.contains h) ++ if bad then hs else [] }

/-- One of some half bytes is poisoned. -/
def Core.isBad (c : Core) (hs : List Nat) : Bool := hs.any c.ashBad.contains

/-! ## The tile table (R127 to R132) -/

/-- Entry of the tile operand n: (n + SR.TBASE) mod 32. -/
def tileEntry (x : Iss) (n : Nat) : Nat := (n - 736 + x.g.tbase.toNat) % 32

def tileOf (s : State) (x : Iss) (e : Nat) : Tile :=
  match s.core? x.g.pkg x.g.core with
  | some c => c.tiles.getD e { }
  | none => { }

def setTile (s : State) (x : Iss) (e : Nat) (f : Tile → Tile) : State :=
  s.mapCore x.g.pkg x.g.core (fun c => { c with tiles := modAt c.tiles e f })

/-- The node at the highest level bound to CORE that a group belongs to (R131). -/
def coreNode (k : Inst) (rank : Nat) : Option Nat := (coreLevel k.levels).map (fun lv => nodeIndex k.levels rank 0 lv)

/-- The group may name the tile (R131). -/
def tileLegal (x : Iss) (t : Tile) : Bool :=
  t.state != .free && (if t.shared then coreNode x.k x.g.rank == some t.owner else t.owner == x.g.rank)

/-- Engine operations and matrix steps that use an entry of a core. -/
def EngKind.entry : EngKind → Option Nat
  | .mstTile e _ _ _ _ _ _ => some e
  | .tld e _ _ => some e
  | .tst _ e _ => some e
  | _ => none

def StepOperand.entry : StepOperand → Option Nat
  | .tile e _ _ _ _ => some e
  | .mem _ _ _ => none

/-- How a naming of a tile goes, as a reader or as a writer (R131, R132): the tile, or the trap or block. -/
inductive Named where
  | ok (t : Tile)
  | trap (reason : Nat)
  | block
  deriving DecidableEq, Repr

def nameReader (x : Iss) (t : Tile) : Named :=
  if tileLegal x t then
    match t.state with
    | .empty => .trap 6
    | .filling => .block
    | _ => .ok t
  else .trap 5

def nameWriter (x : Iss) (t : Tile) : Named :=
  if tileLegal x t then
    match t.state with
    | .filling | .draining => .block
    | _ => .ok t
  else .trap 5

/-- Cells of a tile's rectangle. -/
def Tile.holds (t : Tile) (cell : Nat) : Bool :=
  decide (t.row0 ≤ cell / 32) && decide (cell / 32 < t.row0 + t.nrows) && decide (t.col0 ≤ cell % 32) && decide (cell % 32 < t.col0 + t.ncols)

/-- The cells of a tile's rectangle are undefined from now on. -/
def Core.eraseCells (c : Core) (t : Tile) : Core :=
  { c with ashlar := c.ashlar.filter (fun x => !t.holds x.1), ashBad := c.ashBad.filter (fun h => !t.holds (h / 8)) }

/-! ## TILEDEF and TILEREL (R229, R230) -/

def formTiledef (w : FmtA) : Form :=
  { op := 0x0DA, bad := w.mod &&& 0x0E != 0, g := w.g, opds := opdsA w .tile (.srcScal 1) (.srcScal 1) .unused, once := true }

/-- Two rectangles share a cell. -/
def overlaps (a b : Tile) : Bool :=
  decide (a.row0 < b.row0 + b.nrows) && decide (b.row0 < a.row0 + a.nrows)
    && decide (a.col0 < b.col0 + b.ncols) && decide (b.col0 < a.col0 + a.ncols)

/-- The reason for which a definition is refused, in the order of R131. -/
def defRefused (x : Iss) (c : Core) (e : Nat) (t : Tile) (reserved : Bool) : Option Nat :=
  if (c.tiles.getD e { }).state ≠ .free then some 0
  else if reserved = true ∨ t.nrows = 0 ∨ t.ncols = 0 ∨ x.k.ashrows < t.row0 + t.nrows ∨ 32 < t.col0 + t.ncols then some 1
  else if c.tiles.any (fun u => u.state != .free && overlaps u t) then some 2
  else if 12 < t.fmt ∨ (isScaled t.fmt = true ∧ elemCells t.fmt t.ncols = none) then some 3
  else if t.shared = true ∧ coreNode x.k x.g.rank = none then some 4
  else none

def bodyTiledef (w : FmtA) (x : Iss) (_ : Mask) (s : State) : Res :=
  let a := readWord x w.a.toNat 0
  let b := readWord x w.b.toNat 0
  let e := tileEntry x w.d.toNat
  let shared := w.mod.getLsbD 0
  let t : Tile :=
    { state := .empty, shared := shared
      owner := if shared then (coreNode x.k x.g.rank).getD 0 else x.g.rank
      fmt := w.mod.toNat / 16, row0 := a.toNat % 2 ^ 14, nrows := a.toNat / 2 ^ 14 % 2 ^ 14
      col0 := b.toNat % 32, ncols := b.toNat / 32 % 64, uses := 0, stamp := s.nextId }
  match s.core? x.g.pkg x.g.core with
  | none => .trap (tilest e 1)
  | some c =>
    match defRefused x c e t (a.toNat / 2 ^ 28 != 0 || b.toNat / 2 ^ 11 != 0) with
    | some r => .trap (tilest e r)
    | none =>
      .done ((markDirty s x).bump.mapCore x.g.pkg x.g.core (fun c =>
        { c.eraseCells t with tiles := setAt c.tiles e t }))
def execTiledef (w : FmtA) (s : State) : Host.Outcome State Fault Refusal := issueWith s (formTiledef w) (bodyTiledef w)

/-- TILEREL (R230); a guard is admitted (log entry 135). -/
def formTilerel (w : FmtA) : Form :=
  { op := 0x0DB, bad := w.mod != 0 || w.ep != 0, g := w.g, opds := opdsA w .unused .tile .unused .unused, once := true }

def bodyTilerel (w : FmtA) (x : Iss) (_ : Mask) (s : State) : Res :=
  let e := tileEntry x w.a.toNat
  let t := tileOf s x e
  if t.state = .free then .trap (tilest e 10)
  else if tileLegal x t then
    match t.state with
    | .filling | .draining => .block .tile e
    | _ => .done (setTile (markDirty s x) x e (fun _ => { }))
  else .trap (tilest e 5)
def execTilerel (w : FmtA) (s : State) : Host.Outcome State Fault Refusal := issueWith s (formTilerel w) (bodyTilerel w)

/-! ## LDA and STA (R231 to R233) -/

/-- The tile that an operand of the issuing split names is FP64. -/
def tileWide (s : State) (n : Nat) : Bool :=
  match issuer s with
  | some x => (tileOf s x (tileEntry x n)).fmt == 12
  | none => false

/-- Registers that hold one element: a pair for FP64 without .sc. -/
def ldaRegs (wide : Bool) (w : FmtA) : Nat := if wide && !w.mod.getLsbD 2 then 2 else 1

def formLda (wide : Bool) (w : FmtA) : Form :=
  { op := 0x0CE, bad := w.mod &&& 0xFA != 0 || epBit w.ep 0, g := w.g
    opds := opdsA w (.dstRun (ldaRegs wide w)) .tile (.src 1) .unused, inWindow := true }

def formSta (wide : Bool) (w : FmtA) : Form :=
  let rnd := w.mod.toNat / 16 % 8
  { op := 0x0CF
    bad := w.mod &&& 0x8A != 0 || decide (5 ≤ rnd) || (w.mod.getLsbD 2 && rnd != 0) || epBit w.ep 0
    g := w.g, opds := opdsA w .unused .tile (.src 1) (.srcRun (ldaRegs wide w)) }

/-- Row and element column of a lane's element. -/
def laneElem (x : Iss) (w : FmtA) (i : Nat) : Nat × Nat :=
  let b := (readWord x w.b.toNat i).toNat
  if w.mod.getLsbD 0 then (b % 2 ^ 16 + i % 32, b / 2 ^ 16 + i / 32) else (b % 2 ^ 16 + i / 32, b / 2 ^ 16 + i % 32)

/-- A lane's element lies outside the tile. -/
def outOfTile (x : Iss) (w : FmtA) (t : Tile) (act : Mask) : Bool :=
  act.lanes.any (fun i => let p := laneElem x w i; decide (t.nrows ≤ p.1) || decide (t.elems ≤ p.2))

/-- What LDA's register receives (R232). -/
def ldaConv (fmt bits : Nat) : Nat :=
  match fmt with
  | 0 | 7 | 12 => bits
  | 6 => wrapInt 0 (if 128 ≤ bits then (bits : Int) - 256 else bits)
  | f => fp32.encode .rne (elemVal f bits)

/-- The value of a lane of LDA. -/
def ldaVal (x : Iss) (w : FmtA) (l : List (Nat × Word)) (t : Tile) (i : Nat) : Nat :=
  let p := laneElem x w i
  if w.mod.getLsbD 2 then scaleGet l t p.1 (p.2 / 32) else ldaConv t.fmt (elemGet l t p.1 p.2)

def cellsOf (s : State) (x : Iss) : List (Nat × Word) :=
  match s.core? x.g.pkg x.g.core with
  | some c => c.ashlar
  | none => []

/-- The half bytes of a lane's element, or with .sc of its block's scale. -/
def laneHalves (x : Iss) (w : FmtA) (t : Tile) (i : Nat) : List Nat :=
  let p := laneElem x w i
  if w.mod.getLsbD 2 then scaleHalves t p.1 (p.2 / 32) else elemHalves t p.1 p.2

/-- Some half bytes of the issuing core's ashlar are poisoned. -/
def ashPoisoned (s : State) (x : Iss) (hs : List Nat) : Bool :=
  match s.core? x.g.pkg x.g.core with
  | some c => c.isBad hs
  | none => false

/-- The register of an FP64 element is an even pair of the group's (R231). -/
def pairOk (k : Inst) (n : Nat) : Bool := (decide (n < 704) && regOk k n 2) || n == 704

/-- LDA; poisoned data on its way to a register raises UNCORR (R24). -/
def bodyLda (w : FmtA) (x : Iss) (act : Mask) (s : State) : Res :=
  let e := tileEntry x w.a.toNat
  match nameReader x (tileOf s x e) with
  | .trap r => .trap (tilest e r)
  | .block => .block .tile e
  | .ok t =>
    if w.mod.getLsbD 2 = true ∧ isScaled t.fmt = false then .trap (tilest e 8)
    else if outOfTile x w t act then .trap (tilest e 7)
    else
      let n := ldaRegs (t.fmt == 12) w
      if n = 2 ∧ pairOk x.k w.d.toNat = false then .trap { cause := cILLOPD, info := 0 }
      else if ashPoisoned s x (act.lanes.flatMap (laneHalves x w t)) then .jump (raiseUncorr s x.g.pkg x.g.ctx x.g.core 0)
      else .done (putWords s x.g.id x.sp.id w.d.toNat act act.lowest (ldaVal x w (cellsOf s x) t) n)
def execLda (w : FmtA) (s : State) : Host.Outcome State Fault Refusal :=
  issueWith s (formLda (tileWide s w.a.toNat) w) (bodyLda w)

/-- The lanes of a beat that act cover exactly one block: all 32, in one row, from an element column that is a
multiple of 32 (R233). -/
def beatOk (x : Iss) (w : FmtA) (act : Mask) (b : Nat) : Bool :=
  let ls := (List.range 32).map (32 * b + ·)
  let p := laneElem x w (32 * b)
  ls.all (fun i => !act.getLsbD i)
    || (p.2 % 32 == 0 && ls.all (fun i => act.getLsbD i && laneElem x w i == (p.1, p.2 + i % 32)))

/-- The whole-block form that STA needs on a block-scaled tile. -/
def blockForm (x : Iss) (w : FmtA) (act : Mask) : Bool := !w.mod.getLsbD 0 && [0, 1, 2].all (beatOk x w act)

/-- What STA writes of a lane's data on a tile without block scales. -/
def staConv (fmt : Nat) (mode : RMode) (v : Nat) : Nat :=
  match fmt with
  | 0 | 12 => v
  | 6 => ((clampInt (asInt 0 v) (-128) 127) % 256).toNat
  | 7 => min v 255
  | f => elemEncode f mode (fp32.decode v)

/-- The cells after STA, in increasing lane order. -/
def staCells (x : Iss) (w : FmtA) (t : Tile) (act : Mask) (l : List (Nat × Word)) : List (Nat × Word) :=
  let rnd := w.mod.toNat / 16 % 8
  let c := w.c.toNat
  if w.mod.getLsbD 2 then
    act.lanes.foldl (fun l i =>
      let p := laneElem x w i
      scalePut l t p.1 (p.2 / 32) (min (readWord x c i).toNat 255)) l
  else if isScaled t.fmt then
    ((List.range 3).filter (fun b => act.getLsbD (32 * b))).foldl (fun l b =>
      let p := laneElem x w (32 * b)
      let codes := blockCodes t.fmt (fun j => laneMode x rnd (32 * b + j) 0)
        ((List.range 32).map (fun j => fp32.decode (readWord x c (32 * b + j)).toNat))
      (List.range 32).foldl (fun l j => elemPut l t p.1 (p.2 + j) (codes.2.getD j 0)) (scalePut l t p.1 (p.2 / 32) codes.1)) l
  else
    act.lanes.foldl (fun l i =>
      let p := laneElem x w i
      elemPut l t p.1 p.2 (staConv t.fmt (laneMode x rnd i 0) (readNat x (t.fmt == 12) c i))) l

/-- The half bytes that STA writes. -/
def staHalves (x : Iss) (w : FmtA) (t : Tile) (act : Mask) : List Nat :=
  if w.mod.getLsbD 2 = true ∨ isScaled t.fmt = false then act.lanes.flatMap (laneHalves x w t)
  else
    ((List.range 3).filter (fun b => act.getLsbD (32 * b))).flatMap (fun b =>
      let p := laneElem x w (32 * b)
      scaleHalves t p.1 (p.2 / 32) ++ (List.range 32).flatMap (fun j => elemHalves t p.1 (p.2 + j)))

/-- The formats on which a rounding code is not allowed. -/
def exactFmt (fmt : Nat) : Bool := [0, 6, 7, 12].contains fmt

/-- STA.  Code 4 on FMT 0, 6, 7 and 12 is R233's TILEST with reason 9, though R59 names ILLOP for it (log entry 122).  What
it writes another split or group reads at once, with or without a barrier (log entry 123).
Reason 9 comes before the block on a FILLING or DRAINING tile (log entry 49). -/
def bodySta (w : FmtA) (x : Iss) (act : Mask) (s : State) : Res :=
  let e := tileEntry x w.a.toNat
  let rnd := w.mod.toNat / 16 % 8
  match nameWriter x (tileOf s x e) with
  | .trap r => .trap (tilest e r)
  | .block =>
    if rnd ≠ 0 ∧ exactFmt (tileOf s x e).fmt = true then .trap (tilest e 9) else .block .tile e
  | .ok t =>
    if rnd ≠ 0 ∧ exactFmt t.fmt = true then .trap (tilest e 9)
    else if w.mod.getLsbD 2 = true ∧ isScaled t.fmt = false then .trap (tilest e 8)
    else if w.mod.getLsbD 2 = false ∧ isScaled t.fmt = true ∧ blockForm x w act = false then .trap (tilest e 8)
    else if outOfTile x w t act then .trap (tilest e 7)
    else if ldaRegs (t.fmt == 12) w = 2 ∧ pairOk x.k w.c.toNat = false then .trap { cause := cILLOPD, info := 3 }
    else
      let s : State := advanceSt s x act rnd
      let s : State := s.mapCore x.g.pkg x.g.core (fun c => { c.setBad (staHalves x w t act) false with ashlar := staCells x w t act c.ashlar })
      .done (setTile s x e (fun t => if t.state = .empty then { t with state := .ready } else t))
def execSta (w : FmtA) (s : State) : Host.Outcome State Fault Refusal :=
  issueWith s (formSta (tileWide s w.a.toNat) w) (bodySta w)

end Sys2Proof.Machine
end

