-- ==== Sys2Proof/Machine/Flow.lean ====
section
/-! DEFINITION. Class 4: control transfers and splits (R199 to R208), regions (R209), traps and RTE (R210 to R214), and the system instructions (R216 to R218). -/

namespace Sys2Proof.Machine

open Sys2Proof

/-! ## Control transfers (R200, R201) -/

/-- The fall-through clause F of a split's clause. -/
def Split.fall (sp : Split) : Nat := sp.hdr + 8 * (sp.clause.length + 1)

/-- The values of a list once each, in the order of their first places. -/
def distinct (l : List Nat) : List Nat := l.foldl (fun acc d => if acc.contains d then acc else acc ++ [d]) []

/-- A new split of some lanes: it inherits what R201 names, holds no wait, and continues at d. -/
def Split.child (sp : Split) (id : Nat) (m : Mask) (d : Nat) : Split :=
  { sp.goTo d with id := id, lanes := m, mask := m, held := 0, free := false }

/-- The splits that a transfer makes, beside the issuing one: their lanes and destinations, with fresh numbers. -/
def newSplits (sp : Split) (dest : Nat → Nat) (n : Nat) : List Nat → List Split
  | [] => []
  | d :: t => sp.child n (Mask.ofPred (fun i => sp.mask.getLsbD i && dest i == d)) d :: newSplits sp dest (n + 1) t

/-- The issuing split as it stands now. -/
def splitNow (s : State) (x : Iss) : Split := ((s.group? x.g.id).bind (fun g => g.split? x.sp.id)).getD x.sp

/-- Place the splits of a transfer: S continues at d0 without the lanes sent elsewhere, the others start at theirs,
and each holds every access that S holds (R201). -/
def place (s : State) (x : Iss) (dest : Nat → Nat) (d0 : Nat) (others : List Nat) : State :=
  let news := newSplits (splitNow s x) dest x.g.nextSplit others
  let gone : Mask := news.foldl (fun m n => m ||| n.lanes) 0
  let s : State := s.mapSplit x.g.id x.sp.id (fun sp =>
    { sp.goTo d0 with lanes := sp.lanes &&& ~~~gone, mask := sp.mask &&& ~~~gone })
  let s : State := s.mapGroup x.g.id (fun g => { g with splits := g.splits ++ news, nextSplit := g.nextSplit + news.length })
  news.foldl (fun s n => shareHolders s x.g.id x.sp.id n.id) s

/-- Send each lane of the mask to its destination, after the instruction's own change of the group: SPLITOV
before any other effect, and no new split in a FENCES window (R155, R201). -/
def transferTo (s : State) (x : Iss) (act : Mask) (dest : Nat → Nat) (pre : State → State) : Res :=
  let land (i : Nat) : Nat := if act.getLsbD i then dest i else x.sp.fall
  match distinct (x.sp.mask.lanes.map land) with
  | [] => .done s
  | d0 :: others =>
    let n := x.g.splits.length + others.length
    if x.sp.window.isSome ∧ others ≠ [] then .stall
    else if 4 < n then .trap { cause := cSPLITOV, info := n }
    else .jump (place (pre s) x land d0 others)

/-- The form of a control transfer: A used or zero, DISP30 used or zero. -/
def formC (op : Nat) (w : FmtC) (useA useDisp : Bool) (bad : Bool) : Form :=
  { op := op
    bad := bad || w.mod != 0 || epBit w.ep 1 || epBit w.ep 2 || (!useDisp && w.disp != 0)
    g := w.g
    opds := [⟨1, w.a.toNat, if useA then .src 1 else .unused, epBit w.ep 0⟩]
    inWindow := true, transfer := true }

/-- h + 8 x (DISP30 + o), modulo 2^64. -/
def relTarget (x : Iss) (w : FmtC) (o : Int) : Nat := addr64 ((x.sp.hdr : Int) + 8 * (w.disp.toInt + o))

/-- The SI32 offset of a lane of BRX and CALLI. -/
def offsetOf (x : Iss) (w : FmtC) (i : Nat) : Int := (readWord x w.a.toNat i).toInt

/-- Push F on the return stack of each acting lane (R204); the region is dirty (R208). -/
def pushLinks (x : Iss) (act : Mask) (s : State) : State :=
  (markDirty s x).mapGroup x.g.id (fun g =>
    { g with retStacks := (List.range laneCount).map (fun i =>
        let st := g.retStacks.getD i []
        if act.getLsbD i then (x.sp.fall :: st).take 8 else st) })

/-- Pop the return stack of each acting lane (R205). -/
def popLinks (x : Iss) (act : Mask) (s : State) : State :=
  (markDirty s x).mapGroup x.g.id (fun g =>
    { g with retStacks := (List.range laneCount).map (fun i =>
        let st := g.retStacks.getD i []
        if act.getLsbD i then st.drop 1 else st) })

/-- A transfer that takes effect has read its sources and its guard: a quarantine entry that waits for one is lifted (R417),
and its region takes note of them (R135). -/
def transferReads (x : Iss) (f : Form) (s : State) : State :=
  (liftQuarantine s x.g (f.reads x.k)).mapSplit x.g.id x.sp.id (fun sp => sp.noteRegion (guardRegs f.g ++ f.reads x.k) [])

def formBra (w : FmtC) : Form := formC 0x100 w false true false
def bodyBra (w : FmtC) (x : Iss) (act : Mask) (s : State) : Res := transferTo s x act (fun _ => relTarget x w 0) (transferReads x (formBra w))
def execBra (w : FmtC) (s : State) : Host.Outcome State Fault Refusal := issueWith s (formBra w) (bodyBra w)

def formBrx (w : FmtC) : Form := formC 0x101 w true true false
def bodyBrx (w : FmtC) (x : Iss) (act : Mask) (s : State) : Res :=
  transferTo s x act (fun i => relTarget x w (offsetOf x w i)) (transferReads x (formBrx w))
def execBrx (w : FmtC) (s : State) : Host.Outcome State Fault Refusal := issueWith s (formBrx w) (bodyBrx w)

def formCall (w : FmtC) : Form := formC 0x103 w false true false
def bodyCall (w : FmtC) (x : Iss) (act : Mask) (s : State) : Res :=
  transferTo s x act (fun _ => relTarget x w 0) (fun s => pushLinks x act (transferReads x (formCall w) s))
def execCall (w : FmtC) (s : State) : Host.Outcome State Fault Refusal := issueWith s (formCall w) (bodyCall w)

def formCalli (w : FmtC) : Form := formC 0x104 w true true false
def bodyCalli (w : FmtC) (x : Iss) (act : Mask) (s : State) : Res :=
  transferTo s x act (fun i => relTarget x w (offsetOf x w i)) (fun s => pushLinks x act (transferReads x (formCalli w) s))
def execCalli (w : FmtC) (s : State) : Host.Outcome State Fault Refusal := issueWith s (formCalli w) (bodyCalli w)

def formRet (w : FmtC) : Form := formC 0x105 w false false false
def bodyRet (w : FmtC) (x : Iss) (act : Mask) (s : State) : Res :=
  match act.lanes.find? (fun i => (x.g.retStacks.getD i []).isEmpty) with
  | some i => .trap { cause := cRETUND, info := i }
  | none => transferTo s x act (fun i => (x.g.retStacks.getD i []).headD 0) (fun s => popLinks x act (transferReads x (formRet w) s))
def execRet (w : FmtC) (s : State) : Host.Outcome State Fault Refusal := issueWith s (formRet w) (bodyRet w)

/-! ## JMPT (R206) -/

/-- A negative DISP30 is ILLOP. -/
def formJmpt (w : FmtC) : Form := formC 0x102 w true true (w.disp.getLsbD 29)

/-- Byte offset of the table in the constant area. -/
def tableOff (w : FmtC) : Nat := 8 * w.disp.toNat

/-- A word of the constant area. -/
def constWord (s : State) (x : Iss) (off : Nat) : Got := readSpan s x.g.pkg x.g.ctx (addr64 (x.k.cbase + off)) 4

/-- The table's fetch met an unmapped page: the fetch is parked with its group, a record of KIND 8 waits to be
posted, and the JMPT re-issues whole. -/
def parkJump (s : State) (x : Iss) (act : Mask) (va home pch cause : Nat) : State :=
  let l : Load :=
    { id := s.nextId, gid := x.g.id, holders := [], ctx := x.g.ctx, pkg := x.g.pkg, core := x.g.core, use := .jump va
      width := 4, plain := true, acq := none, windowed := false, kind := 8
      lanes := [{ lane := act.lowest, va := va, parked := true }], mask := act, place := x.sp.at, gw := x.g.gidWord
      epoch := ctxEpoch s x.g.pkg x.g.ctx }
  let s : State := { s with loads := s.loads ++ [l], nextId := s.nextId + 1 }
  (faultRec s home x.g.ctx 8 cause false x.g.gidWord va pch 0).mapGroup x.g.id Group.park

/-- The poisoned table raises UNCORR (R24). -/
def uncorr (s : State) (x : Iss) (va : Nat) : State :=
  raiseCtxFault s x.g.pkg x.g.ctx { cause := 0x20, pkg := x.g.pkg, core := x.g.core, addr := va }

/-- One word of the table, or how its fetch ends the issue. -/
def tableWord (s : State) (x : Iss) (act : Mask) (w : FmtC) (off : Nat) (k : Nat → Res) : Res :=
  let va := addr64 (x.k.cbase + off)
  match constWord s x off with
  | .bytes bs poisoned => if poisoned then .jump (uncorr s x va) else k (leNat bs)
  | .fault h p c => .jump (parkJump s x act va h p c)
  | .unrouted => .trap { cause := cADDR, info := act.lowest, addr := tableOff w }

/-- The destinations of the acting lanes, read in lane order. -/
def tableDests (s : State) (x : Iss) (act : Mask) (w : FmtC) : List Nat → (List (Nat × Nat) → Res) → Res
  | [], k => k []
  | i :: t, k =>
    tableWord s x act w (tableOff w + 4 * ((readWord x w.a.toNat i).toNat + 1)) (fun d =>
      tableDests s x act w t (fun r => k ((i, 8 * d) :: r)))

/-- A table's fetch of the split waits for its page. -/
def jumpParked (s : State) (x : Iss) : Bool :=
  s.loads.any (fun l => l.gid == x.g.id && l.kind == 8 && l.lanes.any (fun a => a.parked && x.sp.lanes.getLsbD a.lane))

/-- The table's fetch has no way to its home, or was dropped there. -/
def tableWaits (s : State) (x : Iss) (va : Nat) : Bool := x.sp.fetchLost || !linked s x.g.pkg x.g.ctx va

/-- A fetch of the split meets another epoch at its home, which drops and counts it (R283). -/
def loseFetch (s : State) (x : Iss) (va : Nat) : State :=
  (dropPacket s (homeOf s x.g.pkg x.g.ctx va)).mapSplit x.g.id x.sp.id (fun sp => { sp with fetchLost := true })

/-- The issuing group's requests to an address meet another epoch at its home. -/
def fetchStale (s : State) (x : Iss) (va : Nat) : Bool := staleAt s x.g.pkg x.g.ctx (ctxEpoch s x.g.pkg x.g.ctx) va

def bodyJmpt (w : FmtC) (x : Iss) (act : Mask) (s : State) : Res :=
  let bad : Res := .trap { cause := cADDR, info := act.lowest, addr := tableOff w }
  if jumpParked s x then .stall
  else if x.k.csize < tableOff w + 4 then bad
  else if tableWaits s x (addr64 (x.k.cbase + tableOff w)) then .stall
  else if fetchStale s x (addr64 (x.k.cbase + tableOff w)) then .jump (loseFetch s x (addr64 (x.k.cbase + tableOff w)))
  else tableWord s x act w (tableOff w) (fun m =>
    if m = 0 ∨ 65535 < m ∨ x.k.csize < tableOff w + 4 * (m + 1) then bad
    else match act.lanes.find? (fun i => decide (m ≤ (readWord x w.a.toNat i).toNat)) with
      | some i => .trap { cause := cJTBOUND, info := i }
      | none => tableDests s x act w act.lanes (fun ds =>
          transferTo s x act (fun i => ((ds.find? (fun p => p.1 == i)).map (·.2)).getD 0) (transferReads x (formJmpt w))))
def execJmpt (w : FmtC) (s : State) : Host.Outcome State Fault Refusal := issueWith s (formJmpt w) (bodyJmpt w)

/-! ## Barriers settle when lanes leave (R339, R340, R342) -/

/-- The line of the level-lv node of a lane is seen raised: its own, or that of a node that contains it (R345). -/
def seenRaised (k : Inst) (rank lane lv : Nat) : Bool :=
  (List.range (treeL k.levels)).any (fun j => decide (lv ≤ j) && abortRaised k rank lane j)

/-- A lane of the level-k node of a group. -/
def laneInNode (k : Inst) (rank lv node : Nat) : Nat :=
  if lv < treeG k.levels then node * laneSize k.levels lv - rank * laneCount else 0

/-- The rank of a group that lies in a level-k node, for a node below the GROUP level its own group. -/
def rankInNode (k : Inst) (lv node : Nat) : Nat :=
  if lv < treeG k.levels then node * laneSize k.levels lv / laneCount else node * groupSize k.levels lv

/-- Active lanes of a group. -/
def activeLanes (g : Group) : Mask := g.splits.foldl (fun m sp => m ||| sp.mask) 0

/-- How many BAR and BARA at a level above g a lane has issued. -/
def Group.barCount (g : Group) (lv i : Nat) : Nat :=
  match g.bars.find? (fun b => b.1 == lv) with
  | some (_, l) => l.getD i 0
  | none => 0

/-- The lanes of a mask issue one more BAR or BARA at a level. -/
def Group.countBar (g : Group) (lv : Nat) (m : Mask) : Group :=
  { g with bars := (lv, (List.range laneCount).map (fun i => g.barCount lv i + if m.getLsbD i then 1 else 0)) :: g.bars.filter (fun b => b.1 != lv) }

/-- Phases of a level at which a group has arrived, as last settled. -/
def Group.arrivedAt (g : Group) (lv : Nat) : Nat :=
  match g.arrived.find? (fun a => a.1 == lv) with
  | some (_, n) => n
  | none => 0

/-- Phases of a level at which a group has arrived: its n-th once every split whose mask is not empty has issued its
n-th BAR or BARA there, and for good (R339). -/
def groupArrivals (g : Group) (lv : Nat) : Nat :=
  match (activeLanes g).lanes.map (g.barCount lv) with
  | [] => g.arrivedAt lv
  | n :: t => max (g.arrivedAt lv) (t.foldl min n)

/-- The groups of an instance that lie in a level-lv node above the GROUP level. -/
def nodeGroups (s : State) (k : Inst) (lv node : Nat) : List Group :=
  s.groups.filter (fun g => g.inst == k.id && g.rank / groupSize k.levels lv == node)

/-- The groups of some that a barrier above the GROUP level does not wait for: every split of theirs has an empty mask
(R339). -/
def emptyMasked (gs : List Group) : List Nat := (gs.filter (fun g => activeLanes g == 0)).map (·.rank)

/-- Every member of a node has arrived, some one at least; the rest have departed, or have no active lane. -/
def phaseFull (s : State) (k : Inst) (b : NodeBarrier) : Bool :=
  if b.level ≤ treeG k.levels then
    match s.groups.find? (fun g => g.inst == k.id && g.rank == rankInNode k b.level b.node) with
    | some g =>
      b.lanes != 0 && (activeLanes g &&& Mask.ofPred (fun i => nodeIndex k.levels g.rank i b.level == b.node) &&& ~~~b.lanes) == 0
    | none => false
  else
    let gs := nodeGroups s k b.level b.node
    let ar := (gs.filter (fun g => decide (b.phase < groupArrivals g b.level))).map (·.rank)
    let mem := (List.range (groupSize k.levels b.level)).map (b.node * groupSize k.levels b.level + ·)
    !ar.isEmpty && mem.all (fun r => ar.contains r || k.departed.contains r || (emptyMasked gs).contains r)

/-- A node barrier, at its next phase where this one is full; an ABORTED one completes no phase. -/
def settleOne (s : State) (k : Inst) (b : NodeBarrier) : NodeBarrier :=
  let r := rankInNode k b.level b.node
  if seenRaised k r (laneInNode k r b.level b.node) b.level then b
  else if phaseFull s k b then { level := b.level, node := b.node, phase := b.phase + 1 }
  else b

/-- A group keeps the arrivals it has made, whatever its masks become. -/
def Group.keepArrivals (g : Group) : Group := { g with arrived := g.bars.map (fun b => (b.1, groupArrivals g b.1)) }

/-- Let every node barrier of an instance take the arrivals and departures made so far (R339, R340, R342). -/
def settleBarriers (s : State) (iid : Nat) : State :=
  match s.inst? iid with
  | none => s
  | some k =>
    let s' : State := s.mapInst iid (fun i => { i with barriers := i.barriers.map (settleOne s k) })
    { s' with groups := s'.groups.map (fun g => if g.inst = iid then g.keepArrivals else g) }

/-! ## EXIT (R207) -/

def formExit (w : FmtC) : Form := { formC 0x106 w false false false with inWindow := false }

/-- The group's last lane has left: its batch is committed, it departs from its barriers, and it waits for its
children if it has any (R251, R316, R340). -/
def lastLaneLeft (s : State) (x : Iss) : State :=
  let s : State := commitOpen s x.g.id
  let s : State := s.mapInst x.g.inst (fun k => { k with departed := x.g.rank :: k.departed })
  let s : State := settleBarriers s x.g.inst
  s.mapGroup x.g.id (fun g => if g.kids = 0 ∨ g.state ≠ .active then g else { g with state := .kidwait })

/-- EXIT.  A clause that asks to yield has ended with its split: what is left of the group yields for it (R84). -/
def bodyExit (w : FmtC) (x : Iss) (act : Mask) (s : State) : Res :=
  let s : State := s.mapGroup x.g.id (fun g =>
    { g with retStacks := (List.range laneCount).map (fun i => if act.getLsbD i then [] else g.retStacks.getD i []) })
  let rest := x.sp.lanes &&& ~~~act
  if rest = 0 then
    let s : State := s.mapGroup x.g.id (fun g => 
      { g with splits := (g.splits.filter (fun sp => sp.id != x.sp.id)).map (fun sp => { sp with yld := sp.yld || x.sp.yld }) })
    .jump (if x.g.splits.length = 1 then lastLaneLeft s x else settleBarriers s x.g.inst)
  else
    let s : State := s.mapSplit x.g.id x.sp.id (fun sp =>
      { (sp.noteRegion (guardRegs w.g) []).goTo x.sp.fall with lanes := rest, mask := sp.mask &&& ~~~act })
    .jump (settleBarriers s x.g.inst)
def execExit (w : FmtC) (s : State) : Host.Outcome State Fault Refusal := issueWith s (formExit w) (bodyExit w)

/-! ## RTE (R213) -/

def formRte (w : FmtC) : Form := { formC 0x107 w false false (w.g != 0) with inWindow := false }

/-- Where a split goes on after its handler: at the clause header that SR.TPC names where it was changed, and
else at the trapped word or after it, as SKIP says. -/
def Split.leaveHandler (sp : Split) : Split :=
  let out : Split := { sp with tcause := sp.tcause &&& ~~~(0x200 : Word) }
  if sp.tpc ≠ sp.tpcEntry then out.goTo sp.tpc.toNat
  else if sp.skip then
    if sp.tpcHeader then { out.goTo sp.trapHdr with resume := some 0 }
    else if sp.trapIdx + 1 < sp.trapLen then { out.goTo sp.trapHdr with resume := some (sp.trapIdx + 1) }
    else out.goTo (sp.trapHdr + 8 * (sp.trapLen + 1))
  else if sp.tpcHeader then out.goTo sp.trapHdr
  else { out.goTo sp.trapHdr with resume := some sp.trapIdx }

def bodyRte (w : FmtC) (x : Iss) (_ : Mask) (s : State) : Res :=
  if x.sp.inHandler then .jump (s.mapSplit x.g.id x.sp.id Split.leaveHandler)
  else .trap (formRte w).trapIllop
def execRte (w : FmtC) (s : State) : Host.Outcome State Fault Refusal := issueWith s (formRte w) (bodyRte w)

/-! ## RGN and TRAP (R209, R214) -/

/-- A system instruction of format I. -/
def formSysI (op : Nat) (w : FmtI) (bad : Bool) (d a : Role) : Form :=
  { op := op, bad := bad || w.mod != 0 || epBit w.ep 1 || epBit w.ep 2, g := w.g, opds := opdsI w d a, once := true }

def formRgn (w : FmtI) : Form := formSysI 0x108 w (w.g != 0) .unused .unused

/-- RGN records its clause header, the generator state, the mask and the entry's live-ins, and marks the split
clean; an entry that the image does not have is ILLOP, at step 6 of R97 (log entry 142). -/
def bodyRgn (w : FmtI) (x : Iss) (_ : Mask) (s : State) : Res :=
  match x.k.regions[w.imm.toNat]? with
  | none => .trap (formRgn w).trapIllop
  | some live =>
    let r : Region := { hdr := x.sp.hdr, st := x.sp.st, mask := x.sp.mask, live := live, clean := true }
    .done (s.mapSplit x.g.id x.sp.id (fun sp => { sp with region := some r }))
def execRgn (w : FmtI) (s : State) : Host.Outcome State Fault Refusal := issueWith s (formRgn w) (bodyRgn w)

def formTrap (w : FmtI) : Form := formSysI 0x109 w false .unused .unused
def bodyTrap (w : FmtI) (_ : Iss) (_ : Mask) (_ : State) : Res := .trap { cause := cTRAPI, info := w.imm.toNat }
def execTrap (w : FmtI) (s : State) : Host.Outcome State Fault Refusal := issueWith s (formTrap w) (bodyTrap w)

/-! ## NOP, WAITT, YIELD, CLK (R216) -/

/-- A system instruction of format A: every field that the table of R216 does not name is zero, the guard among them. -/
def formSysA (op : Nat) (w : FmtA) (bad : Bool) (d a b c : Role) : Form :=
  { op := op, bad := bad || w.g != 0, g := w.g, opds := opdsA w d a b c, once := true }

/-- Any nonzero field in a NOP is ILLOP (R105). -/
def formNop (w : FmtA) : Form :=
  { formSysA 0x110 w (w.mod != 0) .unused .unused .unused .unused with inWindow := true }
def bodyNop (_ : Iss) (_ : Mask) (s : State) : Res := .done s
def execNop (w : FmtA) (s : State) : Host.Outcome State Fault Refusal := issueWith s (formNop w) bodyNop

/-- Wait in place until a tick, which the split keeps from its first issue; the source has been read then (R417). -/
def waitUntil (f : Form) (x : Iss) (t : Nat) (s : State) : Res :=
  let target := x.sp.waitt.getD t
  if target ≤ nowOf s x.g then .done s
  else .blockIn ((liftQuarantine s x.g (f.reads x.k)).mapSplit x.g.id x.sp.id (fun sp => { sp with waitt := some target })) .waitt

def formWaitt (w : FmtA) : Form := formSysA 0x111 w (w.mod != 0) .unused (.srcScal 2) .unused .unused
def bodyWaitt (w : FmtA) (x : Iss) (_ : Mask) (s : State) : Res := waitUntil (formWaitt w) x (readPair x w.a.toNat 0) s
def execWaitt (w : FmtA) (s : State) : Host.Outcome State Fault Refusal := issueWith s (formWaitt w) (bodyWaitt w)

def formWaittD (w : FmtA) : Form := formSysA 0x111 w (w.mod != 1) .unused (.srcScal 1) .unused .unused
def bodyWaittD (w : FmtA) (x : Iss) (_ : Mask) (s : State) : Res :=
  waitUntil (formWaittD w) x (nowOf s x.g + (readWord x w.a.toNat 0).toNat) s
def execWaittD (w : FmtA) (s : State) : Host.Outcome State Fault Refusal := issueWith s (formWaittD w) (bodyWaittD w)

def formYield (w : FmtA) : Form := formSysA 0x112 w (w.mod != 0) .unused .unused .unused .unused
def bodyYield (x : Iss) (_ : Mask) (s : State) : Res :=
  .done (s.mapSplit x.g.id x.sp.id (fun sp => { sp with yld := true }))
def execYield (w : FmtA) (s : State) : Host.Outcome State Fault Refusal := issueWith s (formYield w) bodyYield

/-- The field's count of arithmetic cycles since its last power-up. -/
def cyclesOf (s : State) (g : Group) : Nat := fieldCycles s g.pkg (fieldOf g.core)

/-- CLK writes 64 bits once per split. -/
def formClk (w : FmtA) (md : BitVec 8) : Form :=
  { formSysA 0x11A w (w.mod != md) (.dstScal 2) .unused .unused .unused with inWindow := true }
def bodyClk (w : FmtA) (v : State → Group → Nat) (x : Iss) (act : Mask) (s : State) : Res :=
  .done (putWords s x.g.id x.sp.id w.d.toNat act act.lowest (fun _ => v s x.g) 2)

def formClkTb (w : FmtA) : Form := formClk w 0
def execClkTb (w : FmtA) (s : State) : Host.Outcome State Fault Refusal := issueWith s (formClkTb w) (bodyClk w nowOf)
def formClkCyc (w : FmtA) : Form := formClk w 1
def execClkCyc (w : FmtA) (s : State) : Host.Outcome State Fault Refusal := issueWith s (formClkCyc w) (bodyClk w cyclesOf)

/-! ## SRD and SWR (R217, R218) -/

/-- The numbers of R218. -/
def srAssigned (n : Nat) : Bool :=
  [0x000, 0x001, 0x002, 0x010, 0x011, 0x012, 0x013, 0x014, 0x020, 0x021, 0x022, 0x030, 0x031, 0x032, 0x033, 0x038, 0x039,
    0x03A, 0x040, 0x041, 0x042, 0x043, 0x050].contains n || (decide (0x018 ≤ n) && decide (n ≤ 0x01F))

/-- The writable numbers. -/
def srWritable (n : Nat) : Bool := [0x010, 0x011, 0x013, 0x030, 0x031].contains n

/-- SR.CORE of a package core index (R20, R22). -/
def srCore (core : Nat) : Word :=
  BitVec.ofNat 32 (core % 4 + 2 ^ 2 * (core % 112 / 4) + 2 ^ 7 * (core / 112) + 2 ^ 10 * core)

/-- Least and greatest of a list of depths. -/
def minList (l : List Nat) : Nat := match l with | [] => 0 | a :: t => t.foldl min a
def maxList (l : List Nat) : Nat := l.foldl max 0

/-- SR.RSDEPTH (R218). -/
def srRsdepth (x : Iss) : Word :=
  let ds := x.sp.lanes.lanes.map (fun i => (x.g.retStacks.getD i []).length)
  BitVec.ofNat 32 (maxList ds + 16 * minList ds)

/-- SR.CTMAX: what remains of CTMAX, saturated (R149). -/
def srCtmax (s : State) (x : Iss) : Word := BitVec.ofNat 32 (min (x.sp.ctmax - nowOf s x.g) (2 ^ 32 - 1))

/-- The field register f of the issuing group's field. -/
def srField (s : State) (x : Iss) (f : Field → Word) : Word :=
  match s.pkg? x.g.pkg with
  | some p => f (p.fields.getD (fieldOf x.g.core) { })
  | none => 0

/-- SR.FLDHEAD (R428). -/
def srFldhead (f : Field) : Word := BitVec.ofNat 32 (f.head % 2 ^ 13 + 2 ^ 13 * (f.grant % 2 ^ 13) + 2 ^ 26 * f.thr)

/-- SR.POOL (R122). -/
def srPool (s : State) (x : Iss) : Word :=
  match s.core? x.g.pkg x.g.core with
  | some c => BitVec.ofNat 32 (c.regend + 2 ^ 10 * c.ashend + 2 ^ 20 * 512)
  | none => 0

/-- SR.LEASEMAX (R146) and SR.CTXID (R270) come from the context. -/
def srCtx (s : State) (x : Iss) (f : Ctx → Word) : Word :=
  match s.ctx? x.g.pkg x.g.ctx with
  | some c => f c
  | none => 0

def srCtxid (c : Ctx) : Word := BitVec.ofNat 32 (c.num + 2 ^ 11 * c.pkg + 2 ^ 18 * c.spidx + 2 ^ 25 * c.spanm1)

/-- What SRD reads. -/
def srRead (s : State) (x : Iss) (n : Nat) : Word :=
  match n with
  | 0x000 => srCore x.g.core
  | 0x001 => srField s x (fun f => f.qmap)
  | 0x002 => srField s x srFldhead
  | 0x010 => x.g.waitlim
  | 0x011 => x.g.tbase
  | 0x012 => x.k.seed
  | 0x013 => x.sp.st
  | 0x014 => srPool s x
  | 0x020 => srCtx s x (fun c => BitVec.ofNat 32 c.lease)
  | 0x021 => srCtmax s x
  | 0x022 => srRsdepth x
  | 0x030 => x.sp.tcause
  | 0x031 => x.sp.tpc
  | 0x032 => x.sp.taddr.extractLsb' 0 32
  | 0x033 => x.sp.taddr.extractLsb' 32 32
  | 0x038 => BitVec.ofNat 32 x.k.cbase
  | 0x039 => BitVec.ofNat 32 (x.k.cbase / 2 ^ 32)
  | 0x03A => BitVec.ofNat 32 x.k.csize
  | 0x040 => x.g.rfault.extractLsb' 0 32
  | 0x041 => x.g.rfault.extractLsb' 32 32
  | 0x042 => x.g.rfault.extractLsb' 64 32
  | 0x043 => x.g.rfault.extractLsb' 96 32
  | 0x050 => srCtx s x srCtxid
  | _ => if 0x018 ≤ n ∧ n ≤ 0x01F then viewWord x.k (768 + (n - 0x018)) else 0

/-- An unassigned number, or IMM20[19:8] not zero, is ILLOP.  That is at step 2 of R97 (log entry 142). -/
def formSrd (w : FmtI) : Form :=
  { formSysI 0x118 w (!srAssigned w.imm.toNat) (.dstScal 1) .unused with inWindow := true }
def bodySrd (w : FmtI) (x : Iss) (act : Mask) (s : State) : Res :=
  .done (putWord s x.g.id x.sp.id w.d.toNat act act.lowest (fun _ => srRead s x w.imm.toNat))
def execSrd (w : FmtI) (s : State) : Host.Outcome State Fault Refusal := issueWith s (formSrd w) (bodySrd w)

def formSwr (w : FmtI) : Form :=
  formSysI 0x119 w (!srWritable w.imm.toNat) .unused (.srcScal 1)

/-- What SWR does: reserved bits are ignored, a zero to SR.RNDST stores 1, and SR.TCAUSE and SR.TPC belong to the
handler (R62, R121, R127, R211, R212). -/
def bodySwr (w : FmtI) (x : Iss) (_ : Mask) (s : State) : Res :=
  let v := readWord x w.a.toNat 0
  let s' := markDirty s x
  match w.imm.toNat with
  | 0x010 => .done (s'.mapGroup x.g.id (fun g => { g with waitlim := v &&& 0x3F }))
  | 0x011 => .done (s'.mapGroup x.g.id (fun g => { g with tbase := v &&& 0x1F }))
  | 0x013 => .done (s'.mapSplit x.g.id x.sp.id (fun sp => { sp with st := if v = 0 then 1 else v }))
  | 0x030 =>
    if x.sp.inHandler then
      .done (s'.mapSplit x.g.id x.sp.id (fun sp => { sp with tcause := (sp.tcause &&& ~~~(0x100 : Word)) ||| (v &&& 0x100) }))
    else .trap (formSwr w).trapIllop
  | _ =>
    if x.sp.inHandler then .done (s'.mapSplit x.g.id x.sp.id (fun sp => { sp with tpc := v }))
    else .trap (formSwr w).trapIllop
def execSwr (w : FmtI) (s : State) : Host.Outcome State Fault Refusal := issueWith s (formSwr w) (bodySwr w)

end Sys2Proof.Machine
end

