-- ==== Sys2Proof/Machine/Barrier.lean ====
section
/-! DEFINITION. Class 6, barriers: node barriers (R339 to R344), abort lines (R43, R345, R346) and async barrier objects (R347 to R350). -/

namespace Sys2Proof.Machine

open Sys2Proof

/-! ## Node barriers (R339, R342) -/

/-- The level-lv nodes of the lanes of a mask. -/
def nodesOf (x : Iss) (lv : Nat) (m : Mask) : List Nat :=
  if lv < treeG x.k.levels then distinct (m.lanes.map (fun i => nodeIndex x.k.levels x.g.rank i lv))
  else [nodeIndex x.k.levels x.g.rank 0 lv]

/-- The node barrier of a node, in phase 0 where nothing has been recorded of it. -/
def barrierOf (k : Inst) (lv node : Nat) : NodeBarrier :=
  (k.barriers.find? (fun b => b.level == lv && b.node == node)).getD { level := lv, node := node }

/-- Record the node barriers of some nodes. -/
def ensureBarriers (s : State) (iid lv : Nat) (nodes : List Nat) : State :=
  s.mapInst iid (fun k =>
    { k with barriers := nodes.foldl (fun bs n =>
        if bs.any (fun b => b.level == lv && b.node == n) then bs else bs ++ [{ level := lv, node := n }]) k.barriers })

/-- The phase of a node's barrier. -/
def phaseOf (s : State) (iid lv node : Nat) : Nat :=
  match s.inst? iid with
  | some k => (barrierOf k lv node).phase
  | none => 0

/-- The barrier is ABORTED: its node's line is seen raised (R342, R345). -/
def nodeAborted (s : State) (iid lv node : Nat) : Bool :=
  match s.inst? iid with
  | some k => let r := rankInNode k lv node; seenRaised k r (laneInNode k r lv node) lv
  | none => false

/-- The lanes of a group's split that lie in a node. -/
def lanesIn (x : Iss) (lv node : Nat) (m : Mask) : Mask :=
  Mask.ofPred (fun i => m.getLsbD i && nodeIndex x.k.levels x.g.rank i lv == node)

/-- Enter the arrival of the issuing split at a node: lanes at or below the GROUP level, and one more BAR or BARA of its
lanes above it.  An ABORTED node counts no arrival. -/
def arriveAt (s : State) (x : Iss) (lv node : Nat) : State :=
  if nodeAborted s x.g.inst lv node then s
  else if lv ≤ treeG x.k.levels then
    s.mapInst x.g.inst (fun k =>
      { k with barriers := k.barriers.map (fun b =>
          if b.level = lv ∧ b.node = node then { b with lanes := b.lanes ||| lanesIn x lv node x.sp.mask } else b) })
  else s.mapGroup x.g.id (fun g => g.countBar lv x.sp.lanes)

/-- The phase that the issuing split's arrival at a node joins: above the GROUP level its n-th BAR or BARA joins phase
n - 1, and the phases of an ABORTED node do not go on (R339, R342). -/
def joinedPhase (s : State) (x : Iss) (lv node : Nat) : Nat :=
  if lv ≤ treeG x.k.levels ∨ nodeAborted s x.g.inst lv node = true then phaseOf s x.g.inst lv node
  else x.g.barCount lv x.sp.mask.lowest

/-- Arrive at every node of the split's active lanes: the phases joined. -/
def arrive (s : State) (x : Iss) (lv : Nat) : State × List (Nat × Nat) :=
  let nodes := nodesOf x lv x.sp.mask
  let s : State := settleBarriers (ensureBarriers s x.g.inst lv nodes) x.g.inst
  let joined := nodes.map (fun n => (n, joinedPhase s x lv n))
  (settleBarriers (nodes.foldl (fun s n => arriveAt s x lv n) s) x.g.inst, joined)

/-- How a wait on some nodes' phases stands: 0 completed, 1 aborted, none while it goes on. -/
def nodeStatus (s : State) (iid lv : Nat) (waits : List (Nat × Nat)) : Option Nat :=
  let pend := waits.filter (fun w => decide (phaseOf s iid lv w.1 ≤ w.2))
  if pend.isEmpty then some 0
  else if pend.any (fun w => nodeAborted s iid lv w.1) then some 1
  else none

/-- The arrival mark of a lane at a level (R344). -/
def markOf (g : Group) (lane lv : Nat) : Option Nat :=
  (g.marks.find? (fun m => m.1 == lane && m.2.1 == lv)).map (·.2.2)

/-- Clear the marks of some lanes at a level. -/
def clearMarks (s : State) (gid lv : Nat) (m : Mask) : State :=
  s.mapGroup gid (fun g => { g with marks := g.marks.filter (fun x => !(x.2.1 == lv && m.getLsbD x.1)) })

/-- Set the marks of the active lanes, each with the phase its node's arrival joined. -/
def setMarks (s : State) (x : Iss) (lv : Nat) (joined : List (Nat × Nat)) : State :=
  (clearMarks s x.g.id lv x.sp.mask).mapGroup x.g.id (fun g =>
    { g with marks := g.marks ++ x.sp.mask.lanes.map (fun i =>
        (i, lv, ((joined.find? (fun j => j.1 == nodeIndex x.k.levels x.g.rank i lv)).map (·.2)).getD 0)) })

/-- The instruction stands last in its clause: its wait is taken at the boundary that follows (R320). -/
def Split.lastInClause (sp : Split) : Bool := sp.idx + 1 == sp.clause.length

/-- Write a status scalar, where the instruction has one. -/
def putStatus (s : State) (gid spid : Nat) (d : Option Nat) (v : Nat) : State :=
  match d with
  | some n => putWord s gid spid n 0 0 (fun _ => BitVec.ofNat 32 v)
  | none => s

/-- The wait is over: its status is written, its marks are cleared, and it acquires at its level (R343). -/
def endNodeWait (s : State) (x : Iss) (lv st : Nat) (d : Option Nat) : State :=
  acquireAt (clearMarks (putStatus s x.g.id x.sp.id d st) x.g.id lv x.sp.mask) x lv

/-- Wait for phases in place or at the boundary. -/
def waitNodes (s : State) (x : Iss) (lv : Nat) (waits : List (Nat × Nat)) (d : Option Nat) : Res :=
  let s := settleBarriers s x.g.inst
  match nodeStatus s x.g.inst lv waits with
  | some st => .done (endNodeWait s x lv st d)
  | none =>
    let bw : BarWait := .node lv waits d x.sp.hdr x.sp.idx x.sp.clause.length
    let s : State := s.mapSplit x.g.id x.sp.id (fun sp => { sp with bar := some bw })
    if x.sp.lastInClause then .done s else .blockIn s .barrier

/-! ## BAR, BARA, BARW (R343, R344) -/

/-- The form of a barrier instruction: A, B, ID, EP and MOD[7:1] zero, D where MOD[0] is 1. -/
def formBarrier (op : Nat) (w : FmtS) (stat : Bool) : Form :=
  { op := op, bad := w.id != 0 || w.ep != 0 || decide (2 ≤ w.mod.toNat) || (!stat && w.mod != 0), g := w.g
    opds := opdsS w (if w.mod = 1 ∧ stat = true then .dstScal60 1 else .unused) .unused .unused, once := true }

/-- The scalar a status goes to. -/
def statusReg (w : FmtS) : Option Nat := if w.mod.getLsbD 0 then some w.d.toNat else none

def formBar (w : FmtS) : Form := formBarrier 0x180 w true

/-- BAR arrives once, at its first issue, and then waits. -/
def bodyBar (w : FmtS) (x : Iss) (_ : Mask) (s : State) : Res :=
  let lv := levelOf x.k.levels w.level.toNat
  match x.sp.bar with
  | some (.node l waits d _ _ _) => waitNodes s x l waits d
  | _ =>
    if fenceReady s x w.level.toNat then
      let (s, joined) := arrive (markDirty s x) x lv
      waitNodes (setMarks s x lv joined) x lv joined (statusReg w)
    else .block .fence
def execBar (w : FmtS) (s : State) : Host.Outcome State Fault Refusal := issueWith s (formBar w) (bodyBar w)

def formBara (w : FmtS) : Form := formBarrier 0x181 w false

def bodyBara (w : FmtS) (x : Iss) (_ : Mask) (s : State) : Res :=
  let lv := levelOf x.k.levels w.level.toNat
  if x.sp.mask.lanes.any (fun i => (markOf x.g i lv).isSome) then .trap (formBara w).trapIllop
  else if fenceReady s x w.level.toNat then
    let (s, joined) := arrive (markDirty s x) x lv
    .done (setMarks s x lv joined)
  else .block .fence
def execBara (w : FmtS) (s : State) : Host.Outcome State Fault Refusal := issueWith s (formBara w) (bodyBara w)

def formBarw (w : FmtS) : Form := formBarrier 0x182 w true

/-- The latest phase that the marks of the active lanes record, per node. -/
def markedPhases (x : Iss) (lv : Nat) : List (Nat × Nat) :=
  (nodesOf x lv x.sp.mask).map (fun n =>
    (n, maxList ((x.sp.mask.lanes.filter (fun i => nodeIndex x.k.levels x.g.rank i lv == n)).filterMap (fun i => markOf x.g i lv))))

/-- BARW waits for the phases its marks record; on an ABORTED node it completes at once with status 1. -/
def bodyBarw (w : FmtS) (x : Iss) (_ : Mask) (s : State) : Res :=
  let lv := levelOf x.k.levels w.level.toNat
  match x.sp.bar with
  | some (.node l waits d _ _ _) => waitNodes s x l waits d
  | _ =>
    if x.sp.mask.lanes.any (fun i => (markOf x.g i lv).isNone) then .trap (formBarw w).trapIllop
    else
      let waits := markedPhases x lv
      let s := settleBarriers (markDirty s x) x.g.inst
      if waits.any (fun p => nodeAborted s x.g.inst lv p.1) then .done (endNodeWait s x lv 1 (statusReg w))
      else waitNodes s x lv waits (statusReg w)
def execBarw (w : FmtS) (s : State) : Host.Outcome State Fault Refusal := issueWith s (formBarw w) (bodyBarw w)

/-! ## Abort lines (R43, R345, R346) -/

/-- The line that an async object's owner sees: its node's, or its group's. -/
def objSees (k : Inst) (o : AsyncObj) : Bool :=
  let r := if o.nodeOwned then rankInNode k o.level o.owner else o.owner
  seenRaised k r 0 (max o.level (treeG k.levels))

/-- Objects whose owner sees its line raised become ABORTED. -/
def abortObjs (s : State) (iid : Nat) : State :=
  match s.inst? iid with
  | none => s
  | some k =>
    s.mapCores (fun c =>
      if c.inst = iid then
        { c with objs := c.objs.map (fun o => if o.active && objSees k o then { o with abtd := true } else o) }
      else c)

/-- A group lies in a node at or above the GROUP level. -/
def groupInNode (k : Inst) (g : Group) (lv node : Nat) : Bool :=
  decide (treeG k.levels ≤ lv) && nodeIndex k.levels g.rank 0 lv == node

/-- An instance that has not completed. -/
def Inst.unretired (k : Inst) : Bool := k.state != .complete && k.state != .refused

/-- Raise the line of one node, and the root line of every unretired child grid launched by a group of it, and so
on down (R43); a child not verified yet starts with its line raised. -/
def raiseLine (s : State) (iid lv node : Nat) : Nat → State
  | 0 => s
  | fuel + 1 =>
    match s.inst? iid with
    | none => s
    | some k =>
      if k.abort.contains (lv, node) then s
      else
        let s : State := abortObjs (s.mapInst iid (fun k => { k with abort := (lv, node) :: k.abort })) iid
        let gids := (s.groups.filter (fun g => g.inst == iid && groupInNode k g lv node)).map (·.id)
        (s.insts.filter (fun c => c.unretired && match c.launcher with | .group gid _ _ => gids.contains gid | _ => false)).foldl
          (fun s c =>
            if c.levels.isEmpty then s.mapInst c.id (fun c => { c with abortAtStart := true })
            else raiseLine s c.id (treeL c.levels - 1) 0 fuel) s

/-- LEVEL 15 and any other nonzero field are ILLOP. -/
def formAbortOp (op : Nat) (w : FmtS) (d : Role) : Form :=
  { op := op, bad := w.level == 15 || w.id != 0 || w.ep != 0 || w.mod != 0, g := w.g, opds := opdsS w d .unused .unused, once := true }

def formAbort (w : FmtS) : Form := formAbortOp 0x188 w .unused
def bodyAbort (w : FmtS) (x : Iss) (act : Mask) (s : State) : Res :=
  let lv := levelOf x.k.levels w.level.toNat
  .done ((nodesOf x lv act).foldl (fun s n => raiseLine s x.g.inst lv n 12) (markDirty s x))
def execAbort (w : FmtS) (s : State) : Host.Outcome State Fault Refusal := issueWith s (formAbort w) (bodyAbort w)

def formAbchk (w : FmtS) : Form := formAbortOp 0x189 w (.dstScal60 1)
def bodyAbchk (w : FmtS) (x : Iss) (act : Mask) (s : State) : Res :=
  let lv := levelOf x.k.levels w.level.toNat
  let seen := act.lanes.any (fun i => seenRaised x.k x.g.rank i lv)
  .done (putWord s x.g.id x.sp.id w.d.toNat act act.lowest (fun _ => if seen then 1 else 0))
def execAbchk (w : FmtS) (s : State) : Host.Outcome State Fault Refusal := issueWith s (formAbchk w) (bodyAbchk w)

/-! ## Async barrier objects (R347 to R350) -/

/-- Object id of the issuing core. -/
def objOf (s : State) (x : Iss) (id : Nat) : AsyncObj :=
  match s.core? x.g.pkg x.g.core with
  | some c => c.objs.getD id { }
  | none => { }

def setObj (s : State) (x : Iss) (id : Nat) (o : AsyncObj) : State :=
  s.mapCore x.g.pkg x.g.core (fun c => { c with objs := setAt c.objs id o })

/-- A group is of an object's owner. -/
def ownsObj (k : Inst) (rank : Nat) (o : AsyncObj) : Bool :=
  o.active && !o.dying && (if o.nodeOwned then nodeIndex k.levels rank 0 o.level == o.owner else rank == o.owner)

/-- arrive() of R348. -/
def AsyncObj.arrive (o : AsyncObj) : AsyncObj :=
  if o.abtd then o
  else if o.count + 1 = o.expect then { o with count := 0, phase := !o.phase }
  else { o with count := o.count + 1 }

/-- The object with the abort line its owner sees. -/
def seenObj (x : Iss) (o : AsyncObj) : AsyncObj := if o.active && objSees x.k o then { o with abtd := true } else o

/-- The form of an async barrier instruction. -/
def formAsync (op : Nat) (w : FmtS) (stat useA useLevel : Bool) : Form :=
  { op := op
    bad := decide (2 ≤ w.mod.toNat) || (!stat && w.mod != 0) || epBit w.ep 2 || (!useLevel && w.level != 0)
    g := w.g
    opds := opdsS w (if w.mod = 1 ∧ stat = true then .dstScal60 1 else .unused) (if useA then .srcScal 1 else .unused) .unused
    once := true }

def formAbinit (w : FmtS) : Form := formAsync 0x184 w false true true

/-- ABINIT: a wider binding than CORE, EXPECT 0 or above 65,535, or an object in use by another is ILLOP. -/
def bodyAbinit (w : FmtS) (x : Iss) (_ : Mask) (s : State) : Res :=
  let lv := levelOf x.k.levels w.level.toNat
  let a := (readWord x w.a.toNat 0).toNat
  let o := objOf s x w.id.toNat
  if 2 < bindOf x.k.levels w.level.toNat ∨ a = 0 ∨ 65535 < a
      ∨ (o.active = true ∧ (ownsObj x.k x.g.rank o = false ∨ o.count ≠ 0 ∨ o.eng ≠ 0)) then
    .trap (formAbinit w).trapIllop
  else
    let node := decide (treeG x.k.levels < lv)
    let o : AsyncObj :=
      { active := true, nodeOwned := node, level := lv, expect := a
        owner := if node then nodeIndex x.k.levels x.g.rank 0 lv else x.g.rank }
    .done (setObj (markDirty s x) x w.id.toNat o)
def execAbinit (w : FmtS) (s : State) : Host.Outcome State Fault Refusal := issueWith s (formAbinit w) (bodyAbinit w)

def formAbarr (w : FmtS) : Form := formAsync 0x185 w true false false

def bodyAbarr (w : FmtS) (x : Iss) (_ : Mask) (s : State) : Res :=
  let o := seenObj x (objOf s x w.id.toNat)
  if ownsObj x.k x.g.rank o then
    if fenceReady s x o.level then
      .done (setObj (putStatus (markDirty s x) x.g.id x.sp.id (statusReg w) (if o.phase then 1 else 0)) x w.id.toNat o.arrive)
    else .block .fence
  else .trap (formAbarr w).trapIllop
def execAbarr (w : FmtS) (s : State) : Host.Outcome State Fault Refusal := issueWith s (formAbarr w) (bodyAbarr w)

/-- A split is blocked in ABWAIT on an object with a parity. -/
def Split.waitsOn (sp : Split) (id : Nat) (phase : Bool) : Bool :=
  match sp.bar with
  | some (.obj i p _ _ _ _) => i == id && p == phase
  | _ => false

/-- The place of a barrier instruction whose wait is open. -/
def BarWait.place : BarWait → TrapAt
  | .node _ _ _ h i n => { pc := h + 8 + 8 * i, header := false, hdr := h, idx := i, len := n }
  | .obj _ _ _ h i n => { pc := h + 8 + 8 * i, header := false, hdr := h, idx := i, len := n }

/-- Every group of an object's owner has been placed: one that has not is unretired, and not blocked. -/
def ownerPlaced (k : Inst) (o : AsyncObj) : Bool :=
  let m := groupSize k.levels o.level
  !o.nodeOwned || (List.range m).all (fun j => k.placed.any (fun p => p.rank == o.owner * m + j))

/-- ABWAIT can never complete: no engine operation, no abort, and every unretired group of the owner blocked in
it at the current parity (R349); a group that is saved traps once it is back. -/
def orphaned (s : State) (x : Iss) (id : Nat) : Bool :=
  let o := seenObj x (objOf s x id)
  let mem := s.groups.filter (fun g => g.inst == x.g.inst && ownsObj x.k g.rank o)
  o.eng == 0 && !o.abtd && !mem.isEmpty && ownerPlaced x.k o
    && mem.all (fun g => g.state != .saved && !g.splits.isEmpty && g.splits.all (fun sp => sp.waitsOn id o.phase))

/-- Every waiter of an orphaned object traps with ORPHAN, INFO 0x1000 + ID. -/
def trapOrphans (s : State) (x : Iss) (id : Nat) : State :=
  let o := objOf s x id
  (s.groups.filter (fun g => g.inst == x.g.inst && ownsObj x.k g.rank o)).foldl (fun s g =>
    (g.splits.filter (fun sp => sp.waitsOn id o.phase)).foldl (fun s sp =>
      match sp.bar with
      | some b => takeTrap s g sp x.k { cause := cORPHAN, info := 0x1000 + id } b.place
      | none => s) s) s

/-- How an ABWAIT stands: its status once it is over. -/
def objStatus (s : State) (x : Iss) (id : Nat) (parity : Bool) : Option Nat :=
  let o := seenObj x (objOf s x id)
  if o.abtd then some 1 else if o.phase ≠ parity then some 0 else none

/-- The ABWAIT is over: status, and the acquire at the object's level. -/
def endObjWait (s : State) (x : Iss) (id st : Nat) (d : Option Nat) : State :=
  acquireAt (putStatus s x.g.id x.sp.id d st) x (objOf s x id).level

/-- Wait on an object in place or at the boundary. -/
def waitObj (s : State) (x : Iss) (id : Nat) (parity : Bool) (d : Option Nat) : Res :=
  let s := setObj s x id (seenObj x (objOf s x id))
  match objStatus s x id parity with
  | some st => .done (endObjWait s x id st d)
  | none =>
    let bw : BarWait := .obj id parity d x.sp.hdr x.sp.idx x.sp.clause.length
    let s : State := s.mapSplit x.g.id x.sp.id (fun sp => { sp with bar := some bw })
    if orphaned s x id then .jump (trapOrphans s x id)
    else if x.sp.lastInClause then .done s
    else .blockIn s .barrier

def formAbwait (w : FmtS) : Form := formAsync 0x186 w true true false

/-- ABWAIT; its source is read as it issues, whether or not it waits then (R417). -/
def bodyAbwait (w : FmtS) (x : Iss) (_ : Mask) (s : State) : Res :=
  match x.sp.bar with
  | some (.obj id p d _ _ _) => waitObj s x id p d
  | _ =>
    let v := readWord x w.a.toNat 0
    if ownsObj x.k x.g.rank (objOf s x w.id.toNat) = true ∧ v.toNat < 2 then
      waitObj (liftQuarantine (markDirty s x) x.g ((formAbwait w).reads x.k)) x w.id.toNat (v == 1) (statusReg w)
    else .trap (formAbwait w).trapIllop
def execAbwait (w : FmtS) (s : State) : Host.Outcome State Fault Refusal := issueWith s (formAbwait w) (bodyAbwait w)

/-! ## A barrier wait at the clause boundary (R320) -/

/-- The issuing split's boundary wait is over: its effects are taken; none while it goes on. -/
def endBoundaryWait (s : State) (x : Iss) (b : BarWait) : Option State :=
  let ended (s : State) : State := s.mapSplit x.g.id x.sp.id (fun sp => { sp with bar := none, wait := none })
  match b with
  | .node lv waits d _ _ _ =>
    let s := settleBarriers s x.g.inst
    (nodeStatus s x.g.inst lv waits).map (fun st => ended (endNodeWait s x lv st d))
  | .obj id parity d _ _ _ => (objStatus s x id parity).map (fun st => ended (endObjWait s x id st d))

/-! ## What follows every move (R339, R342, R345, R349) -/

/-- A barrier instruction's wait is over: the split stands at the boundary where it waited, or at the word after the
instruction it was blocked in. -/
def Split.barrierOver (sp : Split) : Split :=
  match sp.resume with
  | some i => { sp with resume := some (i + 1), bar := none, wait := none }
  | none => if sp.clause.isEmpty then { sp with bar := none, wait := none } else sp.advance

/-- A waiter whose phase has completed or whose object has turned, or that is ABORTED, completes (R342, R348); not one
whose wait has reached its limit (R120). -/
def completeWaiter (s : State) (gid spid : Nat) : State :=
  match s.group? gid with
  | none => s
  | some g =>
    match g.split? spid, s.inst? g.inst with
    | some sp, some k =>
      let x : Iss := { g := g, sp := sp, k := k }
      if (waitDue g sp).isSome then s
      else
      match sp.bar with
      | some (.node lv waits d _ _ _) =>
        match nodeStatus s g.inst lv waits with
        | some st => (endNodeWait s x lv st d).mapSplit gid spid Split.barrierOver
        | none => s
      | some (.obj id parity d _ _ _) =>
        match objStatus s x id parity with
        | some st => (endObjWait s x id st d).mapSplit gid spid Split.barrierOver
        | none => s
      | none => s
    | _, _ => s

/-- The splits with an open barrier wait, of groups that are on a core and not being saved. -/
def openWaits (s : State) : List (Nat × Nat) :=
  s.groups.flatMap (fun g =>
    if g.state = .saved ∨ g.saving = true then [] else (g.splits.filter (fun sp => sp.bar.isSome)).map (fun sp => (g.id, sp.id)))

/-- The waiters of an object that can never turn trap (R349). -/
def orphanWaiter (s : State) (gid spid : Nat) : State :=
  match s.group? gid with
  | none => s
  | some g =>
    match g.split? spid, s.inst? g.inst with
    | some sp, some k =>
      match sp.bar with
      | some (.obj id _ _ _ _ _) =>
        let x : Iss := { g := g, sp := sp, k := k }
        if orphaned s x id then trapOrphans s x id else s
      | _ => s
    | _, _ => s

/-- What a move brings about beside its own effect, in the same step: barriers take the arrivals, departures and changes
of masks, their waiters complete, and waiters that can never complete trap. -/
def settleAll (s : State) : State :=
  let s : State := (s.insts.filter (fun k => !k.barriers.isEmpty)).foldl (fun s k => settleBarriers s k.id) s
  let s : State := (openWaits s).foldl (fun s w => completeWaiter s w.1 w.2) s
  (openWaits s).foldl (fun s w => orphanWaiter s w.1 w.2) s

end Sys2Proof.Machine
end

