-- ==== Sys2Proof/Machine/Clause.lean ====
section
/-! DEFINITION. Clauses: the header's fields and the checks of a clause as a whole (R79 to R82, R85). -/

namespace Sys2Proof.Machine

open Sys2Proof

/-- The fields of a clause header (R79). -/
structure ClauseHdr where
  sig : Nat
  count : Nat
  ecls : Nat
  wctr : Nat
  wval : Nat
  yld : Bool
  rest : Nat
  deriving DecidableEq, Repr

/-- Read a clause header. -/
def clauseHdr (w : DWord) : ClauseHdr :=
  { sig := (w.extractLsb' 56 8).toNat, count := (w.extractLsb' 52 4).toNat, ecls := (w.extractLsb' 48 4).toNat
    wctr := (w.extractLsb' 44 4).toNat, wval := (w.extractLsb' 40 4).toNat, yld := w.getLsbD 39
    rest := (w.extractLsb' 0 39).toNat }

/-- A header that traps with ILLCLS by itself (R80, R83, R85). -/
def ClauseHdr.bad (h : ClauseHdr) : Bool :=
  h.sig != 0xCA || h.rest != 0 || decide (6 ≤ h.ecls) || decide (6 ≤ h.wctr) || (h.wctr == 0 && h.wval != 0)

/-- The terminal header (R85). -/
def terminalHdr : DWord := 0xCA0F000000000000

/-- The control transfers (R82). -/
def isTransferOp (op : Nat) : Bool := decide (0x100 ≤ op) && decide (op ≤ 0x107)

/-- ECLS admits the class of an opcode (R81, R98). -/
def eclsAdmits (ecls op : Nat) : Bool :=
  match ecls with
  | 0 => true
  | 1 => decide (op / 64 ≤ 2)
  | 2 => op / 64 == 3
  | 3 => op / 64 == 5
  | 4 => op / 64 == 4 || op / 64 == 6
  | 5 => op / 64 == 7
  | _ => false

/-- An instruction word breaks R81 or R82 at place i of n. -/
def wordMisplaced (ecls n i op : Nat) : Bool :=
  let last := i + 1 == n
  let admitted := op == 0x110 || (isTransferOp op && last) || eclsAdmits ecls op
  !admitted || (isTransferOp op && !last) || ((op == 0x108 || op == 0x18D) && i != 0)

/-- The first instruction of a clause that breaks R81 or R82. -/
def misplacedFrom (ecls n i : Nat) : List DWord → Option Nat
  | [] => none
  | w :: t => if wordMisplaced ecls n i (opcodeOf w) then some i else misplacedFrom ecls n (i + 1) t

def firstMisplaced (ecls : Nat) (ws : List DWord) : Option Nat := misplacedFrom ecls ws.length 0 ws

end Sys2Proof.Machine
end

