-- ==== Sys2Proof/Machine/DefImage.lean ====
section
/-! DEFINITION. The fields of a definition image (R354 to R356). -/

namespace Sys2Proof.Machine

open Sys2Proof

/-- A definition image's bytes. -/
abbrev DefImage := List Byte

def defAttr (d : DefImage) : Nat := leAt d 4 4
def defMagic (d : DefImage) : Nat := leAt d 0 4
/-- SITE is CHANNEL. -/
def defChannel (d : DefImage) : Bool := defAttr d % 2 == 1
/-- GRAN is FOOTPRINT. -/
def defFootprint (d : DefImage) : Bool := defAttr d / 2 % 2 == 1
def defNlm1 (d : DefImage) : Nat := defAttr d / 4 % 4
/-- COMB is COMBINE. -/
def defCombine (d : DefImage) : Bool := defAttr d / 16 % 2 == 1
def defRet (d : DefImage) : Nat := defAttr d / 32 % 4
def defFault (d : DefImage) : Nat := defAttr d / 128 % 4
def defPfmt (d : DefImage) : Nat := defAttr d / 512 % 4
def defNscal (d : DefImage) : Nat := defAttr d / 2048 % 8
/-- OFF1 to OFF3, for j = 1 to 3. -/
def defOff (d : DefImage) (j : Nat) : Nat := leAt d (8 + (j - 1)) 1
def defMainLen (d : DefImage) : Nat := leAt d 0x0C 4
def defCombOff (d : DefImage) : Nat := leAt d 0x10 4
def defLen (d : DefImage) : Nat := leAt d 0x14 4
def defK (d : DefImage) (j : Nat) : Word := BitVec.ofNat 32 (leAt d (0x20 + 4 * j) 4)
/-- The instruction or header word at an offset. -/
def defWord (d : DefImage) (off : Nat) : DWord := BitVec.ofNat 64 (leAt d off 8)

/-- Payload bytes (R355). -/
def payloadBytes (d : DefImage) : Nat := [0, 128, 64, 64].getD (defPfmt d) 0 + 4 * defNscal d

/-- The stripe period of a range (R141): stripes on one pseudo-channel follow each other at it. -/
def PtEntry.period (e : PtEntry) : Nat := 4096 * e.n

/-- Addresses of the footprint lines of a target (R356). -/
def footprint (d : DefImage) (period target : Nat) : List Nat :=
  target :: (List.range (defNlm1 d)).map (fun j => target + defOff d (j + 1) * period)

/-- Slot n of a context on a package. -/
def slotOf (s : State) (pkg ctx n : Nat) : DefSlot :=
  match s.ctx? pkg ctx with
  | some c => c.slots.getD n { }
  | none => { }

/-- Replace a slot's copy on one package. -/
def setSlot (s : State) (pkg ctx n : Nat) (f : DefSlot → DefSlot) : State :=
  s.mapCtx pkg ctx (fun c => { c with slots := modAt c.slots n f })

/-- Replace a slot's copies on every package of the span of a context that a package holds (R352, R353). -/
def setSlots (s : State) (pkg ctx n : Nat) (f : DefSlot → DefSlot) : State :=
  { s with ctxs := s.ctxs.map (fun c => if c.num = ctx ∧ inSpan s pkg ctx c.pkg = true then { c with slots := modAt c.slots n f } else c) }

end Sys2Proof.Machine
end

