-- ==== Sys2Proof/Machine/EngIssue.lean ====
section
/-! DEFINITION. What the instructions of class 5 share at issue (R234 to R237, R254 to R258): forms, ranges, the range-lock table, control words, and starting an engine operation. -/

namespace Sys2Proof.Machine

open Sys2Proof

/-- An instruction of class 5: format X, acting once per split (R234). -/
def formX (op : Nat) (w : FmtA) (bad : Bool) (d a b c : Role) : Form :=
  { op := op, bad := bad, g := w.g, opds := opdsA w d a b c, once := true }

/-- MOD[7:4]: scope or level. -/
def modHi (m : BitVec 8) : Nat := m.toNat / 16
/-- MOD[3:0]. -/
def modLo (m : BitVec 8) : Nat := m.toNat % 16

/-- Word j of a descriptor. -/
def descWord (x : Iss) (n j : Nat) : Nat := (readWord x (n + j) 0).toNat

/-- A word operand. -/
def wordVal (x : Iss) (n : Nat) : Nat := (readWord x n 0).toNat

/-- An address operand (R235). -/
def addrVal (x : Iss) (n : Nat) : Nat := readPair x n 0

/-! ## Ranges (R237 steps 3 and 4) -/

/-- A byte range: address and length. -/
abbrev Range := Nat × Nat

/-- The range is canonical and lies wholly inside one placement range; an empty one is judged by its address. -/
def rangeOk (s : State) (x : Iss) (r : Range) : Bool := inOneRange s x.g.pkg x.g.ctx r.1 r.2

/-- ALIGN at a base address. -/
def alignTrap (va : Nat) : Trap := { cause := cALIGN, info := 0, addr := va }

/-- The first of some values that is not a multiple of m, by the base address of the operand it belongs to. -/
def misaligned (m : Nat) (l : List (Nat × Nat)) : Option Trap :=
  (l.find? (fun p => p.1 % m != 0)).map (fun p => alignTrap p.2)

/-- The first range that is refused traps with ADDR. -/
def badRange (s : State) (x : Iss) (l : List Range) : Option Trap :=
  (l.find? (fun r => !rangeOk s x r)).map (fun r => { cause := cADDR, info := 0, addr := r.1 })

/-! ## The range-lock table (R164, R166) -/

/-- Number of entries of the table. -/
def rltSize : Nat := 64

/-- The entry of a range. -/
def rltEntry (op : Nat) (write : Bool) (r : Range) : RltEntry :=
  { lo := va56 r.1 / 128 * 128, hi := (va56 r.1 + r.2 + 127) / 128 * 128, write := write, op := op }

/-- Two entries share a line. -/
def RltEntry.meets (a b : RltEntry) : Bool := decide (a.lo < b.hi) && decide (b.lo < a.hi)

/-- The issuing core's table. -/
def rltOf (s : State) (x : Iss) : List RltEntry :=
  match s.core? x.g.pkg x.g.core with
  | some c => c.rlt
  | none => []

/-- Entries for some reads and writes; an empty range registers none. -/
def rltEntries (op : Nat) (reads writes : List Range) : List RltEntry :=
  (reads.filter (fun r => r.2 != 0)).map (rltEntry op false) ++ (writes.filter (fun r => r.2 != 0)).map (rltEntry op true)

/-- Entries of the table that new ones conflict with: a destination with any, a source with one of W mode. -/
def rltConflicts (old new : List RltEntry) : List RltEntry :=
  old.filter (fun o => new.any (fun n => n.meets o && (n.write || o.write)))

/-- The issue must wait for the table: no room, or a conflict. -/
def rltWait (s : State) (x : Iss) (new : List RltEntry) : Option (List Nat) :=
  let old := rltOf s x
  let c := rltConflicts old new
  if !c.isEmpty then some (c.map (·.op))
  else if rltSize < old.length + new.length then some (old.map (·.op))
  else none

def addRlt (s : State) (x : Iss) (new : List RltEntry) : State :=
  s.mapCore x.g.pkg x.g.core (fun c => { c with rlt := c.rlt ++ new })

/-! ## Control words (R254, R348) -/

/-- The object that a control word names. -/
def ctlObj (ctl : Nat) : Option Nat := if ctl / 64 % 2 = 1 then some (ctl % 64) else none

/-- A reserved bit, a SLOT outside SCAT, or an object that is FREE or another owner's. -/
def ctlBad (s : State) (x : Iss) (ctl : Nat) (slotUsed : Bool) : Bool :=
  decide (2 ^ 14 ≤ ctl) || ctl / 128 % 2 != 0 || (!slotUsed && ctl / 256 != 0)
    || match ctlObj ctl with
       | some i => !ownsObj x.k x.g.rank (objOf s x i)
       | none => false

/-! ## Starting an engine operation (R237 step 7, R239, R255 to R257) -/

/-- What an operation registers: its kind, ranges, and the tile entries it fills or drains. -/
structure EngPlan where
  kind : EngKind
  reads : List Range
  writes : List Range
  fill : Option Nat := none
  drain : Option Nat := none

/-- The issue waits: the group holds 64 operations, the object 127, or the table is in the way. -/
def engWait (s : State) (x : Iss) (p : EngPlan) (ctl : Nat) : Option (List Nat) :=
  let mine := (s.engs.filter (fun e => e.gid == x.g.id)).map (·.id)
  if 64 ≤ x.g.eng then some mine
  else
    match ctlObj ctl with
    | some i => if 127 ≤ (objOf s x i).eng then some mine else rltWait s x (rltEntries 0 p.reads p.writes)
    | none => rltWait s x (rltEntries 0 p.reads p.writes)

/-- The operation is in flight: its entries, its object's ENG, its tile's state, the eng counter, and a dirty
region. -/
def startEng (s : State) (x : Iss) (p : EngPlan) (ctl scope : Nat) (status : Option Nat) : State :=
  let id := s.nextId
  let e : Eng :=
    { id := id, gid := x.g.id, ctx := x.g.ctx, pkg := x.g.pkg, core := x.g.core, kind := p.kind, scope := scope
      physScope := bindOf x.k.levels scope, abid := ctlObj ctl, reads := [], written := [], parked := [], poison := []
      ct := match p.kind with | .redgo _ _ => x.sp.relMax | _ => 0
      status := status, tail := false, holders := [x.sp.id], issueCore := x.g.core, epoch := ctxEpoch s x.g.pkg x.g.ctx }
  let s : State := { s with engs := s.engs ++ [e], nextId := id + 1 }
  let s : State := addRlt s x (rltEntries id p.reads p.writes)
  let s : State := match ctlObj ctl with
    | some i => setObj s x i { objOf s x i with eng := (objOf s x i).eng + 1 }
    | none => s
  let s : State := match p.fill with
    | some t => setTile s x t (fun t => { t with state := .filling, uses := t.uses + 1 })
    | none => s
  let s : State := match p.drain with
    | some t => setTile s x t (fun t => { t with state := .draining, uses := t.uses + 1 })
    | none => s
  markDirty (s.mapGroup x.g.id (fun g => { g with eng := g.eng + 1 })) x

/-- Step 7 of R237 and the issue. -/
def issueEng (s : State) (x : Iss) (p : EngPlan) (ctl scope : Nat) : Res :=
  match engWait s x p ctl with
  | some _ => .block .rlt
  | none => .done (startEng s x p ctl scope none)

/-- Trap where a check fails, else go on. -/
def orTrap (t : Option Trap) (k : Res) : Res :=
  match t with
  | some t => .trap t
  | none => k

/-- A tile named as an engine's source or destination. -/
def withTile (s : State) (x : Iss) (n : Nat) (reader : Bool) (k : Nat → Tile → Res) : Res :=
  let e := tileEntry x n
  match (if reader then nameReader x (tileOf s x e) else nameWriter x (tileOf s x e)) with
  | .trap r => .trap (tilest e r)
  | .block => .block .tile e
  | .ok t => k e t

end Sys2Proof.Machine
end

