-- ==== Sys2Proof/Machine/Engine.lean ====
section
/-! DEFINITION. The engine operations at issue (R259 to R267, R415): CPY, CPY2D, TLD, TST, GATH, SCAT, ROWPUB, COLL, EWAIT and CPYG. -/

namespace Sys2Proof.Machine

open Sys2Proof

/-- An engine operation with a nonzero MOD[3:0] is ILLOP. -/
def formEng (op : Nat) (w : FmtA) (d a b : Role) : Form := formX op w (modLo w.mod != 0) d a b (.srcScal 1)

/-! ## CPY and CPY2D (R259) -/

def formCpy (w : FmtA) : Form := formEng 0x150 w (.desc 2) (.desc 2) (.srcScal 1)

/-- A CPY of length 0 completes at its issue: its arrival is made, and no entry and no count stands (R256, R257). -/
def finishAtIssue (s : State) (x : Iss) (ctl : Nat) : State :=
  let s := markDirty s x
  match ctlObj ctl with
  | some i => setObj s x i (seenObj x (objOf s x i)).arrive
  | none => s

def bodyCpy (w : FmtA) (x : Iss) (_ : Mask) (s : State) : Res :=
  let d := addrVal x w.d.toNat
  let a := addrVal x w.a.toNat
  let len := wordVal x w.b.toNat
  let ctl := wordVal x w.c.toNat
  let p : EngPlan := { kind := .cpy d a len, reads := [(a, len)], writes := [(d, len)] }
  if 2 ^ 31 < len ∨ ctlBad s x ctl false = true then .trap (formCpy w).trapIllop
  else orTrap (misaligned 16 [(d, d), (a, a), (len, a)]) (orTrap (badRange s x [(d, len), (a, len)])
    (if len = 0 then
      match engWait s x p ctl with
      | some _ => .block .rlt
      | none => .done (finishAtIssue s x ctl)
    else issueEng s x p ctl (modHi w.mod)))
def execCpy (w : FmtA) (s : State) : Host.Outcome State Fault Refusal := issueWith s (formCpy w) (bodyCpy w)

def formCpy2d (w : FmtA) : Form := formEng 0x151 w (.desc 2) (.desc 2) (.desc 4)

def bodyCpy2d (w : FmtA) (x : Iss) (_ : Mask) (s : State) : Res :=
  let d := addrVal x w.d.toNat
  let a := addrVal x w.a.toNat
  let rb := descWord x w.b.toNat 0
  let rows := descWord x w.b.toNat 1
  let ss := descWord x w.b.toNat 2
  let ds := descWord x w.b.toNat 3
  let ctl := wordVal x w.c.toNat
  if rb < 16 ∨ 2 ^ 20 < rb ∨ rows = 0 ∨ 2 ^ 16 < rows ∨ ctlBad s x ctl false = true then .trap (formCpy2d w).trapIllop
  else
    let wr := (d, (rows - 1) * ds + rb)
    let rd := (a, (rows - 1) * ss + rb)
    orTrap (misaligned 16 [(d, d), (a, a), (rb, a), (ss, a), (ds, d)]) (orTrap (badRange s x [wr, rd])
      (issueEng s x { kind := .cpy2d d a rb rows ss ds, reads := [rd], writes := [wr] } ctl (modHi w.mod)))
def execCpy2d (w : FmtA) (s : State) : Host.Outcome State Fault Refusal := issueWith s (formCpy2d w) (bodyCpy2d w)

/-! ## TLD and TST (R260) -/

def formTld (w : FmtA) : Form := formEng 0x152 w .tile (.desc 2) (.srcScal 1)

def bodyTld (w : FmtA) (x : Iss) (_ : Mask) (s : State) : Res :=
  let a := addrVal x w.a.toNat
  let b := wordVal x w.b.toNat
  let ctl := wordVal x w.c.toNat
  if ctlBad s x ctl false then .trap (formTld w).trapIllop
  else withTile s x w.d.toNat false (fun e t =>
    let rd := (a, (t.nrows - 1) * b + 4 * t.ncols)
    orTrap (misaligned 4 [(a, a), (b, a)]) (orTrap (badRange s x [rd])
      (issueEng s x { kind := .tld e a b, reads := [rd], writes := [], fill := some e } ctl (modHi w.mod))))
def execTld (w : FmtA) (s : State) : Host.Outcome State Fault Refusal := issueWith s (formTld w) (bodyTld w)

def formTst (w : FmtA) : Form := formEng 0x153 w (.desc 2) .tile (.srcScal 1)

def bodyTst (w : FmtA) (x : Iss) (_ : Mask) (s : State) : Res :=
  let d := addrVal x w.d.toNat
  let b := wordVal x w.b.toNat
  let ctl := wordVal x w.c.toNat
  if ctlBad s x ctl false then .trap (formTst w).trapIllop
  else withTile s x w.a.toNat true (fun e t =>
    let wr := (d, (t.nrows - 1) * b + 4 * t.ncols)
    orTrap (misaligned 4 [(d, d), (b, d)]) (orTrap (badRange s x [wr])
      (issueEng s x { kind := .tst d e b, reads := [], writes := [wr], drain := some e } ctl (modHi w.mod))))
def execTst (w : FmtA) (s : State) : Host.Outcome State Fault Refusal := issueWith s (formTst w) (bodyTst w)

/-! ## GATH and SCAT (R261, R262) -/

/-- The quad of GATH and SCAT. -/
structure RowList where
  n : Nat
  rowb : Nat
  stride : Nat
  list : Nat
  deriving DecidableEq, Repr

def rowList (x : Iss) (b : Nat) : RowList :=
  { n := descWord x b 0, rowb := descWord x b 1 % 2 ^ 13, stride := descWord x b 1 / 2 ^ 13 * 16
    list := descWord x b 2 + 2 ^ 32 * descWord x b 3 }

/-- The quad is outside its stated ranges; m is the unit of the row bytes. -/
def RowList.bad (q : RowList) (m : Nat) : Bool :=
  q.n == 0 || decide (4096 < q.n) || q.rowb == 0 || decide (4096 < q.rowb) || q.rowb % m != 0 || decide (q.stride < q.rowb)

def formGath (w : FmtA) : Form := formEng 0x154 w (.desc 2) (.desc 2) (.desc 4)

def bodyGath (w : FmtA) (x : Iss) (_ : Mask) (s : State) : Res :=
  let d := addrVal x w.d.toNat
  let a := addrVal x w.a.toNat
  let q := rowList x w.b.toNat
  let ctl := wordVal x w.c.toNat
  if q.bad 16 = true ∨ ctlBad s x ctl false = true then .trap (formGath w).trapIllop
  else
    let wr := (d, q.n * q.rowb)
    let rd := (q.list, 4 * q.n)
    orTrap (misaligned 16 [(d, d), (a, a)]) (orTrap (misaligned 4 [(q.list, q.list)]) (orTrap (badRange s x [wr, rd])
      (issueEng s x { kind := .gath d a q.n q.rowb q.stride q.list, reads := [rd], writes := [wr] } ctl (modHi w.mod))))
def execGath (w : FmtA) (s : State) : Host.Outcome State Fault Refusal := issueWith s (formGath w) (bodyGath w)

def formScat (w : FmtA) : Form := formEng 0x155 w (.desc 2) (.desc 2) (.desc 4)

/-- Bytes of one source row (R262). -/
def scatRow (img : DefImage) (rowb : Nat) : Nat := if defPfmt img = 1 then rowb else rowb / 2

/-- ROPNDEF with the slot as INFO. -/
def ropndef (slot : Nat) : Trap := { cause := cROPNDEF, info := slot }

def bodyScat (w : FmtA) (x : Iss) (_ : Mask) (s : State) : Res :=
  let d := addrVal x w.d.toNat
  let a := addrVal x w.a.toNat
  let q := rowList x w.b.toNat
  let ctl := wordVal x w.c.toNat
  let n := ctl / 256 % 64
  let sl := slotOf s x.g.pkg x.g.ctx n
  if q.bad 128 = true ∨ ctlBad s x ctl true = true then .trap (formScat w).trapIllop
  else if sl.state ≠ .loaded then .trap (ropndef n)
  else if defCombine sl.img = false ∨ defPfmt sl.img = 0 ∨ defNscal sl.img ≠ 0 then .trap (formScat w).trapIllop
  else
    let rd := (a, q.n * scatRow sl.img q.rowb)
    let li := (q.list, 4 * q.n)
    orTrap (misaligned 128 [(d, d)]) (orTrap (misaligned 16 [(a, a)]) (orTrap (misaligned 128 [(q.stride, d)])
      (orTrap (misaligned 4 [(q.list, q.list)]) (orTrap (badRange s x [rd, li])
        (issueEng s x { kind := .scat d a q.n q.rowb q.stride q.list n sl.gen, reads := [rd, li], writes := [] } ctl (modHi w.mod))))))
def execScat (w : FmtA) (s : State) : Host.Outcome State Fault Refusal := issueWith s (formScat w) (bodyScat w)

/-! ## ROWPUB (R263) -/

def formRowpub (w : FmtA) : Form := formEng 0x156 w (.desc 2) (.desc 2) (.srcScal 1)

def formColl (w : FmtA) : Form := formX 0x158 w false (.desc 2) (.desc 2) (.srcScal 1) (.srcScal 1)

/-- Collectives that the group has joined at a level. -/
def collJoined (g : Group) (lv : Nat) : Nat := ((g.collCount.find? (fun c => c.1 == lv)).map (·.2)).getD 0

/-- The address lies in a memory-homed range. -/
def isMh (s : State) (x : Iss) (va : Nat) : Bool :=
  match routeOf s x.g.pkg x.g.ctx va with
  | some e => e.mh
  | none => false

def bodyRowpub (w : FmtA) (x : Iss) (_ : Mask) (s : State) : Res :=
  let d := addrVal x w.d.toNat
  let a := addrVal x w.a.toNat
  let len := wordVal x w.b.toNat
  let ctl := wordVal x w.c.toNat
  if len < 16 ∨ 4096 < len ∨ len % 16 ≠ 0 ∨ ctlBad s x ctl false = true then .trap (formRowpub w).trapIllop
  else
    let crosses : Option Trap := if d % 4096 + len ≤ 4096 then none else some (alignTrap d)
    orTrap (misaligned 16 [(d, d), (a, a)]) (orTrap crosses (orTrap (badRange s x [(d, len), (a, len)])
      (if isMh s x d then
        issueEng s x { kind := .rowpub d a len, reads := [(a, len)], writes := [(d, len)] } ctl (modHi w.mod)
      else .trap { cause := cROPSITE, info := 0xFFFFF })))
def execRowpub (w : FmtA) (s : State) : Host.Outcome State Fault Refusal := issueWith s (formRowpub w) (bodyRowpub w)

/-! ## COLL (R264) -/

def bodyColl (w : FmtA) (x : Iss) (_ : Mask) (s : State) : Res :=
  let d := addrVal x w.d.toNat
  let a := addrVal x w.a.toNat
  let count := wordVal x w.b.toNat
  let ctl := wordVal x w.c.toNat
  let lv := levelOf x.k.levels (modHi w.mod)
  let kind := modLo w.mod % 4
  let type := modLo w.mod / 4
  if lv < treeG x.k.levels ∨ treeL x.k.levels ≤ lv ∨ count = 0 ∨ 2 ^ 24 < count ∨ ctlBad s x ctl false = true then
    .trap (formColl w).trapIllop
  else
    let sz := collSizes kind (groupSize x.k.levels lv) count
    let rd := (a, sz.1 * collBytes type)
    let wr := (d, sz.2 * collBytes type)
    let n := collJoined x.g lv
    let p : EngPlan := { kind := .coll d a count lv kind type n, reads := [rd], writes := [wr] }
    orTrap (misaligned 16 [(d, d), (a, a)]) (orTrap (badRange s x [wr, rd])
      (match engWait s x p ctl with
       | some _ => .block .rlt
       | none =>
         .done ((startEng s x p ctl (modHi w.mod) none).mapGroup x.g.id (fun g =>
           { g with collCount := (lv, n + 1) :: g.collCount.filter (fun c => c.1 != lv) }))))
def execColl (w : FmtA) (s : State) : Host.Outcome State Fault Refusal := issueWith s (formColl w) (bodyColl w)

/-! ## EWAIT (R267) -/

def formEwait (w : FmtA) : Form := formX 0x157 w false .unused .unused .unused .unused

def bodyEwait (w : FmtA) (x : Iss) (_ : Mask) (s : State) : Res :=
  if x.g.eng ≤ modLo w.mod then .done (acquireAt s x (modHi w.mod)) else .block .wctr 2
def execEwait (w : FmtA) (s : State) : Host.Outcome State Fault Refusal := issueWith s (formEwait w) (bodyEwait w)

/-! ## CPYG (R415) -/

def formCpyg (w : FmtA) : Form := formX 0x15C w (modLo w.mod != 0) (.dstScal60 1) (.desc 8) .unused (.srcScal 1)

def bodyCpyg (w : FmtA) (x : Iss) (_ : Mask) (s : State) : Res :=
  let o (j : Nat) : Nat := descWord x w.a.toNat j
  let host := o 0 + 2 ^ 32 * o 1
  let d := o 2 + 2 ^ 32 * o 3
  let len := o 4
  let counter := o 5 + 2 ^ 32 * o 6
  let ctl := wordVal x w.c.toNat
  let reg := w.d.toNat
  if o 7 ≠ 0 ∨ len % 16 ≠ 0 ∨ len < 16 ∨ 65536 < len ∨ counter = 0 ∨ ctlBad s x ctl false = true then .trap (formCpyg w).trapIllop
  else
    let p : EngPlan := { kind := .cpyg host d len counter reg, reads := [], writes := [(d, len)] }
    orTrap (misaligned 16 [(host, host), (d, d)]) (orTrap (badRange s x [(d, len)])
      (match engWait s x p ctl with
       | some _ => .block .rlt
       | none => .done (setPending (startEng s x p ctl (modHi w.mod) none) x.g.id [reg])))
def execCpyg (w : FmtA) (s : State) : Host.Outcome State Fault Refusal := issueWith s (formCpyg w) (bodyCpyg w)

end Sys2Proof.Machine
end

