-- ==== Sys2Proof/Machine/GroupInstr.lean ====
section
/-! DEFINITION. The group's own instructions: LOOPHD, IDONE, IPUT and TREEID (R323 to R327). -/

namespace Sys2Proof.Machine

open Sys2Proof

/-! ## LOOPHD (R324) -/

def formLoophd (w : FmtS) : Form :=
  { op := 0x18D, bad := w.id != 0 || w.ep != 0 || w.g != 0 || w.mod != 0 || w.level == 15, g := w.g
    opds := opdsS w (.dstVec 1) .unused .unused }

/-- The item queue of the issuing core. -/
def itemsOf (s : State) (x : Iss) : List Word :=
  match s.core? x.g.pkg x.g.core with
  | some c => c.items
  | none => []

/-- Lanes that LOOPHD leaves in the mask after the abort lines, and those of them that ask for an item. -/
def loopLanes (x : Iss) (lv : Nat) : List Nat × List Nat :=
  let keep := x.sp.mask.lanes.filter (fun i => !(x.g.done.getLsbD i && seenRaised x.k x.g.rank i lv))
  (keep, keep.filter (fun i => x.g.done.getLsbD i))

def bodyLoophd (w : FmtS) (x : Iss) (_ : Mask) (s : State) : Res :=
  let lanes := loopLanes x (levelOf x.k.levels w.level.toNat)
  let items := itemsOf s x
  let fed := lanes.2.take items.length
  let give (i : Nat) : Word := items.getD (fed.findIdx (fun j => j == i)) 0
  let got := laneBits fed
  let mask := laneBits (lanes.1.filter (fun i => !x.g.done.getLsbD i)) ||| got
  let s : State := s.mapCore x.g.pkg x.g.core (fun c => { c with items := c.items.drop fed.length })
  let s : State := if got = 0 then s else putWord s x.g.id x.sp.id w.d.toNat got got.lowest give
  let s : State := s.mapGroup x.g.id (fun g => { g with done := g.done &&& ~~~got })
  .done (markDirty (s.mapSplit x.g.id x.sp.id (fun sp => { sp with mask := mask })) x)
def execLoophd (w : FmtS) (s : State) : Host.Outcome State Fault Refusal := issueWith s (formLoophd w) (bodyLoophd w)

/-! ## IDONE and IPUT (R325, R326) -/

def formIdone (w : FmtS) : Form :=
  { op := 0x18E, bad := w.id != 0 || w.ep != 0 || w.mod != 0 || w.level != 0, g := w.g, opds := opdsS w .unused .unused .unused }
def bodyIdone (x : Iss) (act : Mask) (s : State) : Res := .done (s.mapGroup x.g.id (fun g => { g with done := g.done ||| act }))
def execIdone (w : FmtS) (s : State) : Host.Outcome State Fault Refusal := issueWith s (formIdone w) bodyIdone

def formIput (w : FmtS) : Form :=
  { op := 0x18F, bad := w.id != 0 || epBit w.ep 1 || epBit w.ep 2 || w.mod != 0 || w.level != 0, g := w.g
    opds := opdsS w .dstPred (.src 1) .unused }

/-- Entries of an item queue (R323). -/
def itemCapacity : Nat := 2048

def bodyIput (w : FmtS) (x : Iss) (act : Mask) (s : State) : Res :=
  let fit := act.lanes.take (itemCapacity - (itemsOf s x).length)
  let s : State := s.mapCore x.g.pkg x.g.core (fun c => { c with items := c.items ++ fit.map (fun i => readWord x w.a.toNat i) })
  .done (markDirty (putPred s x.g.id x.sp.id w.d.toNat act (fun i => fit.contains i)) x)
def execIput (w : FmtS) (s : State) : Host.Outcome State Fault Refusal := issueWith s (formIput w) (bodyIput w)

/-! ## TREEID (R327) -/

/-- The value varies by lane: a coordinate or a node index below the GROUP level. -/
def treeVaries (ls : List Level) (w : FmtS) : Bool :=
  decide (w.mod.toNat < 2) && decide (levelOf ls w.level.toNat < treeG ls)

/-- The same for the issuing split's tree. -/
def treeVariesAt (s : State) (w : FmtS) : Bool :=
  match issuer s with
  | some x => treeVaries x.k.levels w
  | none => false

def formTreeid (vary : Bool) (w : FmtS) : Form :=
  { op := 0x18C, bad := w.id != 0 || w.ep != 0 || decide (6 ≤ w.mod.toNat) || w.level == 15, g := w.g
    opds := opdsS w (if vary then .dstVec 1 else .dst 1) .unused .unused }

/-- TREEID's value for a lane. -/
def treeidVal (ls : List Level) (kind lv rank lane : Nat) : Nat :=
  match kind with
  | 0 => treeConst ls rank lane lv
  | 1 => nodeIndex ls rank lane lv
  | 2 => if lv < treeG ls then laneSize ls lv else groupSize ls lv
  | 3 => fanOf ls lv
  | 4 => bindOf ls lv
  | _ => if coResident ls lv then 1 else 0

def bodyTreeid (w : FmtS) (x : Iss) (act : Mask) (s : State) : Res :=
  let lv := levelOf x.k.levels w.level.toNat
  .done (putWord s x.g.id x.sp.id w.d.toNat act act.lowest (fun i => BitVec.ofNat 32 (treeidVal x.k.levels w.mod.toNat lv x.g.rank i)))
def execTreeid (w : FmtS) (s : State) : Host.Outcome State Fault Refusal :=
  issueWith s (formTreeid (treeVariesAt s w) w) (bodyTreeid w)

end Sys2Proof.Machine
end

