-- ==== Sys2Proof/Machine/Integer.lean ====
section
/-! DEFINITION. Class 0, the integer instructions (R100, R176 to R181). -/

namespace Sys2Proof.Machine

open Sys2Proof

/-- Register widths of a three-operand form of the word's type. -/
def intForm (op : Nat) (w : FmtA) (tys lows : List Nat) (useB useC : Bool) : Form :=
  let n := tyRegs (typeOf w.mod)
  formA op w (intBad w.mod tys lows) (.dst n) (.src n) (if useB then .src n else .unused) (if useC then .src n else .unused)

def intFormI (op : Nat) (w : FmtI) (tys lows : List Nat) (immBad : Bool) : Form :=
  let n := tyRegs (typeOf w.mod)
  formI op w (intBad w.mod tys lows || immBad) (.dst n) (.src n)

/-! ## Arithmetic (R177) -/

def formIadd (w : FmtA) : Form := intForm 0x001 w [0, 1, 2, 3] [0, 1] true false
def execIadd (w : FmtA) (s : State) : Host.Outcome State Fault Refusal := issueWith s (formIadd w) (intBody3 w (fun a b _ => a + b))
def formIaddI (w : FmtI) : Form := intFormI 0x021 w [0, 1, 2, 3] [0, 1] false
def execIaddI (w : FmtI) (s : State) : Host.Outcome State Fault Refusal := issueWith s (formIaddI w) (intBodyI w (fun a b => a + b))
def formIsub (w : FmtA) : Form := intForm 0x002 w [0, 1, 2, 3] [0, 1] true false
def execIsub (w : FmtA) (s : State) : Host.Outcome State Fault Refusal := issueWith s (formIsub w) (intBody3 w (fun a b _ => a - b))
def formIsubI (w : FmtI) : Form := intFormI 0x022 w [0, 1, 2, 3] [0, 1] false
def execIsubI (w : FmtI) (s : State) : Host.Outcome State Fault Refusal := issueWith s (formIsubI w) (intBodyI w (fun a b => a - b))
def formImul (w : FmtA) : Form := intForm 0x003 w [0, 1, 2, 3] [0, 1] true false
def execImul (w : FmtA) (s : State) : Host.Outcome State Fault Refusal := issueWith s (formImul w) (intBody3 w (fun a b _ => a * b))
def formImulI (w : FmtI) : Form := intFormI 0x023 w [0, 1, 2, 3] [0, 1] false
def execImulI (w : FmtI) (s : State) : Host.Outcome State Fault Refusal := issueWith s (formImulI w) (intBodyI w (fun a b => a * b))
def formImulh (w : FmtA) : Form := intForm 0x004 w [0, 1, 2, 3] [0] true false
def execImulh (w : FmtA) (s : State) : Host.Outcome State Fault Refusal :=
  issueWith s (formImulh w) (intBody3 w (fun a b _ => (a * b) / 2 ^ tyBits (typeOf w.mod)))
def formImad (w : FmtA) : Form := intForm 0x005 w [0, 1, 2, 3] [0, 1] true true
def execImad (w : FmtA) (s : State) : Host.Outcome State Fault Refusal := issueWith s (formImad w) (intBody3 w (fun a b c => a * b + c))
def formIabs (w : FmtA) : Form := intForm 0x006 w [0, 2] [0, 1] false false
def execIabs (w : FmtA) (s : State) : Host.Outcome State Fault Refusal := issueWith s (formIabs w) (intBody3 w (fun a _ _ => a.natAbs))
def formIneg (w : FmtA) : Form := intForm 0x007 w [0, 2] [0, 1] false false
def execIneg (w : FmtA) (s : State) : Host.Outcome State Fault Refusal := issueWith s (formIneg w) (intBody3 w (fun a _ _ => -a))
def formImin (w : FmtA) : Form := intForm 0x008 w [0, 1, 2, 3] [0] true false
def execImin (w : FmtA) (s : State) : Host.Outcome State Fault Refusal := issueWith s (formImin w) (intBody3 w (fun a b _ => min a b))
def formIminI (w : FmtI) : Form := intFormI 0x028 w [0, 1, 2, 3] [0] false
def execIminI (w : FmtI) (s : State) : Host.Outcome State Fault Refusal := issueWith s (formIminI w) (intBodyI w (fun a b => min a b))
def formImax (w : FmtA) : Form := intForm 0x009 w [0, 1, 2, 3] [0] true false
def execImax (w : FmtA) (s : State) : Host.Outcome State Fault Refusal := issueWith s (formImax w) (intBody3 w (fun a b _ => max a b))
def formImaxI (w : FmtI) : Form := intFormI 0x029 w [0, 1, 2, 3] [0] false
def execImaxI (w : FmtI) (s : State) : Host.Outcome State Fault Refusal := issueWith s (formImaxI w) (intBodyI w (fun a b => max a b))

/-! ## Logical, shift and bit instructions (R178) -/

/-- The complement within w bits. -/
def notBits (w v : Nat) : Nat := 2 ^ w - 1 - v % 2 ^ w

def formAnd (w : FmtA) : Form := intForm 0x00A w [0, 2] [0] true false
def execAnd (w : FmtA) (s : State) : Host.Outcome State Fault Refusal := issueWith s (formAnd w) (bitBody w (fun a b _ => a &&& b))
def formAndI (w : FmtI) : Form := intFormI 0x02A w [0, 2] [0] false
def execAndI (w : FmtI) (s : State) : Host.Outcome State Fault Refusal := issueWith s (formAndI w) (bitBodyI w (fun a b => a &&& b))
def formOr (w : FmtA) : Form := intForm 0x00B w [0, 2] [0] true false
def execOr (w : FmtA) (s : State) : Host.Outcome State Fault Refusal := issueWith s (formOr w) (bitBody w (fun a b _ => a ||| b))
def formOrI (w : FmtI) : Form := intFormI 0x02B w [0, 2] [0] false
def execOrI (w : FmtI) (s : State) : Host.Outcome State Fault Refusal := issueWith s (formOrI w) (bitBodyI w (fun a b => a ||| b))
def formXor (w : FmtA) : Form := intForm 0x00C w [0, 2] [0] true false
def execXor (w : FmtA) (s : State) : Host.Outcome State Fault Refusal := issueWith s (formXor w) (bitBody w (fun a b _ => a ^^^ b))
def formXorI (w : FmtI) : Form := intFormI 0x02C w [0, 2] [0] false
def execXorI (w : FmtI) (s : State) : Host.Outcome State Fault Refusal := issueWith s (formXorI w) (bitBodyI w (fun a b => a ^^^ b))
def formAndn (w : FmtA) : Form := intForm 0x00E w [0, 2] [0] true false
def execAndn (w : FmtA) (s : State) : Host.Outcome State Fault Refusal :=
  issueWith s (formAndn w) (bitBody w (fun a b _ => a &&& notBits (tyBits (typeOf w.mod)) b))
def formAndnI (w : FmtI) : Form := intFormI 0x02E w [0, 2] [0] false
def execAndnI (w : FmtI) (s : State) : Host.Outcome State Fault Refusal :=
  issueWith s (formAndnI w) (bitBodyI w (fun a b => a &&& notBits (tyBits (typeOf w.mod)) b))
def formNot (w : FmtA) : Form := intForm 0x00D w [0, 2] [0] false false
def execNot (w : FmtA) (s : State) : Host.Outcome State Fault Refusal :=
  issueWith s (formNot w) (bitBody w (fun a _ _ => notBits (tyBits (typeOf w.mod)) a))

/-- A shift of a w-bit pattern by s, 0 to 63. -/
def shlBits (w a s : Nat) : Nat := if w ≤ s then 0 else a * 2 ^ s % 2 ^ w
def shrBits (w a s : Nat) : Nat := if w ≤ s then 0 else a / 2 ^ s
def sarBits (w a s : Nat) : Nat :=
  let z : Int := if 2 ^ (w - 1) ≤ a then (a : Int) - 2 ^ w else a
  ((z / 2 ^ min s (w - 1)) % 2 ^ w).toNat
def rolBits (w a s : Nat) : Nat := let q := s % w; (a * 2 ^ q % 2 ^ w) ||| (a / 2 ^ (w - q))

/-- The form of a shift: B is a 32-bit shift operand. -/
def shiftForm (op : Nat) (w : FmtA) : Form :=
  let n := tyRegs (typeOf w.mod)
  formA op w (intBad w.mod [0, 2] [0]) (.dst n) (.src n) (.src 1) .unused

/-- The I form of a shift: IMM20[19:6] must be zero. -/
def shiftFormI (op : Nat) (w : FmtI) : Form := intFormI op w [0, 2] [0] (decide (64 ≤ w.imm.toNat))

def shiftBody (w : FmtA) (f : Nat → Nat → Nat → Nat) : Iss → Mask → State → Res :=
  let ty := typeOf w.mod
  bodyWords w.d.toNat (tyRegs ty) (fun x i => f (tyBits ty) (readNat x (tyWide ty) w.a.toNat i) ((readWord x w.b.toNat i).toNat % 64))

def shiftBodyI (w : FmtI) (f : Nat → Nat → Nat → Nat) : Iss → Mask → State → Res :=
  let ty := typeOf w.mod
  bodyWords w.d.toNat (tyRegs ty) (fun x i => f (tyBits ty) (readNat x (tyWide ty) w.a.toNat i) (w.imm.toNat % 64))

def formShl (w : FmtA) : Form := shiftForm 0x00F w
def execShl (w : FmtA) (s : State) : Host.Outcome State Fault Refusal := issueWith s (formShl w) (shiftBody w shlBits)
def formShlI (w : FmtI) : Form := shiftFormI 0x02F w
def execShlI (w : FmtI) (s : State) : Host.Outcome State Fault Refusal := issueWith s (formShlI w) (shiftBodyI w shlBits)
def formShr (w : FmtA) : Form := shiftForm 0x010 w
def execShr (w : FmtA) (s : State) : Host.Outcome State Fault Refusal := issueWith s (formShr w) (shiftBody w shrBits)
def formShrI (w : FmtI) : Form := shiftFormI 0x030 w
def execShrI (w : FmtI) (s : State) : Host.Outcome State Fault Refusal := issueWith s (formShrI w) (shiftBodyI w shrBits)
def formSar (w : FmtA) : Form := shiftForm 0x011 w
def execSar (w : FmtA) (s : State) : Host.Outcome State Fault Refusal := issueWith s (formSar w) (shiftBody w sarBits)
def formSarI (w : FmtI) : Form := shiftFormI 0x031 w
def execSarI (w : FmtI) (s : State) : Host.Outcome State Fault Refusal := issueWith s (formSarI w) (shiftBodyI w sarBits)
def formRol (w : FmtA) : Form := shiftForm 0x012 w
def execRol (w : FmtA) (s : State) : Host.Outcome State Fault Refusal := issueWith s (formRol w) (shiftBody w rolBits)
def formRolI (w : FmtI) : Form := shiftFormI 0x032 w
def execRolI (w : FmtI) (s : State) : Host.Outcome State Fault Refusal := issueWith s (formRolI w) (shiftBodyI w rolBits)

/-- The number of 1 bits of a w-bit pattern. -/
def popcBits (w a : Nat) : Nat := ((List.range w).filter (fun j => a / 2 ^ j % 2 == 1)).length
def clzBits (w a : Nat) : Nat := ((List.range w).takeWhile (fun j => a / 2 ^ (w - 1 - j) % 2 == 0)).length
def ctzBits (w a : Nat) : Nat := ((List.range w).takeWhile (fun j => a / 2 ^ j % 2 == 0)).length
def brevBits (w a : Nat) : Nat := (List.range w).foldl (fun acc j => acc * 2 + a / 2 ^ j % 2) 0

/-- POPC, CLZ and CTZ write a single 32-bit count even where A is a pair. -/
def countForm (op : Nat) (w : FmtA) : Form :=
  formA op w (intBad w.mod [0, 2] [0]) (.dst 1) (.src (tyRegs (typeOf w.mod))) .unused .unused
def countBody (w : FmtA) (f : Nat → Nat → Nat) : Iss → Mask → State → Res :=
  let ty := typeOf w.mod
  bodyWords w.d.toNat 1 (fun x i => f (tyBits ty) (readNat x (tyWide ty) w.a.toNat i))

def formPopc (w : FmtA) : Form := countForm 0x013 w
def execPopc (w : FmtA) (s : State) : Host.Outcome State Fault Refusal := issueWith s (formPopc w) (countBody w popcBits)
def formClz (w : FmtA) : Form := countForm 0x014 w
def execClz (w : FmtA) (s : State) : Host.Outcome State Fault Refusal := issueWith s (formClz w) (countBody w clzBits)
def formCtz (w : FmtA) : Form := countForm 0x015 w
def execCtz (w : FmtA) (s : State) : Host.Outcome State Fault Refusal := issueWith s (formCtz w) (countBody w ctzBits)
def formBrev (w : FmtA) : Form := intForm 0x016 w [0, 2] [0] false false
def execBrev (w : FmtA) (s : State) : Host.Outcome State Fault Refusal :=
  issueWith s (formBrev w) (bitBody w (fun a _ _ => brevBits (tyBits (typeOf w.mod)) a))

/-! ## Bit fields (R179) -/

/-- n of a control word: max(0, min(len, w - pos)). -/
def fieldLen (w k : Nat) : Nat := min (k / 64 % 128) (w - k % 64)

def bfxBits (ty a k : Nat) : Nat :=
  let n := fieldLen (tyBits ty) k
  let f := if n = 0 then 0 else a / 2 ^ (k % 64) % 2 ^ n
  if tySigned ty ∧ 0 < n ∧ f / 2 ^ (n - 1) % 2 = 1 then wrapInt ty ((f : Int) - 2 ^ n) else f

def bfiBits (w a b k : Nat) : Nat :=
  let m := (2 ^ fieldLen w k - 1) * 2 ^ (k % 64)
  (a &&& notBits w m) ||| ((b * 2 ^ (k % 64)) &&& m)

def formBfx (w : FmtA) : Form :=
  let n := tyRegs (typeOf w.mod)
  formA 0x017 w (intBad w.mod [0, 1, 2, 3] [0]) (.dst n) (.src n) (.src 1) .unused
def execBfx (w : FmtA) (s : State) : Host.Outcome State Fault Refusal :=
  let ty := typeOf w.mod
  issueWith s (formBfx w) (bodyWords w.d.toNat (tyRegs ty) (fun x i =>
    bfxBits ty (readNat x (tyWide ty) w.a.toNat i) (readWord x w.b.toNat i).toNat))
def formBfxI (w : FmtI) : Form := intFormI 0x037 w [0, 1, 2, 3] [0] (decide (2 ^ 13 ≤ w.imm.toNat))
def execBfxI (w : FmtI) (s : State) : Host.Outcome State Fault Refusal :=
  let ty := typeOf w.mod
  issueWith s (formBfxI w) (bodyWords w.d.toNat (tyRegs ty) (fun x i => bfxBits ty (readNat x (tyWide ty) w.a.toNat i) w.imm.toNat))
def formBfi (w : FmtA) : Form :=
  let n := tyRegs (typeOf w.mod)
  formA 0x018 w (intBad w.mod [0, 2] [0]) (.dst n) (.src n) (.src n) (.src 1)
def execBfi (w : FmtA) (s : State) : Host.Outcome State Fault Refusal :=
  let ty := typeOf w.mod
  issueWith s (formBfi w) (bodyWords w.d.toNat (tyRegs ty) (fun x i =>
    bfiBits (tyBits ty) (readNat x (tyWide ty) w.a.toNat i) (readNat x (tyWide ty) w.b.toNat i) (readWord x w.c.toNat i).toNat))

/-! ## SEL and ICMP (R180) -/

def formSel (w : FmtA) : Form :=
  let n := tyRegs (typeOf w.mod)
  formA 0x019 w (intBad w.mod [0, 2] [0, 1]) (.dst n) (.src n) (.src n) (if w.mod.getLsbD 0 then .srcPred else .src 1)
/-- SEL.  With a scalar D a predicate's bit is that of the lowest acting lane (R96, R180; log entry 127). -/
def execSel (w : FmtA) (s : State) : Host.Outcome State Fault Refusal :=
  let ty := typeOf w.mod
  issueWith s (formSel w) (bodyWords w.d.toNat (tyRegs ty) (fun x i =>
    let c := if w.mod.getLsbD 0 then predBit x w.c.toNat i else readWord x w.c.toNat i != 0
    if c then readNat x (tyWide ty) w.a.toNat i else readNat x (tyWide ty) w.b.toNat i))

/-- MOD[4:0] of ICMP: kind, a zero, and condition 0 to 5. -/
def icmpLows : List Nat := [0, 1, 2, 3, 4, 5, 16, 17, 18, 19, 20, 21]

def formIcmp (w : FmtA) : Form :=
  let n := tyRegs (typeOf w.mod)
  formA 0x01A w (intBad w.mod [0, 1, 2, 3] icmpLows) (cmpDst (w.mod.getLsbD 4)) (.src n) (.src n) .unused
def execIcmp (w : FmtA) (s : State) : Host.Outcome State Fault Refusal :=
  let ty := typeOf w.mod
  issueWith s (formIcmp w) (bodyCmp (w.mod.getLsbD 4) w.d.toNat (fun x i =>
    icmpCond (w.mod.toNat % 8) (readInt x ty w.a.toNat i) (readInt x ty w.b.toNat i)))
def formIcmpI (w : FmtI) : Form :=
  formI 0x03A w (intBad w.mod [0, 1, 2, 3] icmpLows) (cmpDst (w.mod.getLsbD 4)) (.src (tyRegs (typeOf w.mod)))
def execIcmpI (w : FmtI) (s : State) : Host.Outcome State Fault Refusal :=
  let ty := typeOf w.mod
  issueWith s (formIcmpI w) (bodyCmp (w.mod.getLsbD 4) w.d.toNat (fun x i =>
    icmpCond (w.mod.toNat % 8) (readInt x ty w.a.toNat i) (asInt ty (immS ty w.imm))))

/-! ## LEA, MOV and MOVI (R181) -/

def formLea (w : FmtA) : Form := formA 0x01B w (intBad w.mod [0, 1] [0, 1, 2, 3, 4, 5, 6, 7]) (.dst 2) (.src 2) (.src 1) .unused
def execLea (w : FmtA) (s : State) : Host.Outcome State Fault Refusal :=
  issueWith s (formLea w) (bodyWords w.d.toNat 2 (fun x i =>
    wrapInt 2 ((readPair x w.a.toNat i : Int) + asInt (typeOf w.mod) (readWord x w.b.toNat i).toNat * 2 ^ (w.mod.toNat % 8))))
def formLeaI (w : FmtI) : Form := formI 0x03B w (intBad w.mod [0] [0, 1, 2, 3, 4, 5, 6, 7]) (.dst 2) (.src 2)
def execLeaI (w : FmtI) (s : State) : Host.Outcome State Fault Refusal :=
  issueWith s (formLeaI w) (bodyWords w.d.toNat 2 (fun x i =>
    wrapInt 2 ((readPair x w.a.toNat i : Int) + w.imm.toInt * 2 ^ (w.mod.toNat % 8))))
def formMov (w : FmtA) : Form := intForm 0x01C w [0, 2] [0] false false
def execMov (w : FmtA) (s : State) : Host.Outcome State Fault Refusal := issueWith s (formMov w) (bitBody w (fun a _ _ => a))
def formMovi (w : FmtK) : Form :=
  { op := 0x03C, bad := w.mod != 0 || w.z != 0, g := w.g, opds := [⟨0, w.d.toNat, .dst 1, false⟩], compute := true, inWindow := true }
def execMovi (w : FmtK) (s : State) : Host.Outcome State Fault Refusal :=
  issueWith s (formMovi w) (bodyWords w.d.toNat 1 (fun _ _ => w.imm.toNat))

end Sys2Proof.Machine
end

