-- ==== Sys2Proof/Machine/Lane.lean ====
section
/-! DEFINITION. Class 2, the lane and predicate instructions (R192 to R198, R71). -/

namespace Sys2Proof.Machine

open Sys2Proof

/-- The segment width of a code (R192), none where it is reserved. -/
def segWidth (code : Nat) : Option Nat := [96, 48, 32, 24, 16, 12, 8, 6, 4, 3, 2][code]?

def segOf (m : BitVec 8) : Nat := (segWidth (m.toNat / 16)).getD 96
def segBad (m : BitVec 8) : Bool := (segWidth (m.toNat / 16)).isNone

/-! ## SHFL (R193) -/

/-- The source position in a segment of width w for position p. -/
def shflPos (mode p : Nat) (b : Nat) : Int :=
  match mode with
  | 0 => b
  | 1 => (p : Int) - b
  | 2 => (p : Int) + b
  | _ => (p ^^^ b : Nat)

def shflBody (d a : Nat) (m : BitVec 8) (b : Iss → Nat → Nat) : Iss → Mask → State → Res :=
  let w := segOf m
  bodyWords d 1 (fun x i =>
    let p := i % w
    let q := shflPos (m.toNat % 4) p (b x i)
    let src := i - p + q.toNat
    if 0 ≤ q ∧ q < w ∧ x.sp.mask.getLsbD src then (readWord x a src).toNat else (readWord x a i).toNat)

def shflBad (m : BitVec 8) : Bool := segBad m || m.toNat / 4 % 4 != 0

/-- SHFL's A may be a constant, as of any compute instruction (R94, R95; log entry 128). -/
def formShfl (w : FmtA) : Form := formA 0x090 w (shflBad w.mod) (.dst 1) (.src 1) (.src 1) .unused
def execShfl (w : FmtA) (s : State) : Host.Outcome State Fault Refusal :=
  issueWith s (formShfl w) (shflBody w.d.toNat w.a.toNat w.mod (fun x i => (readWord x w.b.toNat i).toNat))
def formShflI (w : FmtI) : Form := formI 0x0B0 w (shflBad w.mod) (.dst 1) (.src 1)
def execShflI (w : FmtI) (s : State) : Host.Outcome State Fault Refusal :=
  issueWith s (formShflI w) (shflBody w.d.toNat w.a.toNat w.mod (fun _ _ => w.imm.toNat))

/-! ## VOTE (R194) -/

/-- VOTE's A may be a constant, as of any compute instruction (R94, R95; log entry 128). -/
def formVote (w : FmtA) : Form :=
  let p := w.mod.getLsbD 2
  formA 0x091 w (decide (8 ≤ w.mod.toNat) || (p && w.mod.toNat % 4 == 2))
    (.dstScal60 (if w.mod.toNat % 4 = 3 then 3 else 1)) (if p then .srcPred else .src 1) .unused .unused

/-- The vote over the acting lanes, as a number of 32 or 96 bits. -/
def voteVal (w : FmtA) (x : Iss) (act : Mask) : Nat :=
  let t (i : Nat) : Bool := if w.mod.getLsbD 2 then predBit x w.a.toNat i else readWord x w.a.toNat i != 0
  match w.mod.toNat % 4 with
  | 0 => if act.lanes.all t then 1 else 0
  | 1 => if act.lanes.any t then 1 else 0
  | 2 => if act.lanes.all (fun i => readWord x w.a.toNat i == readWord x w.a.toNat act.lowest) then 1 else 0
  | _ => (Mask.ofPred (fun i => act.getLsbD i && t i)).toNat

def bodyVote (w : FmtA) (x : Iss) (act : Mask) (s : State) : Res :=
  bodyWords w.d.toNat (if w.mod.toNat % 4 = 3 then 3 else 1) (fun x _ => voteVal w x act) x act s

def execVote (w : FmtA) (s : State) : Host.Outcome State Fault Refusal := issueWith s (formVote w) (bodyVote w)

/-! ## LRED and LSCAN (R195 to R197) -/

/-- One combination of R195. -/
def laneCombine (code : Nat) (s a : Nat) : Nat :=
  match code with
  | 0 => (s + a) % 2 ^ 32
  | 1 => if asInt 0 s ≤ asInt 0 a then s else a
  | 2 => min s a
  | 3 => if asInt 0 a ≤ asInt 0 s then s else a
  | 4 => max s a
  | 5 => fp32.encode .rne ((fp32.decode s).add .rne (fp32.decode a))
  | 6 => fminmaxBits fp32 false s a
  | 7 => fminmaxBits fp32 true s a
  | 8 => s &&& a
  | 9 => s ||| a
  | _ => s ^^^ a

/-- The identity of an operation (R195). -/
def laneIdentity (code : Nat) : Nat :=
  [0, 0x7FFFFFFF, 0xFFFFFFFF, 0x80000000, 0, 0x80000000, 0x7F800000, 0xFF800000, 0xFFFFFFFF, 0, 0].getD code 0

/-- One round of the pairwise tree (R71): neighbours combined, an odd last value carried up. -/
def pairRound {α : Type} (f : α → α → α) : List α → List α
  | a :: b :: t => f a b :: pairRound f t
  | l => l

/-- The pairwise tree over a list. -/
def pairTree {α : Type} (f : α → α → α) : Nat → List α → List α
  | 0, l => l
  | n + 1, l => if l.length ≤ 1 then l else pairTree f n (pairRound f l)

/-- A NaN result is the canonical NaN (R49), also where nothing was combined (log entry 114). -/
def FFmt.canon (f : FFmt) (v : Nat) : Nat := if (f.decode v).isNan then f.nanCode else v

/-- The reduction of a nonempty list: the tree of R71 for fadd, otherwise in lane order, which the exact codes
do not show. -/
def lredVal (code : Nat) (vs : List Nat) : Nat :=
  if code = 5 then fp32.canon ((pairTree (laneCombine 5) 8 vs).headD 0)
  else
    match vs with
    | [] => 0
    | v :: t =>
      let r := t.foldl (laneCombine code) v
      if code = 6 ∨ code = 7 then fp32.canon r else r

/-- The acting lanes of the segment of lane i. -/
def segLanes (w : Nat) (act : Mask) (i : Nat) : List Nat := act.lanes.filter (fun j => j / w == i / w)

/-- LRED's A may be a constant, as of any compute instruction (R94, R95; log entry 128). -/
def formLred (w : FmtA) : Form :=
  formA 0x092 w (segBad w.mod || decide (11 ≤ w.mod.toNat % 16))
    (if segOf w.mod = 96 then .dstAny 1 else .dstVec 1) (.src 1) .unused .unused

def bodyLred (w : FmtA) (x : Iss) (act : Mask) (s : State) : Res :=
  bodyWords w.d.toNat 1 (fun x i =>
    lredVal (w.mod.toNat % 16) ((segLanes (segOf w.mod) act i).map (fun j => (readWord x w.a.toNat j).toNat))) x act s

def execLred (w : FmtA) (s : State) : Host.Outcome State Fault Refusal := issueWith s (formLred w) (bodyLred w)

/-- LSCAN's A may be a constant, as of any compute instruction (R94, R95; log entry 128). -/
def formLscan (w : FmtA) : Form := formA 0x093 w (segBad w.mod) (.dstVec 1) (.src 1) .unused .unused

def bodyLscan (w : FmtA) (x : Iss) (act : Mask) (s : State) : Res :=
  let code := w.mod.toNat % 8
  bodyWords w.d.toNat 1 (fun x i =>
    let ls := (segLanes (segOf w.mod) act i).filter (fun j => if w.mod.getLsbD 3 then decide (j < i) else decide (j ≤ i))
    ls.foldl (fun acc j => laneCombine code acc (readWord x w.a.toNat j).toNat) (laneIdentity code)) x act s

def execLscan (w : FmtA) (s : State) : Host.Outcome State Fault Refusal := issueWith s (formLscan w) (bodyLscan w)

/-! ## Predicates (R198) -/

def formPand (w : FmtA) : Form := formA 0x098 w (decide (2 ≤ w.mod.toNat)) .dstPred .srcPred .srcPred .unused
def execPand (w : FmtA) (s : State) : Host.Outcome State Fault Refusal :=
  issueWith s (formPand w) (bodyPred w.d.toNat (fun x i =>
    predBit x w.a.toNat i && (predBit x w.b.toNat i != w.mod.getLsbD 0)))
def formPor (w : FmtA) : Form := formA 0x099 w (decide (2 ≤ w.mod.toNat)) .dstPred .srcPred .srcPred .unused
def execPor (w : FmtA) (s : State) : Host.Outcome State Fault Refusal :=
  issueWith s (formPor w) (bodyPred w.d.toNat (fun x i =>
    predBit x w.a.toNat i || (predBit x w.b.toNat i != w.mod.getLsbD 0)))
def formPnot (w : FmtA) : Form := formA 0x09A w (w.mod != 0) .dstPred .srcPred .unused .unused
def execPnot (w : FmtA) (s : State) : Host.Outcome State Fault Refusal :=
  issueWith s (formPnot w) (bodyPred w.d.toNat (fun x i => !predBit x w.a.toNat i))
def formPcnt (w : FmtA) : Form := formA 0x09B w (w.mod != 0) (.dstScal60 1) .srcPred .unused .unused
def bodyPcnt (w : FmtA) (x : Iss) (act : Mask) (s : State) : Res :=
  bodyWords w.d.toNat 1 (fun x _ => (act.lanes.filter (predBit x w.a.toNat)).length) x act s
def execPcnt (w : FmtA) (s : State) : Host.Outcome State Fault Refusal := issueWith s (formPcnt w) (bodyPcnt w)

end Sys2Proof.Machine
end

