-- ==== Sys2Proof/Machine/Launch.lean ====
section
/-! DEFINITION. Launching a child grid: LAUNCH and LAUNCHI (R307, R308, R310, R312). -/

namespace Sys2Proof.Machine

open Sys2Proof

/-- What a launch states: of a KERNEL node or of an instruction. -/
structure LaunchArgs where
  image : Nat
  param : Nat
  ind : Bool
  countArg : Nat
  seed : Word
  scope : Nat
  cwaddr : Nat
  cwval : Word
  depth : Nat
  deriving DecidableEq, Repr

/-- A launched instance, ready to be verified. -/
def newInst (id pkg ctx epoch : Nat) (launcher : Launcher) (aborted : Bool) (a : LaunchArgs) : Inst :=
  { id := id, pkg := pkg, ctx := ctx, epoch := epoch, state := .ready, image := a.image, launcher := launcher, ind := a.ind
    countArg := a.countArg, count := 0, param := a.param, seed := a.seed, scope := a.scope, cwaddr := a.cwaddr, cwval := a.cwval
    depth := a.depth, abortAtStart := aborted, codeVa := 0, codeLen := 0, regs := 0, ashrows := 0, handler := none
    regions := [], views := [], curcls := 0, levels := [], cbase := 0, csize := 0, area := 0, placed := [], abort := []
    barriers := [], departed := [], retired := 0, maxCt := 0 }

/-- A child launched now has its parent's standing for placement (R297). -/
def Inst.asOf (parent : Inst) (since : Nat) (k : Inst) : Inst := { k with prio := parent.prio, since := since }

/-- Epoch of a context on a package. -/
def epochOf (s : State) (pkg ctx : Nat) : Nat :=
  match s.ctx? pkg ctx with
  | some c => c.epoch
  | none => 0

/-- The form of LAUNCH and LAUNCHI; MOD[3:0] must be zero. -/
def formLaunchOp (op : Nat) (w : FmtA) : Form := formX op w (modLo w.mod != 0) (.dstScal60 1) (.srcScal 1) (.srcScal 1) (.desc 8)

/-- The octet and the words of a launch. -/
def launchArgs (x : Iss) (w : FmtA) (ind : Bool) : LaunchArgs :=
  let o (j : Nat) : Nat := descWord x w.c.toNat j
  { image := o 0 + 2 ^ 32 * o 1, param := o 2 + 2 ^ 32 * o 3, ind := ind
    countArg := if ind then o 4 + 2 ^ 32 * o 5 else o 4
    seed := readWord x w.b.toNat 0, scope := modHi w.mod, cwaddr := o 6 + 2 ^ 32 * o 7, cwval := readWord x w.a.toNat 0
    depth := x.k.depth + 1 }

/-- The words a launch names: the count word where there is one, and the completion word where there is one, each
with whether only a W entry locks it. -/
def launchWords (a : LaunchArgs) : List (Nat × Bool) :=
  (if a.ind then [(a.countArg, true)] else []) ++ (if a.cwaddr = 0 then [] else [(a.cwaddr, false)])

/-- Checks 2 to 4 of R312. -/
def launchTrap (s : State) (x : Iss) (a : LaunchArgs) : Option Trap :=
  let ws := launchWords a
  match ws.find? (fun p => p.1 % 4 != 0) with
  | some p => some (alignTrap p.1)
  | none =>
    match ws.find? (fun p => (routeOf s x.g.pkg x.g.ctx p.1).isNone) with
    | some p => some { cause := cADDR, info := 0, addr := p.1 }
    | none =>
      match ws.find? (fun p => rltHit s x.g.pkg x.g.core p.1 p.2) with
      | some p => some { cause := cRLOCK, info := 0, addr := p.1 }
      | none => none

/-- The line of a node that the group lies in is seen raised. -/
def groupSeesAbort (x : Iss) : Bool := seenRaised x.k x.g.rank 0 (treeG x.k.levels)

/-- LAUNCH and LAUNCHI after their operands are read. -/
def bodyLaunchOp (form : Form) (w : FmtA) (ind : Bool) (x : Iss) (s : State) : Res :=
  let a := launchArgs x w ind
  if ind = false ∧ descWord x w.c.toNat 5 ≠ 0 then .trap form.trapIllop
  else orTrap (launchTrap s x a)
    (if fenceReady s x (modHi w.mod) then
      let k := Inst.asOf x.k (ageStart s x.g.pkg x.g.ctx) (newInst s.nextId x.g.pkg x.g.ctx (epochOf s x.g.pkg x.g.ctx)
        (.group x.g.id w.d.toNat (modHi w.mod)) (groupSeesAbort x) a)
      let s : State := { s with insts := s.insts ++ [k], nextId := s.nextId + 1 }
      let s : State := s.mapGroup x.g.id (fun g => { g with kids := g.kids + 1 })
      .done (markDirty (setPending s x.g.id [w.d.toNat]) x)
    else .block .fence)

def formLaunch (w : FmtA) : Form := formLaunchOp 0x190 w
def bodyLaunch (w : FmtA) (x : Iss) (_ : Mask) (s : State) : Res := bodyLaunchOp (formLaunch w) w false x s
def execLaunch (w : FmtA) (s : State) : Host.Outcome State Fault Refusal := issueWith s (formLaunch w) (bodyLaunch w)

def formLaunchi (w : FmtA) : Form := formLaunchOp 0x191 w
def bodyLaunchi (w : FmtA) (x : Iss) (_ : Mask) (s : State) : Res := bodyLaunchOp (formLaunchi w) w true x s
def execLaunchi (w : FmtA) (s : State) : Host.Outcome State Fault Refusal := issueWith s (formLaunchi w) (bodyLaunchi w)

end Sys2Proof.Machine
end

