-- ==== Sys2Proof/Machine/Matrix.lean ====
section
/-! DEFINITION. The matrix array (R240 to R253): step descriptors and their checks, batches, and MMA, MMAS, MCOMMIT, MWAIT, MZERO and MST. -/

namespace Sys2Proof.Machine

open Sys2Proof

/-! ## Format classes (R240) -/

/-- The class of a format code: 0 16-bit float, 1 8-bit float, 2 INT8, 3 E2M1, 4 FP64. -/
def fmtClass (fmt : Nat) : Option Nat :=
  if fmt = 1 ∨ fmt = 2 then some 0
  else if fmt = 3 ∨ fmt = 4 ∨ fmt = 5 ∨ fmt = 9 ∨ fmt = 10 ∨ fmt = 11 then some 1
  else if fmt = 6 ∨ fmt = 7 then some 2
  else if fmt = 8 then some 3
  else if fmt = 12 then some 4
  else none

/-- Greatest dense K of a class. -/
def classK (c : Nat) : Nat := [32, 64, 64, 128, 32].getD c 0
/-- Greatest K of a class with .s24. -/
def classK24 (c : Nat) : Nat := [64, 128, 128].getD c 0
/-- Chunk width of a class (R67, R70). -/
def classChunk (c : Nat) : Nat := [8, 16, 16, 32, 1].getD c 1
/-- View TYPE of a class. -/
def classType (c : Nat) : Nat := [0, 0, 2, 0, 1].getD c 0
/-- Bytes of an element in memory (R242). -/
def classBytes (c : Nat) : Nat := [2, 1, 1, 1, 8].getD c 1
/-- Rows of an M-block (R242). -/
def classBlock (c : Nat) : Nat := if c = 4 then 16 else 32

/-! ## Descriptors (R241) -/

/-- A step as its descriptor and MOD give it. -/
structure StepDesc where
  m : Nat
  n : Nat
  k : Nat
  afmt : Nat
  bfmt : Nat
  aor : Bool
  bor : Bool
  aplace : Nat
  ambs : Nat
  bplace : Nat
  sparse : Nat         -- 0 dense, 1 .s24, 2 .cb
  metaVa : Nat
  bitmap : Nat
  wordBad : Bool       -- a nonzero bit that R241 requires to be zero
  deriving DecidableEq, Repr

def isTileOp (n : Nat) : Bool := isTile n

/-- Read the descriptor of MMA or MMAS. -/
def stepDesc (x : Iss) (w : FmtA) (sparse : Nat) : StepDesc :=
  let c := w.c.toNat
  let w0 := descWord x c 0
  let w1 := descWord x c 1
  let w2 := descWord x c 2
  let w3 := descWord x c 3
  let aTileC := isTileOp w.a.toNat && w0 / 2 ^ 30 % 2 == 1
  let sp (j : Nat) : Nat := if sparse = 0 then 0 else descWord x c j
  { m := w0 % 128, n := w0 / 2 ^ 7 % 64, k := w0 / 2 ^ 13 % 512, afmt := w0 / 2 ^ 22 % 16, bfmt := w0 / 2 ^ 26 % 16
    aor := w0 / 2 ^ 30 % 2 == 1, bor := w0 / 2 ^ 31 % 2 == 1
    aplace := w1, ambs := w2 % 2 ^ 14, bplace := w3, sparse := sparse
    metaVa := sp 4 + 2 ^ 32 * sp 5, bitmap := sp 6
    wordBad := decide (2 ^ 14 ≤ w2) || (!aTileC && w2 % 2 ^ 14 != 0)
      || (isTileOp w.a.toNat && decide (2 ^ 22 ≤ w1)) || (isTileOp w.b.toNat && decide (2 ^ 22 ≤ w3))
      || sp 7 != 0 || (sparse == 2 && (sp 4 != 0 || sp 5 != 0)) || (sparse == 1 && sp 6 != 0) }

/-- Ones of a word. -/
def popcount (v : Nat) : Nat := ((List.range 32).filter (fun i => v / 2 ^ i % 2 == 1)).length

/-- Stored depth of B (R247). -/
def StepDesc.ks (d : StepDesc) : Nat :=
  match d.sparse with
  | 1 => d.k / 2
  | 2 => popcount d.bitmap * classChunk ((fmtClass d.afmt).getD 0)
  | _ => d.k

/-- K, the bitmap or Ks is outside its class's range (R240, R247, R248). -/
def StepDesc.kBad (d : StepDesc) (c : Nat) : Bool :=
  match d.sparse with
  | 1 => decide (2 < c) || isScaled d.bfmt || d.k % 4 != 0 || d.k == 0 || decide (classK24 c < d.k)
  | 2 =>
    decide (2 < c) || isScaled d.bfmt || d.k % classChunk c != 0 || d.k == 0 || decide (256 < d.k)
      || decide (2 ^ (d.k / classChunk c) ≤ d.bitmap) || decide (classK c < d.ks)
  | _ => d.k == 0 || decide (classK c < d.k)

/-- A descriptor that traps with ILLOP at step 1 of R237; the class where it does not. -/
def StepDesc.illop (d : StepDesc) (x : Iss) (w : FmtA) : Option Nat :=
  let v := viewOf (viewWord x.k w.d.toNat)
  match fmtClass d.afmt with
  | none => none
  | some c =>
    if d.wordBad = true ∨ fmtClass d.bfmt ≠ some c ∨ d.kBad c = true
        ∨ d.m = 0 ∨ 96 < d.m ∨ v.rows < d.m ∨ d.n = 0 ∨ 48 < d.n ∨ v.cols < d.n
        ∨ (isScaled d.afmt = true ∧ isTileOp w.a.toNat = false) ∨ (isScaled d.bfmt = true ∧ isTileOp w.b.toNat = false) then none
    else some c

/-! ## Places of elements (R242) -/

/-- Tile row and element column of A[m][k]. -/
def aTile (d : StepDesc) (c m k : Nat) : Nat × Nat :=
  let row := d.aplace % 2 ^ 14
  let col := d.aplace / 2 ^ 14 % 256
  if d.aor then (row + k + d.ambs * (m / classBlock c), col + m % classBlock c) else (row + m, col + k)

/-- Tile row and element column of stored B[k][n]. -/
def bTile (d : StepDesc) (k n : Nat) : Nat × Nat :=
  let row := d.bplace % 2 ^ 14
  let col := d.bplace / 2 ^ 14 % 256
  if d.bor then (row + n, col + k) else (row + k, col + n)

/-- The greatest tile row and element column of A and of B. -/
def aTileMax (d : StepDesc) (c : Nat) : Nat × Nat :=
  let row := d.aplace % 2 ^ 14
  let col := d.aplace / 2 ^ 14 % 256
  if d.aor then (row + (d.k - 1) + d.ambs * ((d.m - 1) / classBlock c), col + min (d.m - 1) (classBlock c - 1))
  else (row + (d.m - 1), col + (d.k - 1))

def bTileMax (d : StepDesc) : Nat × Nat := bTile d (d.ks - 1) (d.n - 1)

/-- Offset of A[m][k] from a, and of stored B[k][n] from b, in memory. -/
def aMem (d : StepDesc) (es m k : Nat) : Nat := if d.aor then k * d.aplace + m * es else m * d.aplace + k * es
def bMem (d : StepDesc) (es k n : Nat) : Nat := if d.bor then n * d.bplace + k * es else k * d.bplace + n * es

/-- Bytes that a memory operand spans; a stored B of depth 0 spans none. -/
def aSpan (d : StepDesc) (es : Nat) : Nat := aMem d es (d.m - 1) (d.k - 1) + es
def bSpan (d : StepDesc) (es : Nat) : Nat := if d.ks = 0 then 0 else bMem d es (d.ks - 1) (d.n - 1) + es

/-- Bytes of the metadata of .s24. -/
def metaSpan (d : StepDesc) : Nat := 48 * d.k / 4

/-! ## MMA and MMAS (R237, R244 to R249) -/

/-- Check one tile operand: naming, format, scale orientation, bounds, state (R242, R243). -/
def stepTile (s : State) (x : Iss) (n fmt : Nat) (badOr : Bool) (mx : Nat × Nat) (any : Bool) (k : Nat → Res) : Res :=
  let e := tileEntry x n
  let t := tileOf s x e
  if tileLegal x t = true ∧ t.fmt = fmt then
    match nameReader x t with
    | .trap r => .trap (tilest e r)
    | .block => .block .tile e
    | .ok _ =>
      if isScaled fmt = true ∧ badOr = true then .trap (tilest e 8)
      else if any = true ∧ (t.nrows ≤ mx.1 ∨ t.elems ≤ mx.2) then .trap (tilest e 7)
      else k e
  else .trap (tilest e 5)

/-- Steps of a group that have issued and not completed. -/
def stepsOf (s : State) (gid : Nat) : List Step := s.steps.filter (fun t => t.gid == gid)

/-- Whether the view's registers admit the step: none PENDING, or all of them with only matrix steps of the group
as producers (R245). -/
def viewJoins (s : State) (x : Iss) (rs : List Nat) : Bool :=
  rs.all (fun r => regState x.g r != .pending)
    || rs.all (fun r => regState x.g r == .pending && !(stepsWriting s x [r]).isEmpty)

/-- The step is in flight, in the group's open batch. -/
def startStep (s : State) (x : Iss) (w : FmtA) (d : StepDesc) (ranges : List Range) (ea eb : Option Nat) : State :=
  let id := s.nextId
  let opA : StepOperand := match ea with
    | some e => .tile e (d.aplace % 2 ^ 14) (d.aplace / 2 ^ 14 % 256) d.ambs d.aor
    | none => .mem (addrVal x w.a.toNat) d.aplace d.aor
  let opB : StepOperand := match eb with
    | some e => .tile e (d.bplace % 2 ^ 14) (d.bplace / 2 ^ 14 % 256) 0 d.bor
    | none => .mem (addrVal x w.b.toNat) d.bplace d.bor
  let st : Step :=
    { id := id, gid := x.g.id, holders := [x.sp.id], ctx := x.g.ctx, pkg := x.g.pkg, core := x.g.core
      view := w.d.toNat - 768, m := d.m, n := d.n, k := d.k, afmt := d.afmt, bfmt := d.bfmt, a := opA, b := opB
      zero := w.mod.getLsbD 0, sparse := d.sparse, metaVa := d.metaVa, bitmap := BitVec.ofNat 32 d.bitmap, seq := 0
      fetched := [], parked := [], epoch := ctxEpoch s x.g.pkg x.g.ctx }
  let s : State := { s with steps := s.steps ++ [st], nextId := id + 1 }
  let s : State := addRlt s x (rltEntries id ranges [])
  let drain (s : State) (e : Option Nat) : State := match e with
    | some e => setTile s x e (fun t => { t with state := .draining, uses := t.uses + 1 })
    | none => s
  let s : State := drain (drain s ea) eb
  let s : State := setPending s x.g.id (viewOf (viewWord x.k w.d.toNat)).regs
  let s : State := s.mapGroup x.g.id (fun g => { g with openBatch := g.openBatch ++ [id] })
  if w.mod.getLsbD 0 then s else markDirty s x

/-- Steps 6 and 7 of R237 for a matrix step; a ninth step commits the open batch and waits (R249, R251). -/
def admitStep (s : State) (x : Iss) (w : FmtA) (d : StepDesc) (ranges : List Range) (ea eb : Option Nat) : Res :=
  let rs := (viewOf (viewWord x.k w.d.toNat)).regs
  if viewJoins s x rs then
    if 8 ≤ (stepsOf s x.g.id).length then .block .stepLimit
    else
      match rltWait s x (rltEntries 0 ranges []) with
      | some _ => .block .rlt
      | none => .done (startStep s x w d ranges ea eb)
  else .trap { cause := cPENDWR, info := w.d.toNat }

/-- Step 5 of R237 for the tile operands, A and then B. -/
def stepTiles (s : State) (x : Iss) (w : FmtA) (d : StepDesc) (c : Nat) (k : Option Nat → Option Nat → Res) : Res :=
  let withA (k : Option Nat → Res) : Res :=
    if isTileOp w.a.toNat then stepTile s x w.a.toNat d.afmt d.aor (aTileMax d c) true (fun e => k (some e)) else k none
  let withB (k : Option Nat → Res) : Res :=
    if isTileOp w.b.toNat then stepTile s x w.b.toNat d.bfmt (!d.bor) (bTileMax d) (d.ks != 0) (fun e => k (some e)) else k none
  withA (fun ea => withB (fun eb => k ea eb))

/-- One matrix step, from its descriptor. -/
def bodyStep (form : Form) (w : FmtA) (sparse : Nat) (x : Iss) (s : State) : Res :=
  let d := stepDesc x w sparse
  match d.illop x w with
  | none => .trap form.trapIllop
  | some c =>
    if (viewOf (viewWord x.k w.d.toNat)).type ≠ classType c then .trap { cause := cILLOPD, info := 0 }
    else
      let es := classBytes c
      let a := addrVal x w.a.toNat
      let b := addrVal x w.b.toNat
      let aMemory := !isTileOp w.a.toNat
      let bMemory := !isTileOp w.b.toNat
      let al := (if aMemory then [(a, a), (d.aplace, a)] else []) ++ (if bMemory then [(b, b), (d.bplace, b)] else [])
      let ml := if sparse = 1 then [(d.metaVa, d.metaVa)] else []
      let ranges := (if aMemory then [(a, aSpan d es)] else []) ++ (if bMemory then [(b, bSpan d es)] else [])
        ++ (if sparse = 1 then [(d.metaVa, metaSpan d)] else [])
      orTrap (misaligned es al) (orTrap (misaligned 16 ml) (orTrap (badRange s x ranges)
        (stepTiles s x w d c (fun ea eb => admitStep s x w d ranges ea eb))))

/-- A step adds to its view, or with .z only writes it. -/
def stepView (w : FmtA) : Role := if w.mod.getLsbD 0 then .viewAny else .viewAcc

/-- MOD[7:1] must be zero in MMA. -/
def formMma (w : FmtA) : Form := formX 0x140 w (decide (2 ≤ w.mod.toNat)) (stepView w) .tileOrDesc .tileOrDesc (.desc 4)
def bodyMma (w : FmtA) (x : Iss) (_ : Mask) (s : State) : Res := bodyStep (formMma w) w 0 x s
def execMma (w : FmtA) (s : State) : Host.Outcome State Fault Refusal := issueWith s (formMma w) (bodyMma w)

/-- MOD[2:1] is 0 for .s24 and 1 for .cb. -/
def formMmas (w : FmtA) : Form := formX 0x141 w (decide (4 ≤ w.mod.toNat)) (stepView w) .tileOrDesc .tileOrDesc (.desc 8)
def bodyMmas (w : FmtA) (x : Iss) (_ : Mask) (s : State) : Res :=
  bodyStep (formMmas w) w (if w.mod.getLsbD 1 then 2 else 1) x s
def execMmas (w : FmtA) (s : State) : Host.Outcome State Fault Refusal := issueWith s (formMmas w) (bodyMmas w)

/-! ## Batches (R250) -/

def formMcommit (w : FmtA) : Form := formX 0x142 w (w.mod != 0) .unused .unused .unused .unused
def bodyMcommit (x : Iss) (_ : Mask) (s : State) : Res := .done (commitOpen s x.g.id)
def execMcommit (w : FmtA) (s : State) : Host.Outcome State Fault Refusal := issueWith s (formMcommit w) bodyMcommit

def formMwait (w : FmtA) : Form := formX 0x143 w (decide (16 ≤ w.mod.toNat)) .unused .unused .unused .unused
def bodyMwait (w : FmtA) (x : Iss) (_ : Mask) (s : State) : Res :=
  if x.g.mtx ≤ modLo w.mod then .done s else .block .wctr 1
def execMwait (w : FmtA) (s : State) : Host.Outcome State Fault Refusal := issueWith s (formMwait w) (bodyMwait w)

/-! ## Views (R116, R252, R253) -/

/-- Register and lane of element e of a view; the first register of a pair for FP64. -/
def viewPlace (v : View) (e : Nat) : Nat × Nat := (v.base + (if v.type = 1 then 2 else 1) * (e / 96), e % 96)

/-- The bits of element e of a view. -/
def viewGet (g : Group) (v : View) (e : Nat) : Nat :=
  let p := viewPlace v e
  let lane (n : Nat) : Nat := ((g.vregs.getD n { lanes := [] }).lanes.getD p.2 0).toNat
  if v.type = 1 then lane p.1 + 2 ^ 32 * lane (p.1 + 1) else lane p.1

/-- Write an element of a view; the register's state is left alone. -/
def viewPut (g : Group) (v : View) (e x : Nat) : Group :=
  let p := viewPlace v e
  let put (g : Group) (n x : Nat) : Group :=
    { g with vregs := modAt g.vregs n (fun r => { r with lanes := setAt r.lanes p.2 (BitVec.ofNat 32 x) }) }
  if v.type = 1 then put (put g p.1 x) (p.1 + 1) (x / 2 ^ 32) else put g p.1 x

def formMzero (w : FmtA) : Form := formX 0x144 w (w.mod != 0) .viewAny .unused .unused .unused

/-- MZERO writes zero in every element; a PENDING view traps with PENDWR, named by the view (R245, R440). -/
def bodyMzero (w : FmtA) (x : Iss) (_ : Mask) (s : State) : Res :=
  let v := viewOf (viewWord x.k w.d.toNat)
  if v.regs.any (fun r => regState x.g r == .pending) then .trap { cause := cPENDWR, info := w.d.toNat }
  else
    .done (s.mapGroup x.g.id (fun g =>
      let g := (List.range (v.rows * v.cols)).foldl (fun g e => viewPut g v e 0) g
      v.regs.foldl (fun g r => g.setRegState r .full) g))
def execMzero (w : FmtA) (s : State) : Host.Outcome State Fault Refusal := issueWith s (formMzero w) (bodyMzero w)

/-- The formats a view TYPE may be stored in (R253). -/
def mstFormats (type : Nat) : List Nat :=
  match type with
  | 0 => [0, 1, 2, 3, 4, 5]
  | 1 => [12, 0]
  | _ => [0, 6, 7]

/-- Bytes of an element of a stored format. -/
def mstBytes (fmt : Nat) : Nat := elemBits fmt / 8

/-- The stored code of an element of a view (R253). -/
def mstConv (type fmt v : Nat) : Nat :=
  match type with
  | 1 => if fmt = 12 then v else fp32.encode .rne (fp64.decode v)
  | 2 =>
    match fmt with
    | 6 => ((clampInt (asInt 0 v) (-128) 127) % 256).toNat
    | 7 => (clampInt (asInt 0 v) 0 255).toNat
    | _ => v
  | _ => if fmt = 0 then v else elemEncode fmt .rne (fp32.decode v)

/-- Format codes that MST admits for no view (R253): ILLOP whatever the view. -/
def mstReserved (fmt : Nat) : Bool := !(mstFormats 0 ++ mstFormats 1 ++ mstFormats 2).contains fmt

def formMst (w : FmtA) : Form := formX 0x145 w (mstReserved (modLo w.mod)) .tileOrDesc .viewRead (.srcScal 1) (.srcScal 1)

/-- The view source's registers at step 6 of R237: EMPTYRD, ORPHAN or a block. -/
def viewSource (x : Iss) (w : FmtA) (k : Res) (block : Res) : Res :=
  match srcEmpty x.g (viewOf (viewWord x.k w.a.toNat)).regs (epBit w.ep 0) with
  | .ready => k
  | .emptyRd _ => .trap { cause := cEMPTYRD, info := w.a.toNat }
  | .orphan n => .trap { cause := cORPHAN, info := n }
  | .blocked => block

/-- The codes of a view's elements, by rows. -/
def mstRows (g : Group) (v : View) (fmt : Nat) : List (List Nat) :=
  (List.range v.rows).map (fun r => (List.range v.cols).map (fun c => mstConv v.type fmt (viewGet g v (r * v.cols + c))))

/-- A block on a view source: its producers' batch is committed (R251). -/
def blockOnView (s : State) (x : Iss) (rs : List Nat) : Res := .blockIn (commitFor s x rs) .source rs

def bodyMst (w : FmtA) (x : Iss) (_ : Mask) (s : State) : Res :=
  let v := viewOf (viewWord x.k w.a.toNat)
  let fmt := modLo w.mod
  let b := wordVal x w.b.toNat
  let ctl := wordVal x w.c.toNat
  let tile := isTileOp w.d.toNat
  let scope := modHi w.mod
  let blocked := blockOnView s x v.regs
  if (mstFormats v.type).contains fmt = false ∨ (tile = true ∧ 2 ^ 22 ≤ b) ∨ ctlBad s x ctl false = true then .trap (formMst w).trapIllop
  else if tile then
    let row := b % 2 ^ 14
    let col := b / 2 ^ 14 % 256
    let e := tileEntry x w.d.toNat
    let t := tileOf s x e
    if tileLegal x t = false ∨ t.fmt ≠ fmt then .trap (tilest e 5)
    else
      match nameWriter x t with
      | .trap r => .trap (tilest e r)
      | .block => .block .tile e
      | .ok _ =>
        if t.nrows < row + v.rows ∨ t.elems < col + v.cols then .trap (tilest e 7)
        else viewSource x w (issueEng s x
          { kind := .mstTile e row col fmt v.rows v.cols (mstRows x.g v fmt), reads := [], writes := [], fill := some e } ctl scope)
          blocked
  else
    let d := addrVal x w.d.toNat
    let es := mstBytes fmt
    let span := (v.rows - 1) * b + v.cols * es
    orTrap (misaligned es [(d, d), (b, d)]) (orTrap (badRange s x [(d, span)])
      (viewSource x w (issueEng s x
        { kind := .mstMem d b fmt v.rows v.cols ((mstRows x.g v fmt).map (fun r => r.flatMap (toLE es)))
          reads := [], writes := [(d, span)] } ctl scope)
        blocked))
def execMst (w : FmtA) (s : State) : Host.Outcome State Fault Refusal := issueWith s (formMst w) (bodyMst w)

end Sys2Proof.Machine
end

