-- ==== Sys2Proof/Machine/NearMem.lean ====
section
/-! DEFINITION. The near-memory instructions and REDGO at issue (R379 to R382, R387). -/

namespace Sys2Proof.Machine

open Sys2Proof

/-! ## What the five instructions share (R379) -/

/-- MOD[7:4] must be zero.  What is wrong with these traps at step 2 of R97 (log entry 145). -/
def formNm (op : Nat) (w : FmtA) (bad : Bool) (d b c : Role) : Form :=
  formX op w (bad || modHi w.mod != 0) d (.desc 2) b c

/-- ROPSITE: a compute-homed range, a set of more than one pseudo-channel, or another package's home. -/
def nmSite (s : State) (x : Iss) (va : Nat) : Option Trap :=
  match routeOf s x.g.pkg x.g.ctx va with
  | none => some { cause := cADDR, info := 0, addr := va }
  | some e =>
    if e.mh = false then some { cause := cROPSITE, info := 0xFFFFF }
    else if e.log2n ≠ 0 then some { cause := cROPSITE, info := 0xFFFFE }
    else if e.home ≠ x.g.pkg then some { cause := cROPSITE, info := 0xFFFFD }
    else none

/-- The pseudo-channel of an address. -/
def pchAt (s : State) (x : Iss) (va : Nat) : Nat :=
  match routeOf s x.g.pkg x.g.ctx va, s.ctx? x.g.pkg x.g.ctx with
  | some e, some c => c.pchOf e va
  | _, _ => 0

/-- The command goes to its pseudo-channel: D is PENDING and the region dirty. -/
def sendNm (s : State) (x : Iss) (act : Mask) (va d : Nat) (kind : NmKind) : State :=
  let n : Nm :=
    { id := s.nextId, gid := x.g.id, split := x.sp.id, ctx := x.g.ctx, pkg := x.g.pkg, core := x.g.core, pch := pchAt s x va, va := va
      kind := kind, d := d, epoch := (match s.ctx? x.g.pkg x.g.ctx with | some c => c.epoch | none => 0), mask := act
      gw := x.g.gidWord }
  let s : State := { s with nms := s.nms ++ [n], nextId := s.nextId + 1 }
  markDirty (setPending s x.g.id [d]) x

/-- A near-memory instruction whose words are good. -/
def issueNm (s : State) (x : Iss) (act : Mask) (w : FmtA) (kind : NmKind) : Res :=
  let va := addrVal x w.a.toNat
  orTrap (nmSite s x va) (.done (sendNm s x act va w.d.toNat kind))

/-! ## NMMODE (R380) -/

def formNmmodeOn (w : FmtA) : Form := formNm 0x1D0 w (modLo w.mod % 2 == 0 || decide (4 ≤ modLo w.mod)) (.dstScal60 1) .unused .unused
def bodyNmmodeOn (w : FmtA) (x : Iss) (act : Mask) (s : State) : Res := issueNm s x act w (.on (w.mod.getLsbD 1))
def execNmmodeOn (w : FmtA) (s : State) : Host.Outcome State Fault Refusal := issueWith s (formNmmodeOn w) (bodyNmmodeOn w)

def formNmmodeOff (w : FmtA) : Form := formNm 0x1D0 w (modLo w.mod != 0) (.dstScal60 1) .unused .unused
def bodyNmmodeOff (w : FmtA) (x : Iss) (act : Mask) (s : State) : Res := issueNm s x act w .off
def execNmmodeOff (w : FmtA) (s : State) : Host.Outcome State Fault Refusal := issueWith s (formNmmodeOff w) (bodyNmmodeOff w)

/-! ## NMBC and NMZERO -/

def formNmbc (w : FmtA) : Form := formNm 0x1D1 w (modLo w.mod != 0) (.dstScal60 1) (.src 1) (.srcScal 1)

def bodyNmbc (w : FmtA) (x : Iss) (act : Mask) (s : State) : Res :=
  let c := wordVal x w.c.toNat
  let e0 := c % 256
  let n := c / 256 % 128
  if n = 0 ∨ 96 < n ∨ 2 ^ 15 ≤ c ∨ 256 < e0 + n then .trap (formNmbc w).trapIllop
  else issueNm s x act w (.bc e0 n ((List.range n).map (fun j => readWord x w.b.toNat j)))
def execNmbc (w : FmtA) (s : State) : Host.Outcome State Fault Refusal := issueWith s (formNmbc w) (bodyNmbc w)

def formNmzero (w : FmtA) : Form := formNm 0x1D4 w (modLo w.mod != 0) (.dstScal60 1) (.srcScal 1) .unused

def bodyNmzero (w : FmtA) (x : Iss) (act : Mask) (s : State) : Res :=
  let b := wordVal x w.b.toNat
  let a0 := b % 64
  let k := b / 64 % 128
  if k = 0 ∨ 64 < k ∨ 2 ^ 13 ≤ b ∨ 64 < a0 + k then .trap (formNmzero w).trapIllop
  else issueNm s x act w (.zero a0 k)
def execNmzero (w : FmtA) (s : State) : Host.Outcome State Fault Refusal := issueWith s (formNmzero w) (bodyNmzero w)

/-! ## NMMAC (R381) -/

def formNmmac (w : FmtA) : Form := formNm 0x1D2 w (modLo w.mod != 0) (.dstScal60 1) (.srcScal 1) (.srcScal 1)

/-- The words of an NMMAC are outside their ranges; c0 is the burst column of its address. -/
def nmmacBad (b c c0 : Nat) : Bool :=
  let nb := b % 128
  let a0 := b / 128 % 64
  let lr := b / 2 ^ 13 % 8
  let r := 2 ^ lr
  nb == 0 || decide (64 < nb) || decide (4 < lr) || decide (2 ^ 16 ≤ b) || decide (2 ^ 16 ≤ c) || decide (64 < c0 + nb)
    || decide (64 < a0 + (nb + r - 1) / r) || decide (255 < c % 256 + 15 * (c / 256 % 256) + 16 * (r - 1) + 15)

/-- A span meets a W entry of the core (R165). -/
def spanLocked (s : State) (x : Iss) (va n : Nat) : Bool :=
  (rltOf s x).any (fun e => e.write && decide (e.lo < va56 va + n) && decide (va56 va < e.hi))

def bodyNmmac (w : FmtA) (x : Iss) (act : Mask) (s : State) : Res :=
  let va := addrVal x w.a.toNat
  let b := wordVal x w.b.toNat
  let c := wordVal x w.c.toNat
  if nmmacBad b c (va / 512 % 64) then .trap (formNmmac w).trapIllop
  else orTrap (misaligned 512 [(va, va)]) (orTrap (nmSite s x va)
    (if spanLocked s x va (512 * (b % 128)) then .trap { cause := cRLOCK, info := 0, addr := va }
     else .done (sendNm s x act va w.d.toNat (.mac (b % 128) (b / 128 % 64) (b / 2 ^ 13 % 8) (c % 256) (c / 256 % 256)))))
def execNmmac (w : FmtA) (s : State) : Host.Outcome State Fault Refusal := issueWith s (formNmmac w) (bodyNmmac w)

/-! ## NMRD (R382) -/

def formNmrd (w : FmtA) : Form := formNm 0x1D3 w (modLo w.mod != 0) (.dstVec 1) (.srcScal 1) .unused

def bodyNmrd (w : FmtA) (x : Iss) (act : Mask) (s : State) : Res :=
  let b := wordVal x w.b.toNat
  let a0 := b % 64
  let k := b / 64 % 8
  if k = 0 ∨ 6 < k ∨ 2 ^ 9 ≤ b ∨ 64 < a0 + k then .trap (formNmrd w).trapIllop
  else issueNm s x act w (.rd a0 k)
def execNmrd (w : FmtA) (s : State) : Host.Outcome State Fault Refusal := issueWith s (formNmrd w) (bodyNmrd w)

/-! ## REDGO (R387) -/

def formRedgo (w : FmtA) : Form := formX 0x1D8 w (modLo w.mod != 0) (.dstScal60 1) (.desc 2) .unused (.srcScal 1)

def bodyRedgo (w : FmtA) (x : Iss) (_ : Mask) (s : State) : Res :=
  let a := addrVal x w.a.toNat
  let ctl := wordVal x w.c.toNat
  let d := w.d.toNat
  if ctlBad s x ctl false then .trap (formRedgo w).trapIllop
  else orTrap (misaligned 64 [(a, a)]) (orTrap (badRange s x [(a, 256)])
    (if spanLocked s x a 256 then .trap { cause := cRLOCK, info := 0, addr := a }
     else
      let p : EngPlan := { kind := .redgo a d, reads := [(a, 256)], writes := [] }
      match engWait s x p ctl with
      | some _ => .block .rlt
      | none => .done (setPending (startEng s x p ctl (modHi w.mod) none) x.g.id [d])))
def execRedgo (w : FmtA) (s : State) : Host.Outcome State Fault Refusal := issueWith s (formRedgo w) (bodyRedgo w)

end Sys2Proof.Machine
end

