-- ==== Sys2Proof/Machine/QueueInstr.lean ====
section
/-! DEFINITION. Arming a queue and writing a cue word: GARM and CUEW (R300, R301); and the hint PGHINT (R406). -/

namespace Sys2Proof.Machine

open Sys2Proof

/-! ## GARM (R300) -/

def formGarm (w : FmtA) : Form := formX 0x198 w (modLo w.mod != 0) (.dstScal60 1) (.srcScal 1) .unused .unused

/-- The arm word of a queue as the device last took its entry; none where GARM finds the queue absent. -/
def armWordOf (s : State) (pkg ctx q : Nat) : Option Nat :=
  match s.ctx? pkg ctx with
  | none => none
  | some c =>
    match c.queues.find? (fun e => e.num == q) with
    | some e => if e.taken && e.exists_ then some e.armw else none
    | none => none

/-- A word on its way to a scalar with no access behind it: its destination is PENDING until it is delivered (R117, R300). -/
def sendAnswer (s : State) (x : Iss) (d : Nat) (act : Mask) (v : Nat) : State :=
  let l : Load :=
    { id := s.nextId, gid := x.g.id, holders := [x.sp.id], ctx := x.g.ctx, pkg := x.g.pkg, core := x.g.core, use := .const d true, width := 4
      plain := true, acq := none, windowed := false, kind := 2
      lanes := [{ lane := act.lowest, va := 0, performed := true, data := toLE 4 v }], mask := act, place := x.sp.at
      gw := x.g.gidWord, epoch := ctxEpoch s x.g.pkg x.g.ctx }
  { s with loads := s.loads ++ [l], nextId := s.nextId + 1 }

def bodyGarm (w : FmtA) (x : Iss) (act : Mask) (s : State) : Res :=
  let a := wordVal x w.a.toNat
  let d := w.d.toNat
  if 64 ≤ a then .trap (formGarm w).trapIllop
  else
    match armWordOf s x.g.pkg x.g.ctx a with
    | none =>
      if fenceReady s x (modHi w.mod) then
        .done (markDirty (sendAnswer (setPending s x.g.id [d]) x d act 0xFFFFFFFF) x)
      else .block .fence
    | some va =>
      let la := [(act.lowest, va)]
      match accessTrap s x true 4 false la with
      | some t => .trap t
      | none =>
        if fenceReady s x (modHi w.mod) then
          .done (issueWrite (dropGuests (markDirty (setPending s x.g.id [d]) x) x.g.pkg x.g.ctx [va]) x (some 0) (.garm d) 4 none 2
            act true [{ lane := act.lowest, va := va, data := toLE 4 1 }])
        else .block .fence
def execGarm (w : FmtA) (s : State) : Host.Outcome State Fault Refusal := issueWith s (formGarm w) (bodyGarm w)

/-! ## CUEW (R301) -/

def formCuew (w : FmtM) : Form :=
  { op := 0x199, bad := (w.ord != 0 && w.ord != 8) || scopeBad w || epBadM w true, g := w.g
    opds := opdsM w (.srcScal 1) .abScal true, once := true }

def bodyCuew (w : FmtM) (x : Iss) (act : Mask) (s : State) : Res :=
  let la := laneAddrs x w.ab.toNat w.off.toInt 4 true act
  match accessTrap s x true 4 false la with
  | some t => .trap t
  | none =>
    if w.ord ≠ 0 ∧ fenceReady s x w.scope.toNat = false then .block .fence
    else
      .done (issueWrite (dropGuests (markDirty s x) x.g.pkg x.g.ctx (la.map (·.2))) x (some 0) .none 4 none 2 act true
        (atomLanes 0 w.d.toNat x la) (w.ord != 0))
def execCuew (w : FmtM) (s : State) : Host.Outcome State Fault Refusal := issueWith s (formCuew w) (bodyCuew w)

/-! ## PGHINT (R406) -/

def formPghint (w : FmtM) : Form :=
  { op := 0x1DC, bad := decide (4 ≤ w.ord.toNat) || w.scope != 0 || epBit w.ep 2
    g := w.g, opds := opdsM w .hintScal .hintPair true, once := true, hint := true }

/-- The record of a migration hint, posted for a page whatever its state (R399). -/
def hintRecord (s : State) (x : Iss) (va : Nat) : State :=
  match routeOf s x.g.pkg x.g.ctx va, s.ctx? x.g.pkg x.g.ctx with
  | some e, some c => faultRec s e.home x.g.ctx 10 3 false x.g.gidWord va (c.pchOf e va) 0
  | _, _ => faultRec s x.g.pkg x.g.ctx 10 3 false x.g.gidWord va 0 0

/-- The registers that PGHINT reads. -/
def pghintRegs (w : FmtM) : List Nat :=
  [w.ab.toNat, w.ab.toNat + 1] ++ if w.d.toNat < 704 then [w.d.toNat] else []

/-- A hint waits for a PENDING source and is dropped where one is VOID; .mig posts its records, and the other
kinds change neither a register nor data in memory. -/
def bodyPghint (w : FmtM) (x : Iss) (_ : Mask) (s : State) : Res :=
  match srcEmpty x.g (pghintRegs w) false with
  | .blocked => .blockIn s .source (pghintRegs w)
  | .orphan _ | .emptyRd _ => .done s
  | .ready =>
    let n := wordVal x w.d.toNat
    if n = 0 ∨ 512 < n then .trap (formPghint w).trapIllop
    else if w.ord = 2 then
      let ea := effAddr x w.ab.toNat w.off.toInt 0 true 0
      let first := ea / 2 ^ 21 * 2 ^ 21
      .done ((List.range n).foldl (fun s i => hintRecord s x ((first + 2 ^ 21 * i) % 2 ^ 64)) s)
    else .done s
def execPghint (w : FmtM) (s : State) : Host.Outcome State Fault Refusal := issueWith s (formPghint w) (bodyPghint w)

end Sys2Proof.Machine
end

