-- ==== Sys2Proof/Machine/Remote.lean ====
section
/-! DEFINITION. The remote opcode instructions at issue: ROPLD and ROPDROP (R362), ROP and ROPR (R364 to R367), and the mask instructions, which kernel code may not hold (R106, R359). -/

namespace Sys2Proof.Machine

open Sys2Proof

/-! ## ROPLD and ROPDROP (R353, R362) -/

/-- A load or drop of a definition slot in flight: D is PENDING and the region dirty. -/
def startDefOp (s : State) (x : Iss) (slot d : Nat) (load : Bool) (va len : Nat) (code : Option Nat) (lead : Bool) : State :=
  let o : DefOp :=
    { id := s.nextId, gid := x.g.id, ctx := x.g.ctx, pkg := x.g.pkg, core := x.g.core, slot := slot, d := d, load := load, va := va, len := len
      units := [], code := code, lead := lead, holders := [x.sp.id], gw := x.g.gidWord
      epoch := ctxEpoch s x.g.pkg x.g.ctx }
  let s : State := { s with defOps := s.defOps ++ [o], nextId := s.nextId + 1 }
  markDirty (setPending s x.g.id [d]) x

def formRopld (w : FmtA) : Form := formX 0x1C0 w (w.mod != 0) (.dstScal60 1) (.desc 2) (.srcScal 1) (.srcScal 1)

/-- Another ROPLD of the same image is loading the slot; this one ends as it does. -/
def sameLoading (s : State) (pkg ctx slot va len : Nat) : Bool :=
  s.defOps.any (fun o => o.ctx == ctx && inSpan s pkg ctx o.pkg && o.slot == slot && o.load && o.lead && o.va == va && o.len == len)

def bodyRopld (w : FmtA) (x : Iss) (_ : Mask) (s : State) : Res :=
  let slot := wordVal x w.c.toNat
  let va := addrVal x w.a.toNat
  let len := wordVal x w.b.toNat
  let d := w.d.toNat
  if 64 ≤ slot then .trap (formRopld w).trapIllop
  else orTrap (misaligned 8 [(va, va)])
    (if (routeOf s x.g.pkg x.g.ctx va).isNone then .trap { cause := cADDR, info := 0, addr := va }
     else
      let sl := slotOf s x.g.pkg x.g.ctx slot
      match sl.state with
      | .loaded => .done (startDefOp s x slot d true va len (some (if sl.va = va ∧ sl.len = len then 0 else 0x37)) false)
      | .loading =>
        .done (startDefOp s x slot d true va len (if sameLoading s x.g.pkg x.g.ctx slot va len then none else some 0x37) false)
      | .dropping => .done (startDefOp s x slot d true va len (some 0x37) false)
      | .empty =>
        if 4096 < len then .done (startDefOp s x slot d true va len (some 0x3A) false)
        else .done (startDefOp (setSlots s x.g.pkg x.g.ctx slot (fun t => { t with state := .loading })) x slot d true va len none true))
def execRopld (w : FmtA) (s : State) : Host.Outcome State Fault Refusal := issueWith s (formRopld w) (bodyRopld w)

def formRopdrop (w : FmtA) : Form := formX 0x1C1 w (w.mod != 0) (.dstScal60 1) (.srcScal 1) .unused .unused

def bodyRopdrop (w : FmtA) (x : Iss) (_ : Mask) (s : State) : Res :=
  let slot := wordVal x w.a.toNat
  if 64 ≤ slot then .trap (formRopdrop w).trapIllop
  else if (slotOf s x.g.pkg x.g.ctx slot).state = .loaded then
    .done (startDefOp (setSlots s x.g.pkg x.g.ctx slot (fun t => { t with state := .dropping })) x slot w.d.toNat false 0 0 none true)
  else .done (startDefOp s x slot w.d.toNat false 0 0 (some 0x39) false)
def execRopdrop (w : FmtA) (s : State) : Host.Outcome State Fault Refusal := issueWith s (formRopdrop w) (bodyRopdrop w)

/-! ## ROP and ROPR (R364 to R367) -/

/-- ORD, MOD[3:2]. -/
def ropOrd (m : BitVec 8) : Nat := m.toNat / 4 % 4

def formRop (w : FmtA) : Form :=
  formX 0x1C2 w (w.mod.getLsbD 0 || ropOrd w.mod % 2 == 1 || (ropOrd w.mod == 0 && modHi w.mod != 0))
    (if w.mod.getLsbD 1 then .dstScal60 1 else .unused) (.desc 2) (.src 1) (.srcScal 1)

def formRopr (w : FmtA) : Form :=
  formX 0x1C3 w (w.mod.getLsbD 0 || w.mod.getLsbD 1 || (ropOrd w.mod == 0 && modHi w.mod != 0)) (.dstVec 1) (.desc 2) (.src 1) (.srcScal 1)

/-- An element of a payload as the unit sees it (R367). -/
def payloadElem (pfmt : Nat) (v : Word) : Word :=
  match pfmt with
  | 0 => 0
  | 1 => v
  | 2 => BitVec.ofNat 32 (fp32.encode .rne (bf16.decode (bf16.encode .rne (fp32.decode v.toNat))))
  | _ => BitVec.ofNat 32 (fp32.encode .rne (fp16.decode (fp16.encode .rne (fp32.decode v.toNat))))

/-- The payload that B gives (R367). -/
def expandPayload (x : Iss) (n : Nat) (img : DefImage) : Payload :=
  { elems := (List.range 32).map (fun j => payloadElem (defPfmt img) (readWord x n j))
    scalars := (List.range 7).map (fun k => if k < defNscal img then readWord x n (32 + k) else 0) }

/-- The footprint lines are canonical, routed and in the target's range; the first that is not. -/
def badFootprint (s : State) (x : Iss) (e : PtEntry) (lines : List Nat) : Option Nat :=
  lines.find? (fun va => decide (2 ^ 64 ≤ va) || routeOf s x.g.pkg x.g.ctx va != some e)

/-- Steps 4 to 6 of R365 for a target. -/
def ropTrap (s : State) (x : Iss) (slot va : Nat) (img : DefImage) : Option Trap :=
  match routeOf s x.g.pkg x.g.ctx va with
  | none => some { cause := cADDR, info := 0, addr := va }
  | some e =>
    let lines := footprint img e.period va
    match badFootprint s x e lines with
    | some a => some { cause := cADDR, info := 0, addr := a }
    | none =>
      if e.mh ≠ defChannel img then some { cause := cROPSITE, info := slot }
      else (lines.find? (fun a => rltHit s x.g.pkg x.g.core a false)).map (fun a => { cause := cRLOCK, info := 0, addr := a })

/-- The request leaves: rop counts it, its destination is PENDING, and the region is dirty (R366). -/
def sendRop (s : State) (x : Iss) (w : FmtA) (slot va : Nat) (sl : DefSlot) (isReturn : Bool) : State :=
  let o := ropOrd w.mod
  let dst : List Nat := if isReturn || w.mod.getLsbD 1 then [w.d.toNat] else []
  let lines := match routeOf s x.g.pkg x.g.ctx va with
    | some e => footprint sl.img e.period va
    | none => [va]
  let r : Rop :=
    { id := s.nextId, ctx := x.g.ctx, pkg := x.g.pkg, target := va, lines := lines, slot := slot, gen := sl.gen, fault := defFault sl.img
      ord := { acq := o % 2 == 1, rel := decide (2 ≤ o), scope := modHi w.mod }, payload := expandPayload x w.b.toNat sl.img
      isReturn := isReturn, rmode := defRet sl.img
      issuers := [{ gid := x.g.id, pkg := x.g.pkg, core := x.g.core, holders := [x.sp.id], stat := if isReturn then none else dst.head?
                    ret := if isReturn then dst.head? else none
                    acqScope := if isReturn && o % 2 == 1 then some (modHi w.mod) else none, eng := none
                    epoch := ctxEpoch s x.g.pkg x.g.ctx, gw := x.g.gidWord, place := s.nextId }]
      phase := .sent, status := 0, line := 0, retWords := [], home := 0, ct := 0 }
  let s : State := dropGuests { s with rops := s.rops ++ [r], nextId := s.nextId + 1 } x.g.pkg x.g.ctx lines
  let s : State := s.mapGroup x.g.id (fun g => { g with rop := g.rop + 1 })
  markDirty (setPending s x.g.id dst) x

/-- ROP and ROPR after their operands are read: the checks of R365 in order, the release, and the request. -/
def bodyRopOp (form : Form) (w : FmtA) (isReturn : Bool) (x : Iss) (s : State) : Res :=
  let slot := wordVal x w.c.toNat
  let va := addrVal x w.a.toNat
  let sl := slotOf s x.g.pkg x.g.ctx slot
  if 64 ≤ slot ∨ (isReturn = true ∧ sl.state = .loaded ∧ defRet sl.img = 0) then .trap form.trapIllop
  else if sl.state ≠ .loaded then .trap (ropndef slot)
  else orTrap (misaligned 128 [(va, va)]) (orTrap (ropTrap s x slot va sl.img)
    (if 64 ≤ x.g.rop then .block .wctr
     else if 2 ≤ ropOrd w.mod ∧ fenceReady s x (modHi w.mod) = false then .block .fence
     else .done (sendRop s x w slot va sl isReturn)))

def bodyRop (w : FmtA) (x : Iss) (_ : Mask) (s : State) : Res := bodyRopOp (formRop w) w false x s
def execRop (w : FmtA) (s : State) : Host.Outcome State Fault Refusal := issueWith s (formRop w) (bodyRop w)

def bodyRopr (w : FmtA) (x : Iss) (_ : Mask) (s : State) : Res := bodyRopOp (formRopr w) w true x s
def execRopr (w : FmtA) (s : State) : Host.Outcome State Fault Refusal := issueWith s (formRopr w) (bodyRopr w)

/-! ## The mask instructions in kernel code (R106, R359) -/

/-- MPUSH, MELSE and MPOP exist only inside definition images; in kernel code they trap with ILLOP. -/
def formMask (op : Nat) (w : FmtA) (a : Role) : Form := { op := op, bad := true, g := w.g, opds := opdsA w .unused a .unused .unused }
def bodyMask (op : Nat) (_ : Iss) (_ : Mask) (_ : State) : Res := .trap { cause := cILLOP, info := op }

def formMpush (w : FmtA) : Form := formMask 0x1C8 w (.src 1)
def execMpush (w : FmtA) (s : State) : Host.Outcome State Fault Refusal := issueWith s (formMpush w) (bodyMask 0x1C8)
def formMelse (w : FmtA) : Form := formMask 0x1C9 w .unused
def execMelse (w : FmtA) (s : State) : Host.Outcome State Fault Refusal := issueWith s (formMelse w) (bodyMask 0x1C9)
def formMpop (w : FmtA) : Form := formMask 0x1CA w .unused
def execMpop (w : FmtA) (s : State) : Host.Outcome State Fault Refusal := issueWith s (formMpop w) (bodyMask 0x1CA)

/-- An unassigned opcode traps with ILLOP when it issues (R99). -/
def formUnassigned (w : DWord) : Form := { op := opcodeOf w, bad := true, g := 0, opds := [] }
def bodyUnassigned (w : DWord) (_ : Iss) (_ : Mask) (_ : State) : Res := .trap { cause := cILLOP, info := opcodeOf w }
def execUnassignedOpcode (w : DWord) (s : State) : Host.Outcome State Fault Refusal := issueWith s (formUnassigned w) (bodyUnassigned w)

end Sys2Proof.Machine
end

