-- ==== Sys2Proof/Machine/Sfu.lean ====
section
/-! DEFINITION. Class 2, the special functions (R191, R75 to R77): within the bound of R75 the result is a free value (log entry 7). -/

namespace Sys2Proof.Machine

open Sys2Proof

/-! ## Exact enough values: fixed point with 400 fraction bits -/

/-- floor(2^720 × π). -/
def piFix : Nat := 0x3243f6a8885a308d313198a2e03707344a4093822299f31d0082efa98ec4e6c89452821e638d01377be5466cf34e90c6cc0ac29b7c97c50dd3f84d5b5b54709179216d5d98979fb1bd1310ba698dfb5ac2ffd72dbd01adfb7b8e1

/-- floor(2^400 × ln 2). -/
def ln2Fix : Nat := 0xb17217f7d1cf79abc9e3b39803f2f6af40f343267298b62d8a0d175b8baafa2be7b876206debac98559552fb4afa1b10ed2e

/-- The fixed-point one. -/
def oneFix : Int := 2 ^ 400

/-- Product of two fixed-point numbers. -/
def mulFix (a b : Int) : Int := a * b / 2 ^ 400

/-- Horner evaluation of 1 + x/1 (1 + x/2 (1 + x/3 ...)): e^x to n terms. -/
def expSeries (x : Int) : Nat → Nat → Int
  | 0, _ => oneFix
  | n + 1, k => oneFix + mulFix x (expSeries x n (k + 1)) / k

/-- 1 - x²/((k)(k+1)) (1 - ...): the alternating series of sine (k = 2) and cosine (k = 1), x² given. -/
def trigSeries (x2 : Int) : Nat → Nat → Int
  | 0, _ => oneFix
  | n + 1, k => oneFix - mulFix x2 (trigSeries x2 n (k + 2)) / (k * (k + 1))

/-- z + z³/3 + z⁵/5 + ...: the area tangent, from z and z². -/
def atanhSeries (z2 : Int) (z : Int) : Nat → Nat → Int
  | 0, _ => 0
  | n + 1, k => z / k + atanhSeries z2 (mulFix z z2) n (k + 2)

/-- The largest r with r² ≤ n, bit by bit from bit b down. -/
def isqrt (n : Nat) : Nat → Nat → Nat
  | 0, r => r
  | b + 1, r => isqrt n b (if (r + 2 ^ b) * (r + 2 ^ b) ≤ n then r + 2 ^ b else r)

/-- A fixed-point number as a value, times 2^k. -/
def fixVal (z : Int) (k : Int) : FVal := .fin (decide (z < 0)) z.natAbs (k - 400)

/-- m × 2^e in fixed point, truncated. -/
def toFix (neg : Bool) (m : Nat) (e : Int) : Int :=
  let v : Int := if 0 ≤ e + 400 then m * pow2 (e + 400) else m / pow2 (-(e + 400))
  if neg then -v else v

/-- e^t for a fixed-point t, as a value: e^t = 2^k e^r with 0 ≤ r < ln 2. -/
def expOf (t : Int) : FVal :=
  let k := t / ln2Fix
  fixVal (expSeries (t - k * ln2Fix) 90 1) k

/-- ln of a nonzero magnitude, in fixed point: m = 2^l y with 1 ≤ y < 2. -/
def lnOf (m : Nat) (e : Int) : Int :=
  let l := log2 m
  let y : Int := (m * 2 ^ 400 / 2 ^ l : Nat)
  let z := (y - oneFix) * 2 ^ 400 / (y + oneFix)
  2 * atanhSeries (mulFix z z) z 130 1 + ((l : Int) + e) * ln2Fix

/-- x mod π/2 in fixed point, and the quadrant (0 to 3), for a magnitude of at most 2^128. -/
def reduceTrig (m : Nat) (e : Int) : Int × Nat :=
  let x : Nat := if 0 ≤ e + 721 then m * pow2 (e + 721) else m / pow2 (-(e + 721))
  let q := x / piFix                              -- x and π/2 both scaled by 2^721
  ((((x - q * piFix : Nat) : Int)) / 2 ^ 321, q % 4)

def sinCos (neg : Bool) (m : Nat) (e : Int) (wantCos : Bool) : FVal :=
  let (r, q) := reduceTrig m e
  let r2 := mulFix r r
  let sn := mulFix r (trigSeries r2 90 2)
  let cs := trigSeries r2 90 1
  let v : Int :=
    match (q + if wantCos then 1 else 0) % 4 with
    | 0 => sn
    | 1 => cs
    | 2 => -sn
    | _ => -cs
  fixVal (if neg && !wantCos then -v else v) 0

/-- The operand is so large that e^x is far outside FP32's range. -/
def bigExp (m : Nat) (e : Int) : Bool := cmpMag m e 512 0 == .gt

/-- f(x) of a finite nonzero x, near enough to judge the bound of R75. -/
def sfuVal (op : Nat) (neg : Bool) (m : Nat) (e : Int) : FVal :=
  match op with
  | 0x080 => (FVal.fin false 1 0).div (.fin neg (m * 2 ^ 100) (e - 100))
  | 0x081 =>
    let sh : Nat := if e % 2 = 0 then 0 else 1
    let n := m * 2 ^ sh                              -- x = n × 2^(e - sh), e - sh even
    .fin false (isqrt (2 ^ 400 / n) 210 0) (-200 - (e - sh) / 2)
  | 0x082 =>
    let sh : Nat := if e % 2 = 0 then 0 else 1
    .fin false (isqrt (m * 2 ^ sh * 2 ^ 200) 160 0) ((e - sh) / 2 - 100)
  | 0x084 =>
    if bigExp m e then .fin false 1 (if neg then -2000 else 2000) else expOf (toFix neg m e * ln2Fix / 2 ^ 400)
  | 0x085 => let z := lnOf m e * 2 ^ 400 / ln2Fix; fixVal z 0
  | 0x086 => if bigExp m e then .fin false 1 (if neg then -2000 else 2000) else expOf (toFix neg m e)
  | 0x087 => fixVal (lnOf m e) 0
  | 0x088 => sinCos neg m e false
  | 0x089 => sinCos neg m e true
  | _ =>
    if bigExp m e then .fin neg (2 ^ 200 - 1) (-200)
    else
      match expOf (2 * toFix false m e) with
      | .fin _ a g =>                                -- (a 2^g - 1) / (a 2^g + 1)
        let b := min g 0
        let p := a * pow2 (g - b)
        let o := pow2 (-b)
        fixVal ((if neg then -1 else 1) * ((((p - o : Nat) : Int) * 2 ^ 400) / ((p + o : Nat) : Int))) 0
      | v => v

/-- The bound in ulp (R75). -/
def sfuUlps (op : Nat) : Nat := if op ≤ 0x085 then 1 else 2

/-- |r - f| ≤ n × 2^(max(e, -126) - 23), e the exponent of f (R75). -/
def withinUlps (n : Nat) (r f : FVal) : Bool :=
  match r, f with
  | .fin s m e, .fin t k g =>
    let ef : Int := if k = 0 then -126 else max ((log2 k : Int) + g) (-126)
    match (FVal.fin s m e).add .rne (.fin (!t) k g) with
    | .fin _ d h => cmpMag d h n (ef - 23) != .gt
    | _ => false
  | _, _ => false

/-- A candidate is held to the bound; where it breaks it, the rounded value is taken.  Beyond the largest
finite value the result is that value or the infinity (R75). -/
def boundSfu (n : Nat) (f : FVal) (cand : Word) : Nat :=
  match f with
  | .fin neg m e =>
    if cmpMag m e (2 ^ 24 - 1) 104 == .gt then
      (if fv32 cand = .inf neg then fp32.encode .rne (.inf neg) else fp32.bits neg fp32.maxCode)
    else if withinUlps n (fv32 cand) f then cand.toNat
    else fp32.encode .rne f
  | v => fp32.encode .rne v

/-- The results R76 and R77 fix, where they do. -/
def sfuExact (op : Nat) (v : FVal) : Option Nat :=
  let nan := fp32.nanCode
  let one := 0x3F800000
  let log := op = 0x085 ∨ op = 0x087
  let ex := op = 0x084 ∨ op = 0x086
  match v with
  | .nan => some nan
  | .inf neg =>
    if op = 0x080 then some (fp32.bits neg 0)
    else if op = 0x088 ∨ op = 0x089 then some nan
    else if op = 0x08A then some (fp32.bits neg one)
    else if ex then some (if neg then 0 else 0x7F800000)
    else if neg then some nan
    else if op = 0x081 then some 0 else some 0x7F800000
  | .fin neg 0 _ =>
    if op = 0x080 ∨ op = 0x081 then some (fp32.bits neg 0x7F800000)
    else if op = 0x082 then some (fp32.bits neg 0)
    else if ex then some one
    else if log then some 0xFF800000
    else none
  | .fin neg m e =>
    if neg ∧ (log ∨ op = 0x081 ∨ op = 0x082) then some nan
    else if op = 0x087 ∧ cmpMag m e 1 0 = .eq then some 0
    else if op = 0x085 ∧ m = 2 ^ log2 m then some (fp32.encode .rne (.ofInt ((log2 m : Int) + e)))
    else if op = 0x084 ∧ (0 ≤ e ∨ m % pow2 (-e) = 0) then
      let k := signed neg (floorMag m (min e 200)).1
      if -149 ≤ k ∧ k ≤ 127 then some (fp32.encode .rne (.fin false 1 k)) else none
    else none

/-- A special function's result, from a candidate for each operand (R75, R76). -/
def sfuOf (op : Nat) (cand : Word → Word) (a : Word) : Nat :=
  let v := fv32 a
  match sfuExact op v with
  | some r => r
  | none =>
    match v with
    | .fin neg 0 _ =>                                -- SIN, COS and TANH of a zero
      boundSfu (sfuUlps op) (if op = 0x089 then .fin false 1 0 else .fin neg 0 0) (cand a)
    | .fin neg m e => boundSfu (sfuUlps op) (sfuVal op neg m e) (cand a)
    | v => fp32.encode .rne v

/-- The functions that R77 makes monotonic: EXP2, LOG2, EXP, LOG and TANH. -/
def sfuMonotonic (op : Nat) : Bool := [0x084, 0x085, 0x086, 0x087, 0x08A].contains op

/-- x ≤ y as FP32 values. -/
def leF32 (x y : Word) : Bool := (fv32 x).lt (fv32 y) || (fv32 x).eq (fv32 y)

/-- A function keeps the order of FP32 values in its domain: where neither result is NaN. -/
abbrev keepsOrder (f : Word → Nat) : Prop :=
  ∀ x y : Word, leF32 x y = true → (fv32 (BitVec.ofNat 32 (f x))).isNan = false → (fv32 (BitVec.ofNat 32 (f y))).isNan = false →
    leF32 (BitVec.ofNat 32 (f x)) (BitVec.ofNat 32 (f y)) = true

/-- The reference rounded to nearest, as a candidate. -/
def sfuRounded (op : Nat) (a : Word) : Word :=
  match fv32 a with
  | .fin neg (m + 1) e => BitVec.ofNat 32 (fp32.encode .rne (sfuVal op neg (m + 1) e))
  | .fin neg 0 _ => if op = 0x089 then 0x3F800000 else BitVec.ofNat 32 (fp32.bits neg 0)
  | _ => 0

/-- A special function's result (R75 to R77, R191): that of the free candidates, but where R77 asks for a monotonic
function and theirs is none, that of the rounded reference (log entry 7). -/
def sfuBits (op : Nat) (a : Word) : Nat :=
  match sfuExact op (fv32 a) with
  | some r => r
  | none =>
    if sfuMonotonic op = false ∨ keepsOrder (sfuOf op (Config.sfu op)) then sfuOf op (Config.sfu op) a else sfuOf op (sfuRounded op) a

def sfuForm (op : Nat) (w : FmtA) : Form := formA op w (w.mod != 0) (.dst 1) (.src 1) .unused .unused
def sfuBody (op : Nat) (w : FmtA) : Iss → Mask → State → Res :=
  bodyWords w.d.toNat 1 (fun x i => sfuBits op (readWord x w.a.toNat i))

def formRcp (w : FmtA) : Form := sfuForm 0x080 w
def execRcp (w : FmtA) (s : State) : Host.Outcome State Fault Refusal := issueWith s (formRcp w) (sfuBody 0x080 w)
def formRsq (w : FmtA) : Form := sfuForm 0x081 w
def execRsq (w : FmtA) (s : State) : Host.Outcome State Fault Refusal := issueWith s (formRsq w) (sfuBody 0x081 w)
def formSqrt (w : FmtA) : Form := sfuForm 0x082 w
def execSqrt (w : FmtA) (s : State) : Host.Outcome State Fault Refusal := issueWith s (formSqrt w) (sfuBody 0x082 w)
def formExp2 (w : FmtA) : Form := sfuForm 0x084 w
def execExp2 (w : FmtA) (s : State) : Host.Outcome State Fault Refusal := issueWith s (formExp2 w) (sfuBody 0x084 w)
def formLog2 (w : FmtA) : Form := sfuForm 0x085 w
def execLog2 (w : FmtA) (s : State) : Host.Outcome State Fault Refusal := issueWith s (formLog2 w) (sfuBody 0x085 w)
def formExp (w : FmtA) : Form := sfuForm 0x086 w
def execExp (w : FmtA) (s : State) : Host.Outcome State Fault Refusal := issueWith s (formExp w) (sfuBody 0x086 w)
def formLog (w : FmtA) : Form := sfuForm 0x087 w
def execLog (w : FmtA) (s : State) : Host.Outcome State Fault Refusal := issueWith s (formLog w) (sfuBody 0x087 w)
def formSin (w : FmtA) : Form := sfuForm 0x088 w
def execSin (w : FmtA) (s : State) : Host.Outcome State Fault Refusal := issueWith s (formSin w) (sfuBody 0x088 w)
def formCos (w : FmtA) : Form := sfuForm 0x089 w
def execCos (w : FmtA) (s : State) : Host.Outcome State Fault Refusal := issueWith s (formCos w) (sfuBody 0x089 w)
def formTanh (w : FmtA) : Form := sfuForm 0x08A w
def execTanh (w : FmtA) (s : State) : Host.Outcome State Fault Refusal := issueWith s (formTanh w) (sfuBody 0x08A w)

/-- FDIV is correctly rounded in its mode (R75, R191). -/
def formFdiv (w : FmtA) : Form := formA 0x083 w (decide (4 ≤ w.mod.toNat)) (.dst 1) (.src 1) (.src 1) .unused
def execFdiv (w : FmtA) (s : State) : Host.Outcome State Fault Refusal :=
  issueWith s (formFdiv w) (bodyWords w.d.toNat 1 (fun x i =>
    fp32.encode (rmode (rndOf w.mod) 0) ((fp32At x w.a.toNat i).div (fp32At x w.b.toNat i))))

end Sys2Proof.Machine
end

