-- ==== Sys2Proof/Machine/Forms.lean ====
section
/-! DEFINITION. The form of every instruction word: what R95 and the full/empty rules look at, as CLAUSE_FETCH and WellFormed need it. -/

namespace Sys2Proof.Machine

open Sys2Proof

/-- The form of an instruction in a tree, where wide says which tile operands name an FP64 tile; none for a step of
the device. -/
def formOf (ls : List Level) (wide : Nat → Bool) (i : Instr) : Option Form :=
  match i with
  | .iadd w => some (formIadd w)
  | .iaddI w => some (formIaddI w)
  | .isub w => some (formIsub w)
  | .isubI w => some (formIsubI w)
  | .imul w => some (formImul w)
  | .imulI w => some (formImulI w)
  | .imulh w => some (formImulh w)
  | .imad w => some (formImad w)
  | .iabs w => some (formIabs w)
  | .ineg w => some (formIneg w)
  | .imin w => some (formImin w)
  | .iminI w => some (formIminI w)
  | .imax w => some (formImax w)
  | .imaxI w => some (formImaxI w)
  | .and_ w => some (formAnd w)
  | .andI w => some (formAndI w)
  | .or_ w => some (formOr w)
  | .orI w => some (formOrI w)
  | .xor_ w => some (formXor w)
  | .xorI w => some (formXorI w)
  | .andn w => some (formAndn w)
  | .andnI w => some (formAndnI w)
  | .not_ w => some (formNot w)
  | .shl w => some (formShl w)
  | .shlI w => some (formShlI w)
  | .shr w => some (formShr w)
  | .shrI w => some (formShrI w)
  | .sar w => some (formSar w)
  | .sarI w => some (formSarI w)
  | .rol w => some (formRol w)
  | .rolI w => some (formRolI w)
  | .popc w => some (formPopc w)
  | .clz w => some (formClz w)
  | .ctz w => some (formCtz w)
  | .brev w => some (formBrev w)
  | .bfx w => some (formBfx w)
  | .bfxI w => some (formBfxI w)
  | .bfi w => some (formBfi w)
  | .sel w => some (formSel w)
  | .icmp w => some (formIcmp w)
  | .icmpI w => some (formIcmpI w)
  | .lea w => some (formLea w)
  | .leaI w => some (formLeaI w)
  | .mov w => some (formMov w)
  | .movi w => some (formMovi w)
  | .fadd w => some (formFadd w)
  | .faddI w => some (formFaddI w)
  | .fsub w => some (formFsub w)
  | .fsubI w => some (formFsubI w)
  | .fmul w => some (formFmul w)
  | .fmulI w => some (formFmulI w)
  | .ffma w => some (formFfma w)
  | .fmin w => some (formFmin w)
  | .fminI w => some (formFminI w)
  | .fmax w => some (formFmax w)
  | .fmaxI w => some (formFmaxI w)
  | .fcmp w => some (formFcmp w)
  | .fcmpI w => some (formFcmpI w)
  | .fclass w => some (formFclass w)
  | .frnd w => some (formFrnd w)
  | .dadd w => some (formDadd w)
  | .dmul w => some (formDmul w)
  | .dfma w => some (formDfma w)
  | .dmin w => some (formDmin w)
  | .dmax w => some (formDmax w)
  | .dcmp w => some (formDcmp w)
  | .badd2 w => some (formBadd2 w)
  | .bmul2 w => some (formBmul2 w)
  | .bfma2 w => some (formBfma2 w)
  | .fcvt dst w => some (formFcvt dst w)
  | .rcp w => some (formRcp w)
  | .rsq w => some (formRsq w)
  | .sqrt w => some (formSqrt w)
  | .fdiv w => some (formFdiv w)
  | .exp2 w => some (formExp2 w)
  | .log2 w => some (formLog2 w)
  | .exp w => some (formExp w)
  | .log w => some (formLog w)
  | .sin w => some (formSin w)
  | .cos w => some (formCos w)
  | .tanh w => some (formTanh w)
  | .shfl w => some (formShfl w)
  | .shflI w => some (formShflI w)
  | .vote w => some (formVote w)
  | .lred w => some (formLred w)
  | .lscan w => some (formLscan w)
  | .pand w => some (formPand w)
  | .por w => some (formPor w)
  | .pnot w => some (formPnot w)
  | .pcnt w => some (formPcnt w)
  | .ld ty w => some (formLd ty w)
  | .ldc w => some (formLdc w)
  | .pref w => some (formPref w)
  | .fence w => some (formFence w)
  | .fences w => some (formFences w)
  | .lda w => some (formLda (wide w.a.toNat) w)
  | .sta w => some (formSta (wide w.a.toNat) w)
  | .st ty w => some (formSt ty w)
  | .tiledef w => some (formTiledef w)
  | .tilerel w => some (formTilerel w)
  | .atom op w => some (formAtom op w)
  | .red op w => some (formRed op w)
  | .bra w => some (formBra w)
  | .brx w => some (formBrx w)
  | .jmpt w => some (formJmpt w)
  | .call w => some (formCall w)
  | .calli w => some (formCalli w)
  | .ret w => some (formRet w)
  | .exit w => some (formExit w)
  | .rte w => some (formRte w)
  | .rgn w => some (formRgn w)
  | .trap w => some (formTrap w)
  | .nop w => some (formNop w)
  | .waitt w => some (formWaitt w)
  | .waittD w => some (formWaittD w)
  | .yield w => some (formYield w)
  | .srd w => some (formSrd w)
  | .swr w => some (formSwr w)
  | .clkTb w => some (formClkTb w)
  | .clkCyc w => some (formClkCyc w)
  | .mma w => some (formMma w)
  | .mmas w => some (formMmas w)
  | .mcommit w => some (formMcommit w)
  | .mwait w => some (formMwait w)
  | .mzero w => some (formMzero w)
  | .mst w => some (formMst w)
  | .cpy w => some (formCpy w)
  | .cpy2d w => some (formCpy2d w)
  | .tld w => some (formTld w)
  | .tst w => some (formTst w)
  | .gath w => some (formGath w)
  | .scat w => some (formScat w)
  | .rowpub w => some (formRowpub w)
  | .ewait w => some (formEwait w)
  | .coll w => some (formColl w)
  | .cpyg w => some (formCpyg w)
  | .bar w => some (formBar w)
  | .bara w => some (formBara w)
  | .barw w => some (formBarw w)
  | .abinit w => some (formAbinit w)
  | .abarr w => some (formAbarr w)
  | .abwait w => some (formAbwait w)
  | .abort w => some (formAbort w)
  | .abchk w => some (formAbchk w)
  | .treeid w => some (formTreeid (treeVaries ls w) w)
  | .loophd w => some (formLoophd w)
  | .idone w => some (formIdone w)
  | .iput w => some (formIput w)
  | .launch w => some (formLaunch w)
  | .launchi w => some (formLaunchi w)
  | .garm w => some (formGarm w)
  | .cuew w => some (formCuew w)
  | .ropld w => some (formRopld w)
  | .ropdrop w => some (formRopdrop w)
  | .rop w => some (formRop w)
  | .ropr w => some (formRopr w)
  | .mpush w => some (formMpush w)
  | .melse w => some (formMelse w)
  | .mpop w => some (formMpop w)
  | .nmmodeOn w => some (formNmmodeOn w)
  | .nmmodeOff w => some (formNmmodeOff w)
  | .nmbc w => some (formNmbc w)
  | .nmzero w => some (formNmzero w)
  | .nmmac w => some (formNmmac w)
  | .nmrd w => some (formNmrd w)
  | .redgo w => some (formRedgo w)
  | .pghint w => some (formPghint w)
  | .clauseFetch _ _ _ => none
  | .splitHoldEnd _ _ => none
  | .activeSetEnter _ => none
  | .activeSetLeave _ => none
  | .swapTimeout _ => none
  | .waitto _ _ => none
  | .waittExpire _ _ => none
  | .fenceComplete _ _ => none
  | .fencesWindowClose _ _ => none
  | .fencesRollback _ _ => none
  | .loadPerform _ _ _ => none
  | .guestCopyFill _ _ _ _ => none
  | .guestCopyExpire _ _ _ => none
  | .l1PrefetchFill _ _ _ => none
  | .loadDeliver _ => none
  | .writePerform _ _ => none
  | .atomicExecute _ _ => none
  | .ctReturn _ => none
  | .matrixStepComplete _ => none
  | .engineOpComplete _ => none
  | .redgoExecute _ => none
  | .redgoFlagWrite _ => none
  | .baseDieLinkFail _ _ => none
  | .ropGranule _ => none
  | .ropCombine _ _ => none
  | .ropAck _ => none
  | .wingsAppend _ => none
  | .nmCommandExecute _ => none
  | .nmSessionTimeout _ _ => none
  | .definitionLoaded _ => none
  | .definitionDropped _ => none
  | .groupPlace _ _ _ _ => none
  | .groupRetire _ => none
  | .groupSave _ => none
  | .groupRestore _ _ => none
  | .nodeMove _ _ _ _ => none
  | .launchVerify _ _ => none
  | .instanceComplete _ => none
  | .queueEntryTake _ _ _ => none
  | .watcherNotify _ _ _ => none
  | .prompterChoose _ _ _ => none
  | .kernelNode _ _ _ => none
  | .copyNode _ _ _ => none
  | .waitcueNode _ _ _ => none
  | .setcueNode _ _ _ => none
  | .condNode _ _ _ => none
  | .whileNode _ _ _ => none
  | .joinNode _ _ _ => none
  | .endNode _ _ _ => none
  | .effprioAge _ _ _ => none
  | .ctxCmdBad _ _ _ => none
  | .contextFault _ _ _ => none
  | .packageUnreachable _ _ => none
  | .key _ _ _ _ _ _ => none
  | .getCtxmeas _ _ _ => none
  | .challenge _ _ => none
  | .tdispError _ _ => none
  | .hostRead _ _ _ _ _ => none
  | .hostWrite _ _ _ _ _ => none
  | .hostAtomicop _ _ _ _ _ _ _ _ => none
  | .cpygExecute _ => none
  | .pgCmdBad _ _ => none
  | .migrationSwitch _ _ _ => none
  | .train _ _ => none
  | .disable _ _ => none
  | .portTrained _ _ _ => none
  | .portTrainTimeout _ _ => none
  | .laneLost _ _ _ => none
  | .flitReplay _ _ _ => none
  | .fieldRamp _ _ => none
  | .fieldOn _ _ => none
  | .fieldRampTimeout _ _ => none
  | .overcurrent _ _ => none
  | .pcieLinkTraining _ _ _ _ => none
  | .cbaGrant _ _ _ => none
  | .registerWrite _ _ _ _ => none
  | .unassignedOpcode w => some (formUnassigned w)
  | .ideKm _ _ _ => none
  | .getVersion => none
  | .getCapabilities => none
  | .negotiateAlgorithms => none
  | .getDigests => none
  | .getCertificate => none
  | .getMeasurements => none
  | .keyExchange => none
  | .finish => none
  | .endSession => none
  | .lockInterfaceRequest => none
  | .startInterfaceRequest => none
  | .stopInterfaceRequest => none
  | .map => none
  | .unmap => none
  | .migrate => none
  | .retire => none
  | .deny => none
  | .moduleReset => none
  | .baseDieLinkTraining => none
  | .hbmTraining => none
  | .create => none
  | .measure => none
  | .admitCtx => none
  | .run => none
  | .stop => none
  | .evict => none
  | .clear => none
  | .teardown => none
  | .peer => none
  | .faultRecordPost => none

end Sys2Proof.Machine
end

