-- ==== Sys2Proof/Machine/Definition.lean ====
section
/-! DEFINITION. Definition programs: the checks of a load (R357 to R360), and the mini-wavefront that runs them (R357 to R359, R368, R371). -/

namespace Sys2Proof.Machine

open Sys2Proof

/-! ## What a definition may hold (R358) -/

/-- Whether an instruction's MOD is within the limits of R358, and its cycles; none where it is not admitted.
The mask instructions and NOP stand here with theirs. -/
def defLimits (i : Instr) : Option (Bool × Nat) :=
  match i with
  | .iadd w => some (decide (typeOf w.mod < 2), 1)
  | .isub w => some (decide (typeOf w.mod < 2), 1)
  | .imul w => some (decide (typeOf w.mod < 2), 1)
  | .imulh w => some (decide (typeOf w.mod < 2), 1)
  | .imad w => some (decide (typeOf w.mod < 2), 1)
  | .iabs w => some (decide (typeOf w.mod < 2), 1)
  | .ineg w => some (decide (typeOf w.mod < 2), 1)
  | .imin w => some (decide (typeOf w.mod < 2), 1)
  | .imax w => some (decide (typeOf w.mod < 2), 1)
  | .and_ w => some (decide (typeOf w.mod < 2), 1)
  | .or_ w => some (decide (typeOf w.mod < 2), 1)
  | .xor_ w => some (decide (typeOf w.mod < 2), 1)
  | .andn w => some (decide (typeOf w.mod < 2), 1)
  | .not_ w => some (decide (typeOf w.mod < 2), 1)
  | .shl w => some (decide (typeOf w.mod < 2), 1)
  | .shr w => some (decide (typeOf w.mod < 2), 1)
  | .sar w => some (decide (typeOf w.mod < 2), 1)
  | .rol w => some (decide (typeOf w.mod < 2), 1)
  | .popc w => some (decide (typeOf w.mod < 2), 1)
  | .clz w => some (decide (typeOf w.mod < 2), 1)
  | .ctz w => some (decide (typeOf w.mod < 2), 1)
  | .brev w => some (decide (typeOf w.mod < 2), 1)
  | .bfx w => some (decide (typeOf w.mod < 2), 1)
  | .bfi w => some (decide (typeOf w.mod < 2), 1)
  | .mov w => some (decide (typeOf w.mod < 2), 1)
  | .sel w => some (decide (typeOf w.mod < 2) && !w.mod.getLsbD 0, 1)
  | .icmp w => some (decide (typeOf w.mod < 2) && w.mod.getLsbD 4, 1)
  | .iaddI w => some (decide (typeOf w.mod < 2), 1)
  | .isubI w => some (decide (typeOf w.mod < 2), 1)
  | .imulI w => some (decide (typeOf w.mod < 2), 1)
  | .iminI w => some (decide (typeOf w.mod < 2), 1)
  | .imaxI w => some (decide (typeOf w.mod < 2), 1)
  | .andI w => some (decide (typeOf w.mod < 2), 1)
  | .orI w => some (decide (typeOf w.mod < 2), 1)
  | .xorI w => some (decide (typeOf w.mod < 2), 1)
  | .andnI w => some (decide (typeOf w.mod < 2), 1)
  | .shlI w => some (decide (typeOf w.mod < 2), 1)
  | .shrI w => some (decide (typeOf w.mod < 2), 1)
  | .sarI w => some (decide (typeOf w.mod < 2), 1)
  | .rolI w => some (decide (typeOf w.mod < 2), 1)
  | .bfxI w => some (decide (typeOf w.mod < 2), 1)
  | .icmpI w => some (decide (typeOf w.mod < 2) && w.mod.getLsbD 4, 1)
  | .movi _ => some (true, 1)
  | .fadd w => some (decide (w.mod.toNat % 8 ≤ 3), 1)
  | .fsub w => some (decide (w.mod.toNat % 8 ≤ 3), 1)
  | .fmul w => some (decide (w.mod.toNat % 8 ≤ 3), 1)
  | .ffma w => some (decide (w.mod.toNat % 8 ≤ 3), 1)
  | .frnd w => some (decide (w.mod.toNat % 8 ≤ 3), 1)
  | .badd2 w => some (decide (w.mod.toNat % 8 ≤ 3), 1)
  | .bmul2 w => some (decide (w.mod.toNat % 8 ≤ 3), 1)
  | .bfma2 w => some (decide (w.mod.toNat % 8 ≤ 3), 1)
  | .faddI w => some (decide (w.mod.toNat % 8 ≤ 3), 1)
  | .fsubI w => some (decide (w.mod.toNat % 8 ≤ 3), 1)
  | .fmulI w => some (decide (w.mod.toNat % 8 ≤ 3), 1)
  | .fmin _ => some (true, 1)
  | .fmax _ => some (true, 1)
  | .fclass _ => some (true, 1)
  | .fminI _ => some (true, 1)
  | .fmaxI _ => some (true, 1)
  | .fcmp w => some (w.mod.getLsbD 4, 1)
  | .fcmpI w => some (w.mod.getLsbD 4, 1)
  | .rcp _ => some (true, 4)
  | .rsq _ => some (true, 4)
  | .sqrt _ => some (true, 4)
  | .exp2 _ => some (true, 4)
  | .log2 _ => some (true, 4)
  | .fdiv w => some (decide (w.mod.toNat % 8 ≤ 3), 8)
  | .shfl w => some (decide (2 ≤ w.mod.toNat / 16) && decide (w.mod.toNat / 16 ≤ 10), 1)
  | .shflI w => some (decide (2 ≤ w.mod.toNat / 16) && decide (w.mod.toNat / 16 ≤ 10), 1)
  | .fcvt dst w => some ([0, 2, 3, 4].contains dst.toNat && [0, 2, 3, 4].contains (w.mod.toNat / 32) && decide (w.mod.toNat % 8 ≤ 3), 1)
  | .nop _ => some (true, 1)
  | .mpush _ => some (true, 1)
  | .melse _ => some (true, 1)
  | .mpop _ => some (true, 1)
  | _ => none

/-- The meaning of an admitted instruction other than NOP and the mask instructions. -/
def defExec (i : Instr) : Option (State → Host.Outcome State Fault Refusal) :=
  match i with
  | .iadd w => some (execIadd w)
  | .isub w => some (execIsub w)
  | .imul w => some (execImul w)
  | .imulh w => some (execImulh w)
  | .imad w => some (execImad w)
  | .iabs w => some (execIabs w)
  | .ineg w => some (execIneg w)
  | .imin w => some (execImin w)
  | .imax w => some (execImax w)
  | .and_ w => some (execAnd w)
  | .or_ w => some (execOr w)
  | .xor_ w => some (execXor w)
  | .andn w => some (execAndn w)
  | .not_ w => some (execNot w)
  | .shl w => some (execShl w)
  | .shr w => some (execShr w)
  | .sar w => some (execSar w)
  | .rol w => some (execRol w)
  | .popc w => some (execPopc w)
  | .clz w => some (execClz w)
  | .ctz w => some (execCtz w)
  | .brev w => some (execBrev w)
  | .bfx w => some (execBfx w)
  | .bfi w => some (execBfi w)
  | .mov w => some (execMov w)
  | .sel w => some (execSel w)
  | .icmp w => some (execIcmp w)
  | .iaddI w => some (execIaddI w)
  | .isubI w => some (execIsubI w)
  | .imulI w => some (execImulI w)
  | .iminI w => some (execIminI w)
  | .imaxI w => some (execImaxI w)
  | .andI w => some (execAndI w)
  | .orI w => some (execOrI w)
  | .xorI w => some (execXorI w)
  | .andnI w => some (execAndnI w)
  | .shlI w => some (execShlI w)
  | .shrI w => some (execShrI w)
  | .sarI w => some (execSarI w)
  | .rolI w => some (execRolI w)
  | .bfxI w => some (execBfxI w)
  | .icmpI w => some (execIcmpI w)
  | .movi w => some (execMovi w)
  | .fadd w => some (execFadd w)
  | .fsub w => some (execFsub w)
  | .fmul w => some (execFmul w)
  | .ffma w => some (execFfma w)
  | .frnd w => some (execFrnd w)
  | .badd2 w => some (execBadd2 w)
  | .bmul2 w => some (execBmul2 w)
  | .bfma2 w => some (execBfma2 w)
  | .faddI w => some (execFaddI w)
  | .fsubI w => some (execFsubI w)
  | .fmulI w => some (execFmulI w)
  | .fmin w => some (execFmin w)
  | .fmax w => some (execFmax w)
  | .fclass w => some (execFclass w)
  | .fminI w => some (execFminI w)
  | .fmaxI w => some (execFmaxI w)
  | .fcmp w => some (execFcmp w)
  | .fcmpI w => some (execFcmpI w)
  | .rcp w => some (execRcp w)
  | .rsq w => some (execRsq w)
  | .sqrt w => some (execSqrt w)
  | .exp2 w => some (execExp2 w)
  | .log2 w => some (execLog2 w)
  | .fdiv w => some (execFdiv w)
  | .shfl w => some (execShfl w)
  | .shflI w => some (execShflI w)
  | .fcvt dst w => some (execFcvt dst w)
  | _ => none

/-- The fields of a mask instruction: MPUSH names its condition register in A. -/
def maskForm (i : Instr) : Option Form :=
  match i with
  | .mpush w => some { op := 0x1C8, bad := w.mod != 0, g := w.g, opds := opdsA w .unused (.src 1) .unused .unused }
  | .melse w => some { op := 0x1C9, bad := w.mod != 0, g := w.g, opds := opdsA w .unused .unused .unused .unused }
  | .mpop w => some { op := 0x1CA, bad := w.mod != 0, g := w.g, opds := opdsA w .unused .unused .unused .unused }
  | _ => none

/-- The form of an instruction of a definition. -/
def defForm (i : Instr) : Option Form :=
  match maskForm i with
  | some f => some f
  | none => formOf benchLevels (fun _ => false) i

/-- EP of a word; format K has none. -/
def wordEp (w : DWord) : Bool := opcodeOf w != 0x03C && w.extractLsb' 12 3 != 0

/-- DOPCODE: outside R358, or a value that R358 or R92 forbids. -/
def defOpcodeBad (w : DWord) : Bool :=
  match defLimits (decode w), defForm (decode w) with
  | some (ok, _), some f => !ok || f.illop || f.g != 0 || wordEp w
  | _, _ => true

/-- A register number that the program may read (R357). -/
def defReadable (comb : Bool) (nlm1 n : Nat) : Bool :=
  (if comb then decide (n < 8) else decide (n ≤ nlm1)) || (decide (8 ≤ n) && decide (n < 32)) || (decide (704 ≤ n) && decide (n ≤ 707))

/-- A register number that the program may write. -/
def defWritable (comb : Bool) (nlm1 n : Nat) : Bool := (!comb && decide (n ≤ nlm1)) || (decide (8 ≤ n) && decide (n < 24))

/-- DREG: a field that names a register outside R357, or writes a read-only one. -/
def opdRegBad (comb : Bool) (nlm1 : Nat) (o : Opd) : Bool :=
  match o.role with
  | .dst _ => !defWritable comb nlm1 o.num
  | .src _ => !defReadable comb nlm1 o.num
  | _ => false

def defRegBad (comb : Bool) (nlm1 : Nat) (w : DWord) : Bool :=
  match defForm (decode w) with
  | some f => f.opds.any (opdRegBad comb nlm1)
  | none => true

/-- DMASK: the depth of the mask stack through a program, none where a rule of R360 is broken. -/
def maskDepth (n : Nat) : List DWord → Option Nat
  | [] => some n
  | w :: t =>
    match decode w with
    | .mpush _ => if n = 4 then none else maskDepth (n + 1) t
    | .melse _ => if n = 0 then none else maskDepth n t
    | .mpop _ => if n = 0 then none else maskDepth (n - 1) t
    | _ => maskDepth n t

/-- The sum of cycles of a program (R358). -/
def defCycles (ws : List DWord) : Nat := (ws.map (fun w => ((defLimits (decode w)).map (·.2)).getD 0)).foldl (· + ·) 0

/-! ## The checks of a load (R360) -/

/-- The instruction words of the clauses from offset lo up to the terminal header at hi - 8; none where the
framing, a header or a clause is bad (R78 to R82, R85). -/
def progWords (d : DefImage) (hi : Nat) : Nat → Nat → Option (List DWord)
  | 0, _ => none
  | fuel + 1, lo =>
    let h := defWord d lo
    if lo + 8 = hi then (if h = terminalHdr then some [] else none)
    else
      let c := clauseHdr h
      let ws := (List.range (c.count + 1)).map (fun j => defWord d (lo + 8 + 8 * j))
      if hi < lo + 8 * (c.count + 2) + 8 ∨ c.bad = true ∨ (firstMisplaced c.ecls ws).isSome then none
      else (progWords d hi fuel (lo + 8 * (c.count + 2))).map (fun r => ws ++ r)

/-- End of the main program. -/
def defMainEnd (d : DefImage) : Nat := 0x40 + defMainLen d

/-- The header's lengths and reserved fields are inconsistent with R354. -/
def defHeaderBad (d : DefImage) (len : Nat) : Bool :=
  decide (d.length < 64) || defMagic d != 0xCA960D0E || decide (2 ^ 14 ≤ defAttr d) || leAt d 0x0B 1 != 0 || leAt d 0x18 8 != 0
    || defLen d != len || d.length != len || len % 8 != 0 || defMainLen d % 8 != 0 || decide (defMainLen d < 8)
    || decide (len < defMainEnd d)
    || (if defCombOff d = 0 then defMainEnd d != len else defCombOff d != defMainEnd d || decide (len ≤ defCombOff d))

/-- The main program's words, and those of the combine sub-program. -/
def defMain (d : DefImage) : Option (List DWord) := progWords d (defMainEnd d) 600 0x40
def defComb (d : DefImage) : Option (List DWord) :=
  if defCombOff d = 0 then some [] else progWords d (defLen d) 600 (defCombOff d)

/-- Footprint offsets outside R356: beyond NLM1, not rising, or zero. -/
def defOffsetsBad (d : DefImage) : Bool :=
  [1, 2, 3].any (fun j =>
    if j ≤ defNlm1 d then defOff d j == 0 || (decide (1 < j) && decide (defOff d j ≤ defOff d (j - 1))) else defOff d j != 0)

/-- DATTR. -/
def defAttrBad (d : DefImage) : Bool :=
  defFault d == 3 || decide (128 < payloadBytes d) || (defPfmt d == 1 && defNscal d != 0) || (defCombine d != (defCombOff d != 0))
    || defOffsetsBad d || (!defFootprint d && defNlm1 d != 0) || (defFootprint d && !defChannel d)

/-- The first failing code of R360, in row order; 0 where the image is good. -/
def defCheck (d : DefImage) (len : Nat) : Nat :=
  if defHeaderBad d len then 0x30
  else
    match defMain d, defComb d with
    | some m, some c =>
      if defAttrBad d then 0x31
      else if 24 < m.length ∨ 8 < c.length then 0x32
      else if (m ++ c).any defOpcodeBad then 0x33
      else if m.any (defRegBad false (defNlm1 d)) ∨ c.any (defRegBad true (defNlm1 d)) then 0x34
      else if maskDepth 0 m ≠ some 0 ∨ maskDepth 0 c ≠ some 0 then 0x35
      else if 64 < defCycles m ∨ 16 < defCycles c then 0x36
      else 0
    | _, _ => 0x30

/-! ## The mini-wavefront (R357 to R359) -/

/-- Its registers, 32 of 32 lanes, its mask and its mask stack. -/
structure Mini where
  regs : List (List Word)
  mask : Mask
  stack : List Mask
  deriving DecidableEq, Repr

def Mini.word (m : Mini) (n lane : Nat) : Word := (m.regs.getD n []).getD lane 0

/-- What a register number of R357 holds in a lane, the constants of R94 among them. -/
def Mini.read (m : Mini) (n lane : Nat) : Word :=
  match n with
  | 704 => 0
  | 705 => 0xFFFFFFFF
  | 706 => BitVec.ofNat 32 lane
  | 707 => 0x3F800000
  | n => m.word n lane

/-- All 32 lanes. -/
def miniLanes : Mask := BitVec.ofNat 96 (2 ^ 32 - 1)

/-- A group that holds the mini-wavefront, about to issue one word. -/
def miniState (m : Mini) (w : DWord) : State :=
  let sp : Split := { freshSplit 1 0 [w] with lanes := m.mask, mask := m.mask }
  let g : Group := { freshGroup 1 1 0 0 0 0 0 0 32 0 0 sp with state := .active, vregs := m.regs.map (fun l => { lanes := l }) }
  let k : Inst := { benchInst 1 0 0 with regs := 32 }
  { State.reset with insts := [k], groups := [g], cur := some (1, 0) }

/-- The registers after an instruction. -/
def miniRegs (m : Mini) (o : Host.Outcome State Fault Refusal) : Mini :=
  match o with
  | .next s =>
    match s.group? 1 with
    | some g => { m with regs := g.vregs.map (·.lanes) }
    | none => m
  | _ => m

/-- One instruction of a definition. -/
def miniStep (m : Mini) (w : DWord) : Mini :=
  match decode w with
  | .mpush f =>
    { m with mask := m.mask &&& Mask.ofPred (fun i => m.read f.a.toNat i != 0), stack := m.mask :: m.stack }
  | .melse _ => { m with mask := m.stack.headD 0 &&& ~~~m.mask }
  | .mpop _ => { m with mask := m.stack.headD 0, stack := m.stack.drop 1 }
  | i =>
    match defExec i with
    | some f => miniRegs m (f (miniState m w))
    | none => m

def miniRun (m : Mini) (ws : List DWord) : Mini := ws.foldl miniStep m

/-- One value in every lane. -/
def bcast (v : Word) : List Word := List.replicate 32 v

/-- K0 to K7. -/
def defKs (d : DefImage) : List (List Word) := (List.range 8).map (fun j => bcast (defK d j))

/-- The words of a line. -/
def lineWords (bs : List Byte) : List Word := (List.range 32).map (fun i => BitVec.ofNat 32 (leAt bs (4 * i) 4))
def wordsBytes (ws : List Word) : List Byte := ws.flatMap (fun w => toLE 4 w.toNat)

/-- A0 to A7 of a payload. -/
def payloadRegs (p : Payload) : List (List Word) := p.elems :: (List.range 7).map (fun k => bcast (p.scalars.getD k 0))

/-- The main program over the footprint's lines (R368): their new words. -/
def runMain (d : DefImage) (lines : List (List Byte)) (p : Payload) : List (List Byte) :=
  let ls := (List.range 8).map (fun j => match lines[j]? with | some l => lineWords l | none => bcast 0)
  let m : Mini := { regs := ls ++ payloadRegs p ++ List.replicate 8 (bcast 0) ++ defKs d, mask := miniLanes, stack := [] }
  let r := miniRun m ((defMain d).getD [])
  (List.range lines.length).map (fun j => wordsBytes (r.regs.getD j []))

/-- The combine sub-program over an earlier and a later payload (R371); the element result is rounded to PFMT, and there
are NSCAL scalar words. -/
def runCombine (d : DefImage) (earlier later : Payload) : Payload :=
  let m : Mini :=
    { regs := payloadRegs later ++ payloadRegs earlier ++ List.replicate 8 (bcast 0) ++ defKs d, mask := miniLanes, stack := [] }
  let r := miniRun m ((defComb d).getD [])
  { elems := (List.range 32).map (fun i => payloadElem (defPfmt d) (r.word 8 i))
    scalars := (List.range (min 7 (defNscal d))).map (fun k => r.word (9 + k) 0) }

end Sys2Proof.Machine
end

