-- ==== Sys2Proof/Machine/EngPlan.lean ====
section
/-! DEFINITION. What an engine operation reads and writes (R253, R255 to R265): the rows it reads, the bytes that a unit's write carries, and the reduction of a collective. -/

namespace Sys2Proof.Machine

open Sys2Proof

/-! ## Rows read -/

/-- The index list of a GATH or SCAT: row 0. -/
def listRow (list n : Nat) : EngRow := (list, 4 * n, 16)

/-- Its indices, once read. -/
def Eng.indices (e : Eng) (list n : Nat) : Option (List Nat) :=
  (e.rowBytes 0 (listRow list n)).map (fun bs => (List.range n).map (fun j => leAt bs (4 * j) 4))

/-- The distinct values of some numbers, in order of first appearance. -/
def distinctNats (l : List Nat) : List Nat := l.foldl (fun acc i => if acc.contains i then acc else acc ++ [i]) []

/-- A table row of a GATH: one unit where it lies within one stripe of a memory-homed range, else its lines
(R261). -/
def tableRow (s : State) (e : Eng) (va rowb : Nat) : EngRow :=
  match routeOf s e.pkg e.ctx va with
  | some p => if p.mh && decide (va % 4096 + rowb ≤ 4096) then (va, rowb, 4096) else (va, rowb, 128)
  | none => (va, rowb, 128)

/-- Bytes of a source row of a SCAT, by the definition it names. -/
def scatBytes (s : State) (e : Eng) (slot rowb : Nat) : Nat := scatRow (slotOf s e.pkg e.ctx slot).img rowb

/-- Row i that an operation reads; the table rows of a GATH are known once its indices are read. -/
def readRow (s : State) (e : Eng) (i : Nat) : Option EngRow :=
  match e.kind with
  | .cpy _ src len | .nodeCopy _ src len _ _ | .rowpub _ src len => if i = 0 then some (src, len, 16) else none
  | .cpy2d _ src rb rows ss _ => if i < rows then some (src + i * ss, rb, 16) else none
  | .tld t src stride =>
    let tl := engTile s e t
    if i < tl.nrows then some (src + i * stride, 4 * tl.ncols, 16) else none
  | .gath _ table n rowb stride list =>
    if i = 0 then some (listRow list n)
    else
      match e.indices list n with
      | some idx => ((distinctNats idx)[i - 1]?).map (fun u => tableRow s e (table + u * stride) rowb)
      | none => none
  | .scat _ src n rowb _ list slot _ =>
    if i = 0 then some (listRow list n) else if i = 1 then some (src, n * scatBytes s e slot rowb, 16) else none
  | .coll _ src count lv kind type _ =>
    if i = 0 ∧ (kind ≠ 1 ∨ collMember s e lv = 0) then some (src, (collSizes kind (collP s e lv) count).1 * collBytes type, 16) else none
  | .redgo block _ =>
    if i = 0 then some (blockRow block)
    else
      match rdeGood s e block with
      | some b => (b.srcs[i - 1]?).map (fun a => (a, b.len, 128))
      | none => none
  | _ => none

/-- Number of rows read; a GATH's table rows count once its indices are read. -/
def readRows (s : State) (e : Eng) : Nat :=
  match e.kind with
  | .cpy2d _ _ _ rows _ _ => rows
  | .tld t _ _ => (engTile s e t).nrows
  | .gath _ _ n _ _ list =>
    match e.indices list n with
    | some idx => 1 + (distinctNats idx).length
    | none => 2
  | .scat _ _ _ _ _ _ _ _ => 2
  | .redgo block _ =>
    match rdeGood s e block with
    | some b => 1 + b.nsrc
    | none => 1
  | .cpy _ _ _ | .nodeCopy _ _ _ _ _ | .rowpub _ _ _ | .coll _ _ _ _ _ _ _ => 1
  | _ => 0

/-- Every unit of an operation has been read; a row not yet known is one that has not been. -/
def readsDone (s : State) (e : Eng) : Bool :=
  (List.range (readRows s e)).all (fun i =>
    match readRow s e i with
    | some r => (List.range r.count).all (fun j => (e.got (unitNo i j)).isSome)
    | none => match e.kind with | .coll _ _ _ _ _ _ _ => true | _ => false)

/-- Row i holds sources: every row but a REDGO's parameter block, which is read before anything is written (R388). -/
def EngKind.sourceRow (k : EngKind) (i : Nat) : Bool :=
  match k with
  | .redgo _ _ => i != 0
  | _ => true

/-- A byte is one of an operation's sources (R256, R388). -/
def srcHas (s : State) (e : Eng) (va : Nat) : Bool :=
  (List.range (readRows s e)).any (fun i =>
    match readRow s e i with
    | some r => e.kind.sourceRow i && decide (r.1 ≤ va) && decide (va < r.1 + r.2.1)
    | none => false)

/-- Every unit of an operation has been written. -/
def writesDone (s : State) (e : Eng) : Bool :=
  (List.range (writeRows s e)).all (fun i =>
    match writeRow s e i with
    | some r => (List.range r.count).all (fun j => e.written.contains (unitNo i j))
    | none => false)

/-! ## Collectives (R264 to R266) -/

/-- The operations that have joined the collective of one member, by member number. -/
def collMembers (s : State) (e : Eng) : List Eng :=
  match e.kind, engRank s e with
  | .coll _ _ _ lv _ _ n, some (k, r) =>
    let node := r / groupSize k.levels lv
    (List.range (groupSize k.levels lv)).filterMap (fun j =>
      s.engs.find? (fun o =>
        match o.kind, s.group? o.gid with
        | .coll _ _ _ lv' _ _ n', some g => lv' == lv && n' == n && g.inst == k.id && g.rank == node * groupSize k.levels lv + j
        | _, _ => false))
  | _, _ => []

/-- The shape of a collective: kind, type and count. -/
def EngKind.shape : EngKind → Nat × Nat × Nat
  | .coll _ _ count _ kind type _ => (kind, type, count)
  | _ => (0, 0, 0)

/-- Every member has joined, and read its source. -/
def collReady (s : State) (e : Eng) (lv : Nat) : Bool :=
  let ms := collMembers s e
  ms.length == collP s e lv && ms.all (readsDone s)

/-- One addition of a collective (R264). -/
def collAdd (type a b : Nat) : Nat :=
  match type with
  | 0 => fp32.encode .rne ((fp32.decode a).add .rne (fp32.decode b))
  | 1 => bf16.encode .rne ((bf16.decode a).add .rne (bf16.decode b))
  | 2 => (a + b) % 2 ^ 32
  | _ => fp64.encode .rne ((fp64.decode a).add .rne (fp64.decode b))

/-- Sums by place: values with a key are grouped by it in increasing key, and each group is summed by f. -/
def sumBy (bound : Nat) (f : List Nat → Nat) (l : List (Nat × Nat)) : List (Nat × Nat) :=
  (List.range bound).filterMap (fun k =>
    match (l.filter (fun p => p.1 == k)).map (·.2) with
    | [] => none
    | vs => some (k, f vs))

/-- A sum's value with a NaN made canonical (R49; log entry 114). -/
def sumCanon (type v : Nat) : Nat :=
  match type with
  | 0 => fp32.canon v
  | 1 => bf16.canon v
  | 2 => v
  | _ => fp64.canon v

/-- The tree of R71 over values. -/
def treeSum (type : Nat) (vs : List Nat) : Nat := sumCanon type ((pairTree (collAdd type) 40 vs).headD 0)

/-- The members on one core, in increasing rank, added one after another. -/
def seqSum (type : Nat) : List Nat → Nat
  | [] => 0
  | v :: t => t.foldl (collAdd type) v

/-- The reduction of R265 within one package: of (core, value), in increasing rank. -/
def packageSum (type : Nat) (l : List (Nat × Nat)) : Nat :=
  let cores := sumBy 672 (seqSum type) l
  let quads := sumBy 168 (treeSum type) (cores.map (fun p => (p.1 / 4, p.2)))
  let fields := sumBy 6 (treeSum type) (quads.map (fun p => (p.1 / 28, p.2)))
  treeSum type (fields.map (·.2))

/-- The reduction of R265: of (package, core, value), in increasing rank. -/
def placeSum (type : Nat) (l : List (Nat × Nat × Nat)) : Nat :=
  treeSum type ((List.range 128).filterMap (fun p =>
    match (l.filter (fun x => x.1 == p)).map (·.2) with
    | [] => none
    | vs => some (packageSum type vs)))

/-- Element i of a member's source. -/
def collElem (e : Eng) (row : Option EngRow) (type i : Nat) : Nat :=
  match row with
  | some r =>
    match e.rowBytes 0 r with
    | some bs => leAt bs (collBytes type * i) (collBytes type)
    | none => 0
  | none => 0

/-- Element i of a member's destination, where the members agree. -/
def collResult (s : State) (e : Eng) (ms : List Eng) (count lv kind type i : Nat) : Nat :=
  let elem (m : Eng) (j : Nat) : Nat := collElem m (readRow s m 0) type j
  let sum (j : Nat) : Nat := placeSum type (ms.map (fun m => (m.pkg, m.issueCore, elem m j)))
  match kind with
  | 0 => sum i
  | 1 => (ms.map (fun m => elem m i)).headD 0
  | 2 => ((ms[i / count]?).map (fun m => elem m (i % count))).getD 0
  | _ => sum (collMember s e lv * count + i)

/-- The members differ in kind, type or count. -/
def collMixed (e : Eng) (ms : List Eng) : Bool := ms.any (fun m => m.kind.shape != e.kind.shape)

/-! ## Bytes written -/

/-- The bytes of unit j of row i as the operation gives them, once they are known. -/
def writeData (s : State) (e : Eng) (i j : Nat) (p : Nat × Nat) (r : EngRow) : Option (List Byte) :=
  match e.kind with
  | .mstMem _ _ _ _ _ bytes => some (((bytes.getD i []).drop (p.1 - r.1)).take p.2)
  | .cpy _ _ _ | .nodeCopy _ _ _ _ _ | .cpy2d _ _ _ _ _ _ => e.got (unitNo i j)
  | .tst _ t _ =>
    let tl := engTile s e t
    let cells := match s.core? e.pkg e.core with | some c => c.ashlar | none => []
    let row := (List.range tl.ncols).flatMap (fun c => toLE 4 (cellRead cells tl.stamp (tl.cell i c)).toNat)
    some ((row.drop (p.1 - r.1)).take p.2)
  | .gath _ _ n rowb _ list =>
    match e.indices list n with
    | none => none
    | some idx =>
      let off := p.1 - r.1
      let u := idx.getD (off / rowb) 0
      let i' := 1 + (distinctNats idx).findIdx (· == u)
      match readRow s e i' with
      | some tr =>
        let at_ := tr.1 + off % rowb
        let j' := at_ / tr.2.2 - tr.1 / tr.2.2
        match tr.piece j', e.got (unitNo i' j') with
        | some q, some bs => some ((bs.drop (at_ - q.1)).take p.2)
        | _, _ => none
      | none => none
  | .rowpub _ src len => if readsDone s e then e.rowBytes 0 (src, len, 16) else none
  | .coll _ _ count lv kind type _ =>
    if collReady s e lv then
      let ms := collMembers s e
      if collMixed e ms then some ((List.range p.2).map (fun k => undefByte e (p.1 + k)))
      else
        let es := collBytes type
        some ((List.range (p.2 / es)).flatMap (fun k => toLE es (collResult s e ms count lv kind type ((p.1 - r.1) / es + k))))
    else none
  | .cpyg _ _ _ _ _ => (e.got 0).map (fun bs => (bs.drop (p.1 - r.1)).take p.2)
  | .redgo block _ =>
    match rdeGood s e block with
    | some b =>
      let es := collBytes b.type
      some ((List.range (p.2 / es)).flatMap (fun k =>
        let off := p.1 - r.1 + k * es
        let v (q : Nat) : Nat := leAt ((e.got (unitNo (1 + q) (off / 128))).getD []) (off % 128) es
        toLE es (treeSum b.type ((List.range b.nsrc).map v))))
    | none => none
  | _ => none

/-- Unit j of row i meets the operation's own source. -/
def selfOverlap (s : State) (e : Eng) (p : Nat × Nat) : Bool := (List.range p.2).any (fun k => srcHas s e (p.1 + k))

/-- The bytes that a unit's write carries: undefined where its destination is also its source, which is written
only once everything has been read. -/
def writeBytes (s : State) (e : Eng) (i j : Nat) (p : Nat × Nat) (r : EngRow) : Option (List Byte) :=
  if selfOverlap s e p then
    if readsDone s e then
      (writeData s e i j p r).map (fun bs =>
        (List.range bs.length).map (fun k => if srcHas s e (p.1 + k) then undefByte e (p.1 + k) else bs.getD k 0))
    else none
  else writeData s e i j p r

/-! ## Poison that an operation carries (R24, R258; log entry 118)

Poison goes by the 16 bytes: those of the destination are poisoned whose bytes come from poisoned ones. -/

/-- The 16 bytes at place o of row i were read poisoned. -/
def Eng.readPoison (e : Eng) (i : Nat) (r : EngRow) (o : Nat) : Bool :=
  let a := r.1 + o
  let j := a / r.2.2 - r.1 / r.2.2
  match r.piece j with
  | some p => e.poison.contains (unitNo i j, (a - p.1) / 16)
  | none => false

/-- Something of a GATH's or SCAT's index list was read poisoned. -/
def Eng.listPoison (e : Eng) : Bool := e.poison.any (fun x => decide (x.1 < unitNo 1 0))

/-- The members of a collective and the places in their sources that a byte of a destination comes from. -/
def collFrom (s : State) (e : Eng) (ms : List Eng) (count lv kind type o : Nat) : List (Eng × Nat) :=
  let n := count * collBytes type
  match kind with
  | 0 => ms.map (fun m => (m, o))
  | 1 => (ms.take 1).map (fun m => (m, o))
  | 2 => ((ms[o / n]?).map (fun m => (m, o % n))).toList
  | _ => ms.map (fun m => (m, collMember s e lv * n + o))

/-- Bytes of row i of an operation's tile, n from place o on, hold poison. -/
def tilePoison (s : State) (e : Eng) (t i o n : Nat) : Bool :=
  match s.core? e.pkg e.core with
  | some c =>
    let tl := c.tiles.getD t { }
    (List.range n).any (fun k => decide (o + k < 4 * tl.ncols) && c.isBad [8 * tl.cell i ((o + k) / 4) + 2 * ((o + k) % 4), 8 * tl.cell i ((o + k) / 4) + 2 * ((o + k) % 4) + 1])
  | none => false

/-- The 16 bytes at place o of row i of the destination take poisoned data. -/
def writePoisoned (s : State) (e : Eng) (i o : Nat) : Bool :=
  let src (q : Nat) (o : Nat) : Bool := match readRow s e q with | some r => e.readPoison q r o | none => false
  match e.kind with
  | .cpy _ _ _ | .nodeCopy _ _ _ _ _ | .cpy2d _ _ _ _ _ _ | .rowpub _ _ _ => src i o
  | .tst _ t _ => tilePoison s e t i o 16
  | .coll _ _ count lv kind type _ =>
    let ms := collMembers s e
    if collMixed e ms then ms.any (fun m => !m.poison.isEmpty)
    else
      (List.range 16).any (fun k => (collFrom s e ms count lv kind type (o + k)).any (fun p =>
        match readRow s p.1 0 with
        | some r => p.1.readPoison 0 r (p.2 / 16 * 16)
        | none => false))
  | .gath _ _ n rowb _ list =>
    e.listPoison ||
      match e.indices list n with
      | some idx => src (1 + (distinctNats idx).findIdx (· == idx.getD (o / rowb) 0)) (o % rowb)
      | none => false
  | _ => false

end Sys2Proof.Machine
end

