-- ==== Sys2Proof/Machine/Sched.lean ====
section
/-! DEFINITION. Scheduling: clause fetch with merging, holding and boundary waits (R80 to R85, R202, R203, R317, R320), the active set (R316, R318, R319), the wait limit (R120), the ends of waits (R153, R216), and FENCES windows (R154 to R157). -/

namespace Sys2Proof.Machine

open Sys2Proof

/-! ## Reading code (R85, R199) -/

/-- Some words of code, or why there are none. -/
inductive CodeGot where
  | words (ws : List DWord)
  | outside
  | waits
  | poisoned
  deriving DecidableEq, Repr

/-- n words of the image's code from a code offset on; none while the fetch has no way to its home, or meets another epoch
there (R283, R421). -/
def codeWords (s : State) (x : Iss) (off n : Nat) : CodeGot :=
  if x.k.codeLen < off + 8 * n then .outside
  else if !linked s x.g.pkg x.g.ctx (x.k.codeVa + off) || fetchStale s x (x.k.codeVa + off) then .waits
  else
    match readSpan s x.g.pkg x.g.ctx (x.k.codeVa + off) (8 * n) with
    | .bytes bs p => if p then .poisoned else .words ((List.range n).map (fun j => BitVec.ofNat 64 (leAt bs (8 * j) 8)))
    | _ => .waits

/-- A clause as fetched, the trap that its header or an instruction takes, or why it is not there yet. -/
inductive ClauseGot where
  | ok (h : ClauseHdr) (ws : List DWord)
  | trap (t : Trap) (p : TrapAt)
  | waits
  | poisoned
  deriving DecidableEq, Repr

/-- ADDR for a fetch outside the code (R85, R448). -/
def codeAddr (off : Nat) : Trap := { cause := cADDR, info := 0, addr := off }

/-- Read the clause a split stands at, without its checks beyond the header's count. -/
def rawClause (s : State) (x : Iss) : ClauseGot :=
  let at_ := x.sp.atHeader
  match codeWords s x x.sp.hdr 1 with
  | .words ws =>
    let h := clauseHdr (ws.headD 0)
    match codeWords s x (x.sp.hdr + 8) (h.count + 1) with
    | .words is => .ok h is
    | .outside => .trap (codeAddr x.k.codeLen) at_
    | .waits => .waits
    | .poisoned => .poisoned
  | .outside => .trap (codeAddr x.sp.hdr) at_
  | .waits => .waits
  | .poisoned => .poisoned

/-- Fetch and check a clause (R80 to R85); an offset that is no multiple of 8 is no header. -/
def fetchClause (s : State) (x : Iss) : ClauseGot :=
  let at_ := x.sp.atHeader
  let illcls : ClauseGot := .trap { cause := cILLCLS, info := 0 } at_
  match codeWords s x x.sp.hdr 1 with
  | .words ws =>
    let h := clauseHdr (ws.headD 0)
    if h.bad = true ∨ x.sp.hdr % 8 ≠ 0 then illcls
    else
      match rawClause s x with
      | .ok h is =>
        match firstMisplaced h.ecls is with
        | some i =>
          .trap { cause := cILLCLS, info := i + 1 }
            { pc := x.sp.hdr + 8 + 8 * i, header := false, hdr := x.sp.hdr, idx := i, len := is.length }
        | none => .ok h is
      | g => g
  | .outside => .trap (codeAddr x.sp.hdr) at_
  | .waits => .waits
  | .poisoned => .poisoned

/-! ## Readiness (R83, R317) -/

/-- The value of a clause's wait counter for a split. -/
def wctrVal (s : State) (x : Iss) (c : Nat) : Nat :=
  match c with
  | 1 => x.g.mtx
  | 2 => x.g.eng
  | 3 => x.g.rop
  | 4 => writesOpen s x.g.id x.sp.id + (x.sp.cts.filter (fun t => decide (nowOf s x.g < t.2))).length
  | 5 => x.g.kids
  | _ => 0

/-- The registers that hold a clause with one instruction: its sources with EP clear, and its guard, EXIT's too (R89, R207;
log entry 130). -/
def holdRegs (s : State) (x : Iss) (w : DWord) : List Nat :=
  match formOf x.k.levels (fun n => (tileOf s x (tileEntry x n)).fmt == 12) (decode w) with
  | none => []
  | some f =>
    if f.illop = true ∨ (f.illopd x.k).isSome then []
    else
      (f.opds.filter (fun o => !o.ep)).flatMap (fun o => o.readRegs x.k) ++ guardRegs f.g

/-- The registers that hold a clause where they are PENDING. -/
def clauseRegs (s : State) (x : Iss) (ws : List DWord) : List Nat := ws.flatMap (holdRegs s x)

/-- PENDING registers that hold a clause. -/
def pendingHolds (s : State) (x : Iss) (ws : List DWord) : List Nat := (clauseRegs s x ws).filter (fun r => regState x.g r == .pending)

/-- What a fetched clause waits for at its boundary: its counter, or its registers; none where it may begin. -/
def boundaryWait (s : State) (x : Iss) (h : ClauseHdr) (ws : List DWord) : Option WaitKind :=
  if h.wval < wctrVal s x h.wctr then some .wctr
  else if (pendingHolds s x ws).isEmpty then none
  else some .source

/-- A split stands inside a clause: words of it are left, or are to be read again. -/
def Split.inClause (sp : Split) : Bool := !sp.clause.isEmpty || sp.resume.isSome

/-- A group at a clause boundary: none of its splits has issued only part of a clause. -/
def Group.atBoundary (g : Group) : Bool := g.splits.all (fun sp => !sp.inClause)

/-- A split whose next clause is not stopped by a wait. -/
def unblocked (s : State) (g : Group) (k : Inst) (sp : Split) : Bool :=
  !sp.inClause && sp.bar.isNone &&
    match fetchClause s { g := g, sp := sp, k := k } with
    | .ok h ws => (boundaryWait s { g := g, sp := sp, k := k } h ws).isNone
    | .trap _ _ => sp.window.isNone
    | _ => false

/-- A split inside a clause that goes on issuing it. -/
def Split.goesOn (sp : Split) : Bool := sp.inClause && sp.wait.isNone

/-- A split is held: another unblocked split of the group has a lower next offset, which for one inside a clause is that
clause's (R203; log entry 134). -/
def heldBack (s : State) (g : Group) (k : Inst) (sp : Split) : Bool :=
  !sp.free && g.splits.any (fun o => o.id != sp.id && decide (o.hdr < sp.hdr) && (o.goesOn || unblocked s g k o))

/-- A split is ready (R317). -/
def splitReady (s : State) (g : Group) (k : Inst) (sp : Split) : Bool := unblocked s g k sp && !heldBack s g k sp

/-- Ranks of the level-lv node of a group. -/
def nodeRanks (k : Inst) (lv rank : Nat) : List Nat :=
  let m := groupSize k.levels lv
  (List.range m).map (rank / m * m + ·)

/-- Every group of the group's co-resident node has been placed (R31), and of a node above QUAD none is SAVED (R33). -/
def nodeResident (s : State) (g : Group) (k : Inst) : Bool :=
  let lv := topCo k.levels
  (nodeRanks k lv g.rank).all (fun r => k.placed.any (fun p => p.rank == r)
    && (decide (bindOf k.levels lv ≤ 3) || !s.groups.any (fun o => o.inst == k.id && o.rank == r && o.state == .saved)))

/-- A group is ready: its node is resident, and one of its splits is ready or goes on inside its clause. -/
def groupReady (s : State) (g : Group) : Bool :=
  match s.inst? g.inst with
  | none => false
  | some k => nodeResident s g k && !g.saving && (g.splits.any (fun sp => sp.inClause) || g.splits.any (splitReady s g k))

/-! ## Waiting for children (R45, R83) -/

/-- What a split waits for its group's kids counter to fall to, where it waits for children: it stands at a clause whose
`kids` wait is not satisfied. -/
def waitsKids (s : State) (x : Iss) : Option Nat :=
  if x.sp.inClause || x.sp.bar.isSome then none
  else
    match fetchClause s x with
    | .ok h _ => if h.wctr = 5 ∧ h.wval < x.g.kids then some h.wval else none
    | _ => none

/-- What a group waits for its kids counter to fall to, where it waits for its children: 0 where its lanes have left, else
the largest WVAL of its splits' kids waits. -/
def kidsLimit (s : State) (k : Inst) (g : Group) : Option Nat :=
  if g.splits.isEmpty then (if g.kids != 0 then some 0 else none)
  else
    g.splits.foldl (fun b sp =>
      match b, waitsKids s { g := g, sp := sp, k := k } with
      | some n, some v => some (max n v)
      | _, _ => none) (some 0)

/-- A group waits for its children: its lanes have left while it has some, or every split of it does (R45, R83); a saved one,
as long as what it waited for has not come. -/
def groupWaitsKids (s : State) (k : Inst) (g : Group) : Bool :=
  if g.state = .saved then g.kidsTo.any (fun n => decide (n < g.kids)) else (kidsLimit s k g).isSome

/-! ## Waits that a translation fault holds (R400) -/

/-- The count of a wait stops: a step or an engine operation that it waits for is held by a translation fault. -/
def waitHeld (s : State) (g : Group) (k : Inst) (sp : Split) (w : Wait) : Bool :=
  let step (f : Step → Bool) : Bool := s.steps.any (fun t => t.gid == g.id && !t.parked.isEmpty && f t)
  let eng (f : Eng → Bool) : Bool := s.engs.any (fun e => e.gid == g.id && !e.parked.isEmpty && f e)
  match w.kind with
  | .source => step (fun t => (stepRegs k t).any w.regs.contains)
  | .wctr => (w.on == 1 && step (fun _ => true)) || (w.on == 2 && eng (fun _ => true))
  | .tile => step (fun t => t.a.entry == some w.on || t.b.entry == some w.on) || eng (fun e => e.kind.entry == some w.on)
  | .barrier =>
    match sp.bar with
    | some (.obj obj _ _ _ _ _) => eng (fun e => e.abid == some obj)
    | _ => false
  | _ => false

/-! ## Merging (R60, R202) -/

/-- Two splits may merge: both at a boundary, neither in its handler, in a window, or with an open barrier wait. -/
def Split.mergeable (sp : Split) : Bool := !sp.inClause && !sp.inHandler && sp.window.isNone && sp.bar.isNone

/-- The region of a merged split (R202). -/
def mergeRegion (a b : Split) (st : Word) : Option Region :=
  match a.region, b.region with
  | some r, some q =>
    if r.clean && q.clean && r.hdr == q.hdr && r.live == q.live then
      some { r with st := st, mask := r.mask ||| q.mask, wrote := r.wrote.filter q.wrote.contains, broken := r.broken || q.broken }
    else some { r with clean := false }
  | some r, none => some { r with clean := false }
  | none, some q => some { q with clean := false }
  | none, none => none

/-- The longer of two boundary waits. -/
def longerWait (a b : Option Wait) : Option Wait :=
  match a, b with
  | some v, some w => if v.count < w.count then some w else some v
  | some v, none => some v
  | none, w => w

/-- The merged split; st is that of the split that holds the lowest lane, and so is the one its region recorded.  SR.TCAUSE,
SR.TPC and SR.TADDR are those of the split of the lower number (R202; log entry 126). -/
def Split.mergeWith (a b : Split) : Split :=
  let low := decide (b.lanes.lowest < a.lanes.lowest)
  { a with
    lanes := a.lanes ||| b.lanes
    mask := a.mask ||| b.mask
    st := if low then b.st else a.st
    ctmax := max a.ctmax b.ctmax
    relMax := max a.relMax b.relMax
    cts := joinCts a.cts b.cts
    yld := a.yld || b.yld
    seen := a.seen ++ b.seen
    region := mergeRegion a b (match a.region, b.region with | some r, some q => if low then q.st else r.st | _, _ => a.st)
    wait := longerWait a.wait b.wait
    held := min a.held b.held
    free := a.free || b.free }

/-- Accesses that one split holds pass to another. -/
def moveHolders (s : State) (gid old new : Nat) : State :=
  let h (l : List Nat) : List Nat := distinct (l.map (fun i => if i = old then new else i))
  { s with
    loads := s.loads.map (fun l => if l.gid = gid then { l with holders := h l.holders } else l)
    writes := s.writes.map (fun w => if w.gid = gid then { w with holders := h w.holders } else w)
    rops := s.rops.map (fun r => { r with issuers := r.issuers.map (fun i => if i.gid = gid then { i with holders := h i.holders } else i) })
    steps := s.steps.map (fun t => if t.gid = gid then { t with holders := h t.holders } else t)
    engs := s.engs.map (fun e => if e.gid = gid then { e with holders := h e.holders } else e)
    defOps := s.defOps.map (fun d => if d.gid = gid then { d with holders := h d.holders } else d)
    nms := s.nms.map (fun n => if n.gid = gid ∧ n.split = old then { n with split := new } else n) }

/-- The first two mergeable splits that will fetch one header. -/
def mergePair (g : Group) : Option (Split × Split) :=
  let l := g.splits.filter Split.mergeable
  l.findSome? (fun a => (l.find? (fun b => decide (a.id < b.id) && b.hdr == a.hdr)).map (fun b => (a, b)))

/-- Merge until no two splits will fetch one header. -/
def mergeAll (s : State) (gid : Nat) : Nat → State
  | 0 => s
  | n + 1 =>
    match s.group? gid with
    | none => s
    | some g =>
      match mergePair g with
      | none => s
      | some (a, b) =>
        let s : State := s.mapGroup gid (fun g =>
          { g with splits := (g.splits.filter (fun o => o.id != b.id)).map (fun o => if o.id = a.id then a.mergeWith b else o) })
        mergeAll (moveHolders s gid b.id a.id) gid n

/-! ## Who enters the active set and who leaves it (R318, R319, R321) -/

/-- Groups of one core. -/
def groupsOn (s : State) (g : Group) : List Group := s.groups.filter (fun o => o.pkg == g.pkg && o.core == g.core)

/-- Places of the active set that are taken. -/
def placesTaken (l : List Group) : Nat := (l.filter (fun o => o.state == .active || (o.state == .parked && o.holdsPlace))).length

/-- Swaps of a group's core. -/
def swapsOf (s : State) (g : Group) : Nat :=
  match s.core? g.pkg g.core with
  | some c => c.swaps
  | none => 0

/-- A RESIDENT group of the same core has a better claim to a free place than g (R319). -/
def betterClaim (s : State) (g o : Group) : Bool :=
  let urgent (o : Group) : Bool := decide (o.swapsAt + 256 ≤ swapsOf s o)
  if urgent o && !urgent g then true
  else if urgent g && !urgent o then false
  else decide (g.readyCyc < o.readyCyc) || (o.readyCyc == g.readyCyc && decide (o.slot < g.slot))

/-- A RESIDENT group of the core is ready. -/
def readyWaits (s : State) (g : Group) : Bool := (groupsOn s g).any (fun o => o.state == .resident && groupReady s o)

/-- Cycles after which a ready RESIDENT group makes an ACTIVE one leave. -/
def swapLimit : Nat := 2048

/-- A RESIDENT group of the core has been ready that long. -/
def overdue (s : State) (g : Group) : Bool :=
  (groupsOn s g).any (fun o => o.state == .resident && decide (swapLimit ≤ o.readyCyc) && groupReady s o)

/-- Of the ACTIVE groups of the core at a boundary, this one has been ACTIVE the longest. -/
def activeLongest (s : State) (g : Group) : Bool :=
  (groupsOn s g).all (fun o => !(o.state == .active && o.atBoundary && decide (o.activeSince < g.activeSince)))

/-- A clause that a split of the group has just finished asks to yield (R84, R216). -/
def Group.asksYield (g : Group) : Bool := g.splits.any (fun sp => sp.yld && !sp.inClause)

/-- The departure of an ACTIVE group at a clause boundary is due (R84, R318): no split of it is ready, it yields to a
ready group, or it has been ACTIVE the longest while one has waited 2,048 cycles. -/
def departs (s : State) (g : Group) : Bool :=
  !g.saving && (!groupReady s g || (g.asksYield && readyWaits s g) || (overdue s g && activeLongest s g))

/-- An ACTIVE group at a clause boundary begins no further clause before it has left. -/
def mustLeave (s : State) (g : Group) : Bool :=
  g.state == .active && g.atBoundary && (g.leaving || (overdue s g && activeLongest s g))

/-- A swap of the core comes before any further clause: a RESIDENT group has been ready for 2,048 cycles, and an ACTIVE one
at a boundary leaves for it (R318, R321). -/
def swapDue (s : State) (g : Group) : Bool := overdue s g && (groupsOn s g).any (mustLeave s)

/-- A RESIDENT group that has been ready for 2,048 cycles takes a free place before a clause begins on the core
(R319, R321). -/
def entryDue (s : State) (g : Group) : Bool := overdue s g && decide (placesTaken (groupsOn s g) < 8)

/-! ## CLAUSE_FETCH -/

/-- Another split of the group that stands at the same header, and with which the split merges only once an open FENCES
window of one of them has closed: till then neither fetches the header (R155, R202). -/
def mergeStalls (g : Group) (sp : Split) : Bool :=
  !sp.inHandler && sp.bar.isNone
    && g.splits.any (fun o => o.id != sp.id && !o.inClause && !o.inHandler && o.bar.isNone && o.hdr == sp.hdr
        && (o.window.isSome || sp.window.isSome))

/-- A wait at the boundary begins, or changes its kind; none where it only goes on. -/
def startBoundaryWait (s : State) (x : Iss) (kind : WaitKind) (wctr : Nat) (ws : List DWord) : Option State :=
  let rs := if kind = .source then pendingHolds s x ws else []
  let open_ := (stepsWriting s x rs).any (fun st => st.seq == 0)
  let same := match x.sp.wait with
    | some w => w.kind == kind && w.boundary
    | none => false
  if same then (if open_ then some (commitFor s x rs) else none)
  else
    let w : Wait :=
      match kind with
      | .source => { kind := kind, count := 0, boundary := true, regs := clauseRegs s x ws }
      | _ => { kind := kind, count := 0, boundary := true, on := wctr }
    some ((commitFor s x rs).mapSplit x.g.id x.sp.id (fun sp => { sp with wait := some w }))

/-- Clauses of the other splits after which a hold ends. -/
def holdLimit : Nat := 64

/-- Another split of the group goes first: its hold has to end after 64 clauses, or has ended so and it is ready (R203,
R321). -/
def holdsTurn (s : State) (g : Group) (k : Inst) (sp : Split) : Bool :=
  g.splits.any (fun o => o.id != sp.id
    && ((decide (holdLimit ≤ o.held) && heldBack s g k o) || (o.free && !sp.free && splitReady s g k o)))

/-- The acquire of a group's first issue (R169, R305): at the launch's scope, which a LAUNCH names in its launcher's tree
and a node in the launched kernel's. -/
def firstAcquire (s : State) (x : Iss) : State :=
  match x.k.launcher with
  | .node _ _ => acquireAt s x x.k.scope
  | .group gid _ sc =>
    match (s.group? gid).bind (fun g => s.inst? g.inst) with
    | some p => acquireAs s x (bindOf p.levels sc)
    | none => acquireAt s x 14

/-- A clause begins: its words are the split's, the holds of the group's other splits count it, an eng wait is an
acquire at the root, and a group's first clause acquires at its launch's scope (R83, R169, R203, R305).  A split that is held again with no clause begun since keeps its count (log entry 141). -/
def beginClause (s : State) (x : Iss) (h : ClauseHdr) (ws : List DWord) : State :=
  let holds := (x.g.splits.filter (fun o => heldBack s x.g x.k o)).map (·.id)
  let s : State := s.mapGroup x.g.id (fun g =>
    { g with
      acquired := true
      splits := g.splits.map (fun o =>
        if o.id = x.sp.id then { o with clause := ws, idx := 0, resume := none, wait := none, held := 0, free := false, yld := h.yld }
        else if holds.contains o.id then { o with held := o.held + 1 }
        else { o with held := 0 }) })
  let s : State := s.mapInst x.g.inst (fun k => if k.state = .placing then { k with state := .running } else k)
  let s : State := if x.g.acquired then s else firstAcquire s x
  if h.wctr = 2 then acquireAt s x 14 else s

/-- A trap at a clause's fetch; in a FENCES window it stalls instead (R155). -/
def fetchTrap (s : State) (x : Iss) (t : Trap) (p : TrapAt) : Option State :=
  if x.sp.window.isSome then none else some (takeTrap s x.g x.sp x.k t p)

/-- The word is a YIELD. -/
def isYield (w : DWord) : Bool :=
  match decode w with
  | .yield _ => true
  | _ => false

/-- A split that is to go on inside its clause reads the clause's words again; the clause asks to yield as it did (R84). -/
def resumeClause (s : State) (x : Iss) (i : Nat) : Option State :=
  match rawClause s x with
  | .ok h ws =>
    if x.g.issues then
      some (s.mapSplit x.g.id x.sp.id (fun sp => { sp with clause := ws, idx := i, resume := none, yld := h.yld || (ws.take i).any isYield }))
    else none
  | .trap t p => fetchTrap s x t p
  | .poisoned => some (raiseUncorr s x.g.pkg x.g.ctx x.g.core (x.k.codeVa + x.sp.hdr))
  | .waits => none

/-- A split at a boundary: its open barrier wait ends, or its clause is fetched, checked, waited for and begun. -/
def fetchAtBoundary (s : State) (x : Iss) : Option State :=
  match x.sp.bar with
  | some b => endBoundaryWait s x b
  | none =>
    if heldBack s x.g x.k x.sp then none
    else
      match fetchClause s x with
      | .trap t p => if x.g.state = .active then fetchTrap s x t p else none
      | .poisoned => some (raiseUncorr s x.g.pkg x.g.ctx x.g.core (x.k.codeVa + x.sp.hdr))
      | .waits => none
      | .ok h ws =>
        match boundaryWait s x h ws with
        | some kind => startBoundaryWait s x kind h.wctr ws
        | none =>
          if x.g.state = .active ∧ nodeResident s x.g x.k = true ∧ holdsTurn s x.g x.k x.sp = false then
            some (beginClause s x h ws)
          else none

/-- A fetch of code reaches its home, which drops it: it is of another epoch (R283). -/
def fetchDropped (s : State) (x : Iss) (va : Nat) : Bool := linked s x.g.pkg x.g.ctx va && fetchStale s x va

/-- CLAUSE_FETCH of a split of an ACTIVE or RESIDENT group: first the merges of R202, then the split's own step. -/
def clauseFetch (s : State) (gid spid : Nat) (up : Upset) : Option State :=
  match s.group? gid with
  | none => none
  | some g =>
    match s.inst? g.inst, g.split? spid with
    | some k, some sp =>
      if g.saving = true ∨ g.waitOver = true ∨ (g.state ≠ .active ∧ g.state ≠ .resident ∧ g.issues = false) then none
      else
        let x : Iss := { g := g, sp := sp, k := k }
        let va := k.codeVa + sp.hdr
        match sp.resume with
        | some i =>
          if sp.clause.isEmpty = false ∨ sp.fetchLost = true then none
          else if fetchDropped s x va then some (loseFetch s x va)
          else resumeClause s x i
        | none =>
          if g.atBoundary = false ∨ g.state = .parked then none
          else if (mergePair g).isSome then some (mergeAll s gid 4)
          else if mustLeave s g = true ∨ swapDue s g = true ∨ entryDue s g = true ∨ mergeStalls g sp = true ∨ sp.fetchLost = true then none
          else if sp.bar.isNone = true ∧ fetchDropped s x va = true then some (loseFetch s x va)
          else
            let u := codeUpset s g va up
            if u.2 then fetchAtBoundary u.1 x else some u.1
    | _, _ => none

def execClauseFetch (gid split : Nat) (up : Upset) (s : State) : Host.Outcome State Fault Refusal :=
  ifEnabled (clauseFetch s gid split up)

/-! ## SPLIT_HOLD_END (R203) -/

def splitHoldEnd (s : State) (gid spid : Nat) : Option State :=
  match s.group? gid with
  | none => none
  | some g =>
    match s.inst? g.inst, g.split? spid with
    | some k, some sp =>
      if heldBack s g k sp = true ∧ holdLimit ≤ sp.held then some (s.mapSplit gid spid (fun sp => { sp with free := true, held := 0 }))
      else none
    | _, _ => none

def execSplitHoldEnd (gid split : Nat) (s : State) : Host.Outcome State Fault Refusal := ifEnabled (splitHoldEnd s gid split)

/-! ## The active set (R316, R318, R319) -/

def activeSetEnter (s : State) (gid : Nat) : Option State :=
  match s.group? gid with
  | none => none
  | some g =>
    let all := groupsOn s g
    if g.state = .resident ∧ groupReady s g = true ∧ placesTaken all < 8
        ∧ !all.any (fun o => o.id != gid && o.state == .resident && groupReady s o && betterClaim s g o) then
      some (s.mapGroup gid (fun g => { g with state := .active, readyCyc := 0, activeSince := s.tick }))
    else none

def execActiveSetEnter (gid : Nat) (s : State) : Host.Outcome State Fault Refusal := ifEnabled (activeSetEnter s gid)

/-- A group gives up its place: one swap of its core. -/
def leaveActive (s : State) (g : Group) : State :=
  let n := swapsOf s g + 1
  let s : State := s.mapCore g.pkg g.core (fun c => { c with swaps := n })
  s.mapGroup g.id (fun g =>
    { g with state := if g.state = .active then .resident else g.state, holdsPlace := false, swapsAt := n, readyCyc := 0
             leaving := false })

/-- A group leaves at a clause boundary where its departure is due; a PARKED one gives up the place it kept. -/
def activeSetLeave (s : State) (gid : Nat) : Option State :=
  match s.group? gid with
  | none => none
  | some g =>
    if g.atBoundary = false then none
    else
      match g.state with
      | .active => if g.leaving = true ∨ departs s g = true then some (leaveActive s g) else none
      | .parked => if g.holdsPlace then some (leaveActive s g) else none
      | _ => none

def execActiveSetLeave (gid : Nat) (s : State) : Host.Outcome State Fault Refusal := ifEnabled (activeSetLeave s gid)

/-- SWAP_TIMEOUT: a RESIDENT group has been ready for 2,048 cycles; the ACTIVE group at a boundary that has been
active longest leaves. -/
def swapTimeout (s : State) (gid : Nat) : Option State :=
  match s.group? gid with
  | none => none
  | some g =>
    if g.state = .active ∧ g.atBoundary = true ∧ overdue s g = true ∧ activeLongest s g = true then
      some (leaveActive s g)
    else none

def execSwapTimeout (gid : Nat) (s : State) : Host.Outcome State Fault Refusal := ifEnabled (swapTimeout s gid)

/-- What the end of a move settles of a group at a clause boundary: the departure of an ACTIVE one becomes due, and the
clause just finished has had its say; a PARKED one gives up the place it kept (R84, R316, R318). -/
def settleGroup (s : State) (gid : Nat) : State :=
  match s.group? gid with
  | none => s
  | some g =>
    if g.atBoundary then
      match g.state with
      | .active =>
        let due := g.leaving || departs s g
        s.mapGroup gid (fun g => { g with leaving := due, splits := g.splits.map (fun sp => { sp with yld := false }) })
      | .parked => if g.holdsPlace then leaveActive s g else s
      | _ => s
    else s

/-- The same for every group. -/
def settleGroups (s : State) : State := (s.groups.map (·.id)).foldl settleGroup s

/-! ## WAITTO (R120) -/

/-- Where a wait that reaches its limit traps: the barrier instruction's word, the header for another boundary
wait, else the waiting instruction. -/
def Split.waitPlace (sp : Split) (w : Wait) : TrapAt :=
  if w.boundary then
    match sp.bar with
    | some b => b.place
    | none => sp.atHeader
  else sp.at

def waitto (s : State) (gid spid : Nat) : Option State :=
  match s.group? gid with
  | none => none
  | some g =>
    match s.inst? g.inst, g.split? spid with
    | some k, some sp =>
      match waitDue g sp with
      | some w =>
        if w.boundary = false ∧ sp.atHint = true then some (s.mapSplit gid spid Split.advance)
        else some (takeTrap s g sp k { cause := cWAITTO, info := w.kind.code } (sp.waitPlace w))
      | none => none
    | _, _ => none

def execWaitto (gid split : Nat) (s : State) : Host.Outcome State Fault Refusal := ifEnabled (waitto s gid split)

/-! ## Waits that end (R153, R216) -/

/-- The instruction a split of a group stands at, where its wait has not reached its limit. -/
def standsAt (s : State) (gid spid : Nat) : Option (Iss × Instr) :=
  match issuer { s with cur := some (gid, spid) } with
  | none => none
  | some x => if (waitDue x.g x.sp).isSome then none else (x.sp.clause[x.sp.idx]?).map (fun w => (x, decode w))

/-- WAITT_EXPIRE: the timebase has reached the target of a split's WAITT, which then ends. -/
def execWaittExpire (gid split : Nat) (s : State) : Host.Outcome State Fault Refusal :=
  ifReady (do
    let (x, i) ← standsAt s gid split
    let t ← x.sp.waitt
    if t ≤ nowOf s x.g then
      match i with
      | .waitt w => some (execWaitt w { s with cur := some (gid, split) })
      | .waittD w => some (execWaittD w { s with cur := some (gid, split) })
      | _ => none
    else none)

/-- FENCE_COMPLETE: the fence a split waits at has its loads and CTs, and the timebase has reached its target. -/
def execFenceComplete (gid split : Nat) (s : State) : Host.Outcome State Fault Refusal :=
  ifReady (do
    let (x, i) ← standsAt s gid split
    match i with
    | .fence w => if fenceReady s x w.scope.toNat then some (execFence w { s with cur := some (gid, split) }) else none
    | .fences w =>
      if x.sp.asFence = true ∧ fenceReady s x w.scope.toNat = true then some (execFences w { s with cur := some (gid, split) })
      else none
    | _ => none)

/-! ## Loads and atomics that DENY has ended in some lanes (R402; log entry 33) -/

/-- Lanes' values by lane; an access made once gives its one value to every lane. -/
def laneVals (ls : List LaneAcc) (once : Bool) (f : LaneAcc → Nat) (i : Nat) : Nat :=
  match (if once then ls.head? else ls.find? (fun a => a.lane == i)) with
  | some a => f a
  | none => 0

/-- The registers that a load's use writes, whether its access is made once, and what a lane's bytes give. -/
def LoadUse.regs : LoadUse → List Nat
  | .reg d ty _ => (List.range (memRegs ty)).map (d + ·)
  | .const d _ => [d]
  | .jump _ => []

def LoadUse.once : LoadUse → Bool
  | .reg _ _ once => once
  | .const _ once => once
  | .jump _ => true

def LoadUse.val : LoadUse → LaneAcc → Nat
  | .reg _ ty _, a => loadConv ty a.data
  | .const _ _, a => leNat a.data
  | .jump _, _ => 0

/-- The registers that an atomic's use writes. -/
def WriteUse.regs : WriteUse → List Nat
  | .none => []
  | .atomReg d wide => if wide then [d, d + 1] else [d]
  | .garm d => [d]

/-- The words of some lanes of w vector registers from n up; their states stay. -/
def Group.setLanes (g : Group) (n : Nat) (m : Mask) (f : Nat → Nat) : Nat → Group
  | 0 => g
  | w + 1 =>
    let g := g.setLanes n m f w
    { g with vregs := modAt g.vregs (n + w) (fun v => { v with lanes := mapLanes m (fun i => BitVec.ofNat 32 (f i / 2 ^ (32 * w))) 0 v.lanes }) }

/-- An access of which DENY has ended some lanes is at its end: the others keep what they did, and its registers are
VOID. -/
def endDenied (s : State) (gid : Nat) (regs : List Nat) (ls : List LaneAcc) (once : Bool) (f : LaneAcc → Nat) : State :=
  let done := laneBits ((ls.filter (·.performed)).map (·.lane))
  setVoid (if once then s else s.mapGroup gid (fun g => g.setLanes (regs.headD 0) done (laneVals ls false f) regs.length)) gid regs

/-- A lane of the access has been ended by DENY. -/
def anyFailed (ls : List LaneAcc) : Bool := ls.any (·.failed)

/-- A load that DENY has ended in some lanes ends, once nothing of it is under way. -/
def endDeniedLoad (s : State) (l : Load) : State :=
  if l.performed then endDenied (s.dropLoad l.id) l.gid l.use.regs l.lanes l.use.once l.use.val else s

/-- The denied loads of a FENCES window when it closes: the split traps for the first of them (R155; log entry 35). -/
def endWindowDenials (s : State) (gid spid : Nat) : State :=
  let ls := s.loads.filter (fun l => l.gid == gid && l.holders.getLast? == some spid && anyFailed l.lanes)
  let s : State := ls.foldl endDeniedLoad s
  match ls.head?.bind (fun l => (lowestLane (l.lanes.filter (·.failed))).map (fun a => (l, a))) with
  | some (l, lane, va) => denyTrap s gid spid lane va l.place
  | none => s

/-! ## FENCES windows (R154 to R157) -/

/-- Loads of a split issued before its FENCES are performed. -/
def earlierLoadsDone (s : State) (gid spid first : Nat) : Bool :=
  !s.loads.any (fun l => heldBy gid spid l.gid l.holders && decide (l.id < first) && !l.performed)

/-- The loads of a window that closes are loads like any other: a later window registers none of them (R155). -/
def closeLoads (s : State) (gid spid first : Nat) : State :=
  { s with loads := s.loads.map (fun l => if heldBy gid spid l.gid l.holders && decide (first ≤ l.id) then { l with windowed := false } else l) }

/-- Registers that no open window has written need be noted no longer. -/
def Group.pruneLogs (g : Group) : Group := { g with logs := g.logs.filter (fun l => l.writes.any (·.undo)) }

/-- The writes of a split's window stand. -/
def Group.closeLogs (g : Group) (spid : Nat) : Group :=
  Group.pruneLogs { g with logs := g.logs.map (fun l => { l with writes := l.writes.map (fun w => if w.sp = spid then { w with undo := false } else w) }) }

/-- FENCES_WINDOW_CLOSE: ct_now() has reached T, the earlier loads are performed, and no registered line was
written before T. -/
def fencesWindowClose (s : State) (gid spid : Nat) : Option State :=
  match s.group? gid with
  | none => none
  | some g =>
    match g.split? spid with
    | none => none
    | some sp =>
      match sp.window with
      | none => none
      | some w =>
        if w.conflict = false ∧ w.target ≤ nowOf s g ∧ earlierLoadsDone s gid spid w.firstLoad = true then
          let s : State := State.mapGroup (closeLoads s gid spid w.firstLoad) gid (fun g => g.closeLogs spid)
          some (endWindowDenials (s.mapSplit gid spid (fun sp => { sp with window := none, rollbacks := 0, asFence := false })) gid spid)
        else none

def execFencesWindowClose (gid split : Nat) (s : State) : Host.Outcome State Fault Refusal := ifEnabled (fencesWindowClose s gid split)

/-- Words of the lanes of a mask taken from saved ones. -/
def restoreLanes (m : Mask) (saved now : List Word) : List Word := mapLanes m (fun i => saved.getD i 0) 0 now

/-- A vector register written in a window takes its words of before again in the split's lanes. -/
def restoreReg (lanes : Mask) (g : Group) (r : KeptReg) : Group :=
  if r.num < 640 then { g with vregs := modAt g.vregs r.num (fun v => { v with lanes := restoreLanes lanes r.words v.lanes }) } else g

/-- A register's writes, without those that a split's rollback undoes. -/
def RegLog.without (l : RegLog) (spid : Nat) : RegLog := { l with writes := l.writes.filter (fun w => !(w.sp == spid && w.undo)) }

/-- The value that a scalar has after the writes of its log. -/
def RegLog.value (l : RegLog) : Word := l.writes.foldl (fun v w => withBits w.bits w.val v) l.base

/-- A register that a split's window has written is as the writes that are left make it: a scalar its value, and each its
state.  One that is PENDING on a producer which the rollback does not discard stays so. -/
def undoReg (spid : Nat) (gone : List Nat) (g : Group) (l : RegLog) : Group :=
  if l.writes.any (fun w => w.sp == spid && w.undo) then
    let left := l.without spid
    let g : Group :=
      if 640 ≤ l.num ∧ l.num < 701 then { g with sregs := modAt g.sregs (l.num - 640) (fun v => { v with val := left.value }) } else g
    if regState g l.num = .pending ∧ gone.contains l.num = false then g
    else g.setRegState l.num (if left.writes.isEmpty then l.state else .full)
  else g

/-- The registers of a group after the rollback of a split's window (R154, R156, R172). -/
def restoreRegs (g : Group) (spid : Nat) (w : Window) (gone : List Nat) : Group :=
  let h := g.logs.foldl (undoReg spid gone) (w.kept.foldl (restoreReg w.saved.lanes) g)
  Group.pruneLogs { h with logs := h.logs.map (fun l => l.without spid) }

/-- A rollback: the checkpoint is restored, the window's loads are discarded, and the split stands at its FENCES. -/
def rollback (s : State) (g : Group) (sp : Split) (w : Window) (counts : Bool) : State :=
  let mine (l : Load) : Bool := heldBy g.id sp.id l.gid l.holders && decide (w.firstLoad ≤ l.id)
  let gone := (s.loads.filter mine).flatMap (fun l => l.use.regs)
  let s : State := { s with loads := s.loads.filter (fun l => !mine l) }
  let n := if counts then sp.rollbacks + 1 else sp.rollbacks
  let s : State := s.mapGroup g.id (fun g =>
    let g := restoreRegs g sp.id w gone
    { g with retStacks := (List.range laneCount).map (fun i =>
        if w.saved.lanes.getLsbD i then w.saved.retStacks.getD i [] else g.retStacks.getD i []) })
  let s : State := s.mapSplit g.id sp.id (fun sp =>
    { sp with lanes := w.saved.lanes, mask := w.saved.mask, hdr := w.saved.hdr, idx := w.saved.idx, clause := w.saved.clause
              resume := none, st := w.saved.st, window := none, wait := none, waitt := none, yld := w.saved.yld
              rollbacks := n, asFence := decide (4 ≤ n) })
  unpark s g.id

/-- FENCES_ROLLBACK: another agent's write to a registered line was performed before T. -/
def fencesRollback (s : State) (gid spid : Nat) : Option State :=
  match s.group? gid with
  | none => none
  | some g =>
    match g.split? spid with
    | none => none
    | some sp =>
      match sp.window with
      | some w => if w.conflict then some (rollback s g sp w true) else none
      | none => none

def execFencesRollback (gid split : Nat) (s : State) : Host.Outcome State Fault Refusal := ifEnabled (fencesRollback s gid split)

end Sys2Proof.Machine
end

