-- ==== Sys2Proof/Machine/MemEvents.lean ====
section
/-! DEFINITION. The steps of the memory system: reads and writes performed at their homes (R141 to R150, R162, R168, R246, R255), page faults met there (R220, R258, R400), soft errors (R23, R24), guest copies and leases (R144, R145), L1 fills (R134), delivery (R118) and the return of completion times (R149). -/

namespace Sys2Proof.Machine

open Sys2Proof

/-! ## Reading at a home -/

/-- How a read of one unit at its home ends. -/
inductive HomeGot where
  | ok (s : State) (bs : List Byte) (poisoned : Bool)
  | fault (home pch cause : Nat)
  | ended (s : State)
  | unrouted

/-- Read n bytes at va; the error, where there is one, is met in the first line. -/
def homeRead (s : State) (pkg ctx va n kind : Nat) (gid : Word) (up : Upset) : HomeGot :=
  match translate s pkg ctx va with
  | .unrouted => .unrouted
  | .fault h p c => .fault h p c
  | .at_ h p key =>
    let u := homeUpset s { pkg := pkg, ctx := ctx, va := va, home := h, pch := p, key := key, kind := kind, gid := gid } up
    if u.2 then
      match (if va % 128 + n ≤ 128 then readHome u.1 pkg ctx va n else readSpan u.1 pkg ctx va n) with
      | .bytes bs q => .ok u.1 bs q
      | .fault h p c => .fault h p c
      | .unrouted => .unrouted
    else .ended u.1

/-! ## What the splits of an access have seen of a line (R150) -/

/-- Latest place in a line's home order that an access of the split returned. -/
def Split.seenAt (sp : Split) (line : Nat) : Nat := (sp.seen.filter (fun x => x.1 == line)).foldl (fun n x => max n x.2) 0

def Split.see (sp : Split) (line n : Nat) : Split :=
  { sp with seen := (line, max n (sp.seenAt line)) :: sp.seen.filter (fun x => x.1 != line) }

/-- The splits that hold an access have seen a line at a place of its home order. -/
def markSeen (s : State) (gid : Nat) (holders : List Nat) (line n : Nat) : State :=
  s.mapGroup gid (fun g => { g with splits := g.splits.map (fun sp => if holders.contains sp.id then sp.see line n else sp) })

/-- The latest place that they have seen. -/
def seenBy (s : State) (gid : Nat) (holders : List Nat) (line : Nat) : Nat :=
  match s.group? gid with
  | some g => (g.splits.filter (fun sp => holders.contains sp.id)).foldl (fun n sp => max n (sp.seenAt line)) 0
  | none => 0

/-- An acquire has been performed: at a scope bound to CORE or wider, its core's L1 is invalidated (R159). -/
def acquired (s : State) (gid pkg core scope : Nat) : State :=
  match s.group? gid with
  | none => s
  | some g =>
    match s.inst? g.inst with
    | some k => if 2 ≤ bindOf k.levels scope then s.mapCore pkg core Core.dropL1 else s
    | none => s

/-! ## Page faults of lanes (R220, R399) -/

/-- A lane that still waits to be performed. -/
def LaneAcc.waits (a : LaneAcc) : Bool := !a.performed && !a.parked && !a.failed && !a.lost

/-- Lanes of an access on the page of an address. -/
def onPage (va : Nat) (a : LaneAcc) : Bool := a.waits && pageVa a.va == pageVa va

/-- The lanes on a page park; they replay against the entries of then (R401). -/
def parkLanes (va : Nat) (ls : List LaneAcc) : List LaneAcc :=
  ls.map (fun a => if onPage va a then { a with parked := true, replay := false, atIssue := [], bad := false } else a)

/-- The record of an access that faulted on a page, and its group parked. -/
def parkAccess (s : State) (gid ctx kind : Nat) (ls : List LaneAcc) (va home pch cause : Nat) : State :=
  let hit := ls.filter (onPage va)
  let low := (hit.map (·.va)).headD va
  let lanes := if kind ≤ 2 then laneBits (hit.map (·.lane)) else 0
  (faultRec s home ctx kind cause false (recGid s gid) low pch lanes).mapGroup gid Group.park

/-! ## LOAD_PERFORM: a lane of a load (R147) -/

/-- The lane of an access that is to be performed. -/
def waitingLane (ls : List LaneAcc) (lane : Nat) : Option LaneAcc := ls.find? (fun a => a.lane == lane && a.waits)

/-- A lane has its bytes; the last lane of an acquire performs it, and poisoned data on its way to a register raises
UNCORR; a response whose group has gone brings nothing to a register (R329). -/
def laneRead (s : State) (l : Load) (a : LaneAcc) (bs : List Byte) (poisoned : Bool) (seen : Option Nat) : State :=
  if poisoned && (s.group? l.gid).isSome then raiseUncorr s l.pkg l.ctx l.core a.va
  else
    let ls := l.lanes.map (fun b => if b.lane = a.lane then { b with performed := true, data := bs, near := a.near } else b)
    let s : State := s.mapLoad l.id (fun l => { l with lanes := ls })
    let s : State := match seen with
      | some n => markSeen s l.gid l.holders (lineOf a.va) n
      | none => s
    match l.acq with
    | some j => if ls.all (fun b => b.performed || b.failed) then acquired s l.gid l.pkg l.core j else s
    | none => s

/-- A load of an open FENCES window is registered at its line's home (R155). -/
def registerLine (s : State) (l : Load) (line : Nat) : State :=
  if l.windowed then
    s.mapGroup l.gid (fun g => { g with splits := g.splits.map (fun sp =>
      if l.holders.contains sp.id then
        { sp with window := sp.window.map (fun w => if w.firstLoad ≤ l.id then { w with regd := line :: w.regd.filter (· != line) } else w) }
      else sp) })
  else s

/-- A line's bytes from place va on, out of a snapshot of it. -/
def fromLine (bs : List Byte) (va n : Nat) : List Byte := (bs.drop (va % 128)).take n

/-- A plain load served by a snapshot that its core's L1 holds, or by one that an acquire has dropped from it and the
prefetcher fills it with again (R134, R163; log entry 133); an uncorrectable error there drops a snapshot, and errors of
other arrays are not met. -/
def readL1 (s : State) (l : Load) (a : LaneAcc) (k : Nat) (up : Upset) : Option State :=
  match s.core? l.pkg l.core with
  | none => none
  | some c =>
    match (c.l1 ++ c.past)[k]? with
    | none => none
    | some sn =>
      if sn.line = lineOf a.va ∧ l.plain = true ∧ a.ver.all (sn.ver ≤ ·) = true then
        match up with
        | .coreArray => some (s.mapCore l.pkg l.core (fun c => { c with l1 := c.l1.eraseIdx k }))
        | .hbmUnit | .l2Dirty | .correctableL2 => none
        | up =>
          let u := coreUpset s l.pkg l.ctx l.core up
          some (if u.2 then laneRead u.1 l { a with near := true } (fromLine sn.bytes a.va l.width) false none else u.1)
      else none

/-- Home order of a line when a core's L1 was invalidated for the instance. -/
def orderAtStart (s : State) (pkg core ctx line : Nat) : Nat :=
  match s.core? pkg core with
  | some c =>
    match c.orderAt.find? (fun x => x.1 == ctx && x.2.1 == line) with
    | some (_, _, n) => n
    | none => 0
  | none => 0

/-- A guest copy serves a load: before its expiry less 40, and not older than the load may return (R134, R145,
R150). -/
def guestServes (s : State) (l : Load) (a : LaneAcc) (gc : Guest) : Bool :=
  gc.pkg == l.pkg && gc.ctx == l.ctx && gc.line == lineOf a.va && decide (homeNow s l.pkg + 40 < gc.expiry)
    && ctxEpoch s l.pkg l.ctx == l.epoch
    && l.acq.isNone && !l.bypass
    && (if l.plain then decide (orderAtStart s l.pkg l.core l.ctx gc.line ≤ gc.ver) && a.ver.all (gc.ver ≤ ·)
        else decide (seenBy s l.gid l.holders gc.line ≤ gc.ver) && !olderWrite s l.gid l.holders l.id a.lane gc.line)

/-- A load served by a guest copy, which is a clean line of an L2 slice of its own package: an uncorrectable error in it
drops the copy, and the load is served anew (R23); a correctable one counts in the slice's field. -/
def readGuest (s : State) (l : Load) (a : LaneAcc) (k : Nat) (up : Upset) : Option State :=
  match s.guests[k]? with
  | none => none
  | some gc =>
    if guestServes s l a gc then
      let read (s : State) : State := laneRead s l { a with near := true } (fromLine gc.bytes a.va l.width) false (if l.plain then none else some gc.ver)
      match up with
      | .coreArray => some { s with guests := s.guests.eraseIdx k }
      | .hbmUnit | .l2Dirty => none
      | .correctable | .correctableL2 => some (read (countSlice s l.pkg a.va))
      | up =>
        let u := coreUpset s l.pkg l.ctx l.core up
        some (if u.2 then read u.1 else u.1)
    else none

/-- A lane's request of an old epoch ends at its home. -/
def loseLane (lane : Nat) (ls : List LaneAcc) : List LaneAcc := ls.map (fun b => if b.lane = lane then { b with lost := true } else b)

/-- What a lane read at its home brings: what its location held at the load's issue, where that was noted; the errors that
the read itself meets poison it too (R23, R24). -/
def laneBytes (a : LaneAcc) (bs : List Byte) (poisoned : Bool) (up : Upset) : List Byte × Bool :=
  if a.atIssue.isEmpty then (bs, poisoned) else (a.atIssue, a.bad || up == .hbmUnit || up == .l2Dirty)

/-- A load performed at its home. -/
def readLane (s : State) (l : Load) (a : LaneAcc) (up : Upset) : Option State :=
  if l.plain = false ∧ olderWrite s l.gid l.holders l.id a.lane (lineOf a.va) = true then none
  else
    match homeRead s l.pkg l.ctx a.va l.width l.kind (recGid s l.gid) up with
    | .ok s bs q =>
      some (laneRead (registerLine s l (lineOf a.va)) l a (laneBytes a bs q up).1 (laneBytes a bs q up).2
        (if l.plain then none else some (orderOf s l.ctx (lineOf a.va))))
    | .fault h p c =>
      some (parkAccess (s.mapLoad l.id (fun l => { l with lanes := parkLanes a.va l.lanes })) l.gid l.ctx l.kind l.lanes a.va h p c)
    | .ended s => some s
    | .unrouted => none

def performLane (s : State) (id lane : Nat) (src : ReadSrc) (up : Upset) : Option State :=
  match s.load? id with
  | none => none
  | some l =>
    match waitingLane l.lanes lane with
    | none => none
    | some a =>
      if acqPending s l.gid l.holders l.id = true ∨ olderParked s l.gid l.holders l.id a.va = true
          ∨ (l.plain = false ∧ olderCoherent s l.gid l.holders l.id a.va l.width = true) then none
      else
        match src with
        | .home =>
          if linked s l.pkg l.ctx a.va = false then none
          else if staleAt s l.pkg l.ctx l.epoch a.va then
            some (dropPacket (s.mapLoad id (fun l => { l with lanes := loseLane lane l.lanes })) (homeOf s l.pkg l.ctx a.va))
          else readLane s l a up
        | .l1 k => if a.replay then none else readL1 s l a k up
        | .guest k => if a.replay then none else readGuest s l a k up

/-! ## A line of a matrix step's operand (R246) -/

/-- Stored depth of a step's B. -/
def Step.ks (st : Step) : Nat :=
  match st.sparse with
  | 1 => st.k / 2
  | 2 => popcount st.bitmap.toNat * classChunk ((fmtClass st.afmt).getD 0)
  | _ => st.k

/-- Runs of bytes that a step reads in memory. -/
def stepRuns (st : Step) : List (Nat × Nat) :=
  let es := classBytes ((fmtClass st.afmt).getD 0)
  let runs (o : StepOperand) (outer inner : Nat) : List (Nat × Nat) :=
    match o with
    | .mem a stride _ => (List.range outer).map (fun i => (a + i * stride, inner * es))
    | .tile _ _ _ _ _ => []
  let byCol (o : StepOperand) : Bool := match o with | .mem _ _ c => c | .tile _ _ _ _ c => c
  (if byCol st.a then runs st.a st.k st.m else runs st.a st.m st.k)
    ++ (if byCol st.b then runs st.b st.n st.ks else runs st.b st.ks st.n)
    ++ (if st.sparse = 1 then [(st.metaVa, 48 * st.k / 4)] else [])

/-- Lines of a run. -/
def runLines (r : Nat × Nat) : List Nat := if r.2 = 0 then [] else (List.range ((r.1 % 128 + r.2 + 127) / 128)).map (lineOf r.1 + ·)

/-- The lines a step reads. -/
def stepLines (st : Step) : List Nat := distinctNats ((stepRuns st).flatMap runLines)

/-- The first address of a step in a line. -/
def stepAddr (st : Step) (line : Nat) : Nat :=
  match (stepRuns st).find? (fun r => (runLines r).contains line) with
  | some r => max r.1 (vaFull (128 * line))
  | none => vaFull (128 * line)

/-- Read one line of a step's operands. -/
def performStepLine (s : State) (id line : Nat) (up : Upset) : Option State :=
  match s.step? id with
  | none => none
  | some st =>
    let va := vaFull (128 * line)
    if (stepLines st).contains line = false ∨ st.fetched.any (fun f => f.line == line) = true
        ∨ st.parked.any (fun p => pageVa (128 * p) == pageVa va) = true
        ∨ linkedBoth s st.pkg st.ctx va = false ∨ st.lost.contains line = true
        ∨ acqPending s st.gid st.holders id = true ∨ olderWrite s st.gid st.holders id 0 line = true
        ∨ olderParked s st.gid st.holders id va = true then none
    else if staleAt s st.pkg st.ctx st.epoch va then
      some (dropPacket (s.mapStep id (fun st => { st with lost := line :: st.lost })) (homeOf s st.pkg st.ctx va))
    else
      match homeRead s st.pkg st.ctx va 128 5 (recGid s st.gid) up with
      | .ok s bs q =>
        some (if q then raiseUncorr s st.pkg st.ctx st.core (stepAddr st line)
              else s.mapStep id (fun st => { st with fetched := st.fetched ++ [{ line := line, bytes := bs }] }))
      | .fault h p c =>
        some (faultRec (s.mapStep id (fun st => { st with parked := st.parked ++ [line] })) h st.ctx 5 c false (recGid s st.gid)
          (stepAddr st line) p 0)
      | .ended s => some s
      | .unrouted => none

/-! ## A unit of an engine operation (R255, R258, R261, R262) -/

/-- KIND of an engine operation's records. -/
def engRecKind (e : Eng) : Nat := match e.kind with | .nodeCopy _ _ _ _ _ => 7 | .redgo _ _ => 9 | _ => 6

/-- The lines of a unit. -/
def unitLines (p : Nat × Nat) : List Nat := runLines p

/-- An operation's accesses to a unit come after every earlier write of its splits there. -/
def engBehind (s : State) (e : Eng) (p : Nat × Nat) : Bool :=
  (unitLines p).any (fun l => olderWrite s e.gid e.holders e.id 0 l) || olderParked s e.gid e.holders e.id p.1

/-- The operation meets a page that is not mapped. -/
def parkEng (s : State) (e : Eng) (va home pch cause : Nat) : State :=
  faultRec (s.mapEng e.id (fun e => { e with parked := e.parked ++ [va] })) home e.ctx (engRecKind e) cause false (recGid s e.gid) va pch 0

/-- A unit's source, its two halves by row and place. -/
def unitOf (row : Nat → Option EngRow) (u : Nat) : Option (EngRow × Nat × Nat) :=
  match row (u / 2 ^ 32) with
  | some r => (r.piece (u % 2 ^ 32)).map (fun p => (r, p))
  | none => none

/-- Context fault ADDR at an address that an index forms. -/
def indexFault (s : State) (e : Eng) (va : Nat) : State :=
  raiseCtxFault s e.pkg e.ctx { cause := cADDR, pkg := e.pkg, core := e.core, addr := va }

/-- Part l of a source row of a SCAT, as the unit sees it (R262). -/
def scatPart (img : DefImage) (bs : List Byte) (l : Nat) : List Word :=
  (List.range 32).map (fun j =>
    match defPfmt img with
    | 1 => BitVec.ofNat 32 (leAt bs (128 * l + 4 * j) 4)
    | 2 => BitVec.ofNat 32 (fp32.encode .rne (bf16.decode (leAt bs (64 * l + 2 * j) 2)))
    | _ => BitVec.ofNat 32 (fp32.encode .rne (fp16.decode (leAt bs (64 * l + 2 * j) 2))))

/-- Part l of the source row at a place was read poisoned. -/
def scatPoison (e : Eng) (img : DefImage) (r : EngRow) (o l : Nat) : Bool :=
  let n := if defPfmt img = 1 then 128 else 64
  (List.range (n / 16)).any (fun q => e.readPoison 1 r (o + n * l + 16 * q))

/-- The parts of some source rows combined in increasing row (R262). -/
def scatCombine (img : DefImage) (parts : List (List Word)) : List Word :=
  match parts with
  | [] => []
  | p :: t => t.foldl (fun acc q => (runCombine img { elems := acc, scalars := [] } { elems := q, scalars := [] }).elems) p

/-- Footprint lines of a SCAT's request. -/
def scatLines (s : State) (e : Eng) (img : DefImage) (va : Nat) : List Nat :=
  match routeOf s e.pkg e.ctx va with
  | some p => footprint img p.period va
  | none => [va]

/-- The requests of a SCAT whose sources have been read: one for each line of each distinct table row. -/
def scatRequests (s : State) (e : Eng) (table src n rowb stride list slot gen : Nat) : State :=
  let img := (slotOf s e.pkg e.ctx slot).img
  let rb := scatRow img rowb
  match e.indices list n, e.rowBytes 1 (src, n * rb, 16) with
  | some idx, some rows =>
    let bad := (distinctNats idx).flatMap (fun u => (List.range (rowb / 128)).map (fun l => table + u * stride + 128 * l))
    match bad.find? (fun va => (routeOf s e.pkg e.ctx va).isNone) with
    | some va => indexFault s e va
    | none =>
      let reqs := (distinctNats idx).flatMap (fun u =>
        (List.range (rowb / 128)).map (fun l =>
          let js := (List.range n).filter (fun j => idx.getD j 0 == u)
          (table + u * stride + 128 * l,
           scatCombine img (js.map (fun j => scatPart img ((rows.drop (j * rb)).take rb) l)),
           e.listPoison || js.any (fun j => scatPoison e img (src, n * rb, 16) (j * rb) l))))
      let s : State := s.mapEng e.id (fun e => { e with tail := true })
      reqs.foldl (fun s q =>
        { s with
          rops := s.rops ++ [{ id := s.nextId, ctx := e.ctx, pkg := e.pkg, target := q.1, lines := scatLines s e img q.1, slot := slot, gen := gen, fault := defFault img
                               ord := { acq := false, rel := false, scope := 0 }, payload := { elems := q.2.1, scalars := List.replicate 7 0 }
                               isReturn := false, rmode := 0
                               issuers := [{ gid := e.gid, pkg := e.pkg, core := e.core, holders := [], stat := none, ret := none, acqScope := none
                                             eng := some (e.id, 0), epoch := e.epoch, place := s.nextId }]
                               phase := .sent, status := 0, line := 0, retWords := [], home := 0, ct := 0, poisoned := q.2.2 }]
          nextId := s.nextId + 1 }) s
  | _, _ => s

/-- What follows the last read of an operation: the requests of a SCAT. -/
def afterRead (s : State) (id : Nat) : State :=
  match s.eng? id with
  | none => s
  | some e =>
    match e.kind with
    | .scat table src n rowb stride list slot gen =>
      if readsDone s e = true ∧ e.tail = false then scatRequests s e table src n rowb stride list slot gen else s
    | _ => s

/-- Ticks from the end of a migration's copies to its switch, at least (R404). -/
def switchTicks : Nat := 100

/-- A page of a home is MIGRATING (R404). -/
def migrating (s : State) (pkg ctx va : Nat) : Bool :=
  match routeOf s pkg ctx va with
  | some r =>
    match s.page? ctx r.home (pageVa va) with
    | some p => p.state == .migrating
    | none => false
  | none => false

/-- An operation's access to a page waits while the page is MIGRATING: a ROWPUB's row, and every access of a REDGO
(R390, R404). -/
def engHeld (s : State) (e : Eng) (va : Nat) (source : Bool) : Bool :=
  match e.kind with
  | .rowpub _ _ _ => !source && migrating s e.pkg e.ctx va
  | .redgo _ _ => migrating s e.pkg e.ctx va
  | _ => false

/-! ## Requests that a unit holds (R404) -/

/-- A run of bytes of a context's as a package addresses it. -/
structure Run where
  pkg : Nat
  ctx : Nat
  va : Nat
  len : Nat
  deriving DecidableEq, Repr

/-- What a held request accesses; nothing once it has begun. -/
def CuuReq.runs (s : State) : CuuReq → List Run
  | .rop id =>
    match s.rop? id with
    | some r => if r.phase = .held then [{ pkg := r.pkg, ctx := r.ctx, va := r.target, len := 128 }] else []
    | none => []
  | .nm id =>
    match s.nm? id with
    | some n => (match n.kind with | .mac nb _ _ _ _ => [{ pkg := n.pkg, ctx := n.ctx, va := n.va, len := 512 * nb }] | _ => [])
    | none => []
  | .eng id =>
    match s.eng? id with
    | some e =>
      let run (r : EngRow) : Run := { pkg := e.pkg, ctx := e.ctx, va := r.1, len := r.2.1 }
      match e.kind with
      | .rowpub _ _ _ => if e.written.isEmpty then (writeRow s e 0).toList.map run else []
      | .redgo _ _ => if e.tail then [] else (List.range 17).filterMap (fun i => (readRow s e i).map run)
      | _ => []
    | none => []

/-- The first addresses of a run's stripes. -/
def Run.stripes (r : Run) : List Nat :=
  r.va :: ((List.range (r.len / 4096 + 1)).map (fun i => (r.va / 4096 + 1 + i) * 4096)).filter (fun a => decide (a < r.va + r.len))

/-- Two runs of a context meet at one unit: the CUU of a pseudo-channel, or the unit of a line's slice. -/
def sameUnit (s : State) (a b : Run) : Bool :=
  a.ctx == b.ctx && homeOf s a.pkg a.ctx a.va == homeOf s b.pkg b.ctx b.va &&
    match routeOf s a.pkg a.ctx a.va, routeOf s b.pkg b.ctx b.va, s.ctx? (homeOf s a.pkg a.ctx a.va) a.ctx with
    | some e, some d, some c =>
      if e.mh && d.mh then a.stripes.any (fun x => b.stripes.any (fun y => c.pchOf e x == c.pchOf d y))
      else (runLines (a.va, a.len)).any (runLines (b.va, b.len)).contains
    | _, _, _ => false

/-- A request that the unit of a run holds has arrived before another one: held requests start in their order of arrival, and
before what arrives after them (R404). -/
def cuuAhead (s : State) (q : CuuReq) (r : Run) : Bool :=
  (s.cuu.takeWhile (· != q)).any (fun o => (o.runs s).any (fun x => sameUnit s x r))

/-- A request arrives at its unit, which holds it. -/
def holdCuu (s : State) (q : CuuReq) : Option State :=
  if s.cuu.contains q then none else some { s with cuu := s.cuu.filter (fun o => !(o.runs s).isEmpty) ++ [q] }

/-- An operation's access to some bytes is held at the unit. -/
def engWaits (s : State) (e : Eng) (p : Nat × Nat) (source : Bool) : Bool :=
  engHeld s e p.1 source ||
    match e.kind with
    | .rowpub _ _ _ => !source && cuuAhead s (.eng e.id) { pkg := e.pkg, ctx := e.ctx, va := p.1, len := p.2 }
    | .redgo _ _ => cuuAhead s (.eng e.id) { pkg := e.pkg, ctx := e.ctx, va := p.1, len := p.2 }
    | _ => false

/-- What of a unit is poisoned at its home, by the 16 bytes of it. -/
def unitPoison (s : State) (e : Eng) (u : Nat) (p : Nat × Nat) : List (Nat × Nat) :=
  ((List.range ((p.2 + 15) / 16)).filter (fun k => poisonedVa s e.pkg e.ctx (p.1 + 16 * k) (min 16 (p.2 - 16 * k)))).map (fun k => (u, k))

/-- A unit's request is of an old epoch and ends at its home. -/
def loseUnit (s : State) (e : Eng) (w : Bool) (u va : Nat) : State :=
  dropPacket (s.mapEng e.id (fun e => { e with lost := (w, u) :: e.lost })) (homeOf s e.pkg e.ctx va)

/-- Read one unit of an engine operation. -/
def performEngRead (s : State) (id u : Nat) (up : Upset) : Option State :=
  match s.eng? id with
  | none => none
  | some e =>
    match unitOf (readRow s e) u with
    | none => none
    | some (_, p) =>
      if (e.got u).isSome = true ∨ e.parked.isEmpty = false ∨ acqPending s e.gid e.holders id = true ∨ engBehind s e p = true
          ∨ linkedBoth s e.pkg e.ctx p.1 = false ∨ e.lost.contains (false, u) = true then none
      else if engWaits s e p true then holdCuu s (.eng id)
      else if staleAt s e.pkg e.ctx e.epoch p.1 then some (loseUnit s e false u p.1)
      else
        match homeRead s e.pkg e.ctx p.1 p.2 (engRecKind e) (recGid s e.gid) up with
        | .ok s bs _ =>
          some (afterRead (s.mapEng id (fun e => { e with reads := e.reads ++ [(u, bs)], poison := unitPoison s e u p ++ e.poison })) id)
        | .fault h c k => some (parkEng s e p.1 h c k)
        | .ended s => some s
        | .unrouted => some (indexFault s e p.1)

/-! ## A unit of a definition image (R362) -/

/-- Unit j of an image: the aligned 16 bytes from which it is read. -/
def defUnit (o : DefOp) (j : Nat) : Option (Nat × Nat) := EngRow.piece (o.va, o.len, 16) j

/-- A load of a definition ends: its slot, its own status, and that of the loads of the same image that wait for
it (R353, R362). -/
def endDefLoad (s : State) (o : DefOp) (code : Nat) : State :=
  let img := (List.range ((EngRow.count (o.va, o.len, 16)))).flatMap (fun j => ((o.units.find? (fun u => u.1 == j)).map (·.2)).getD [])
  let s : State := setSlots s o.pkg o.ctx o.slot (fun t =>
    if code = 0 then { t with state := .loaded, gen := (t.gen + 1) % 256, va := o.va, len := o.len, img := img } else { t with state := .empty })
  { s with defOps := s.defOps.map (fun d =>
      if d.id = o.id then { d with code := some code }
      else if d.load && d.ctx == o.ctx && inSpan s o.pkg o.ctx d.pkg && d.slot == o.slot && d.va == o.va && d.len == o.len && d.code.isNone then
        { d with code := some (if code = 0 then 0 else 0x37) }
      else d) }

/-- Read one unit of a definition image; a page that is not mapped, a refused address or poison ends the load with
0x3A. -/
def performDefUnit (s : State) (id j : Nat) (up : Upset) : Option State :=
  match s.defOp? id with
  | none => none
  | some o =>
    if o.load = false ∨ o.lead = false ∨ o.code.isSome = true ∨ o.units.any (fun u => u.1 == j) = true
        ∨ acqPending s o.gid o.holders id = true ∨ o.lost.contains j = true then none
    else
      match defUnit o j with
      | none => none
      | some p =>
        if (unitLines p).any (fun l => olderWrite s o.gid o.holders id 0 l) || olderParked s o.gid o.holders id p.1 || !linkedBoth s o.pkg o.ctx p.1 then none
        else if staleAt s o.pkg o.ctx o.epoch p.1 then
          some (dropPacket (s.mapDefOp id (fun o => { o with lost := j :: o.lost })) (homeOf s o.pkg o.ctx p.1))
        else
          let failed (s : State) : State := endDefLoad s o 0x3A
          match homeRead s o.pkg o.ctx p.1 p.2 0 (recGid s o.gid) up with
          | .ok s bs q => some (if q then failed s else s.mapDefOp id (fun o => { o with units := o.units ++ [(j, bs)] }))
          | .fault _ _ _ | .unrouted => some (failed s)
          | .ended s => some s

/-- LOAD_PERFORM. -/
def execLoadPerform (ref : ReadRef) (src : ReadSrc) (up : Upset) (s : State) : Host.Outcome State Fault Refusal :=
  ifEnabled (match ref with
    | .lane op lane => performLane s op lane src up
    | .stepLine step line => if src = .home then performStepLine s step line up else none
    | .engUnit op u => if src = .home then performEngRead s op u up else none
    | .defUnit op j => if src = .home then performDefUnit s op j up else none)

/-! ## Guest copies (R144, R145) -/

/-- A load of a package on a line that may fill a guest copy. -/
def wantsGuest (s : State) (pkg ctx line : Nat) : Bool :=
  s.loads.any (fun l => l.pkg == pkg && l.ctx == ctx && l.acq.isNone && !l.bypass
    && l.lanes.any (fun a => a.waits && lineOf a.va == line))

/-- A page's leases are waited for at its home: by UNMAP, by RETIRE, or by its migration's switch (R394). -/
def leaseAwaited (s : State) (home ctx va : Nat) : Bool :=
  (match s.pkg? home with
   | some p => (match p.pgCmd with | some m => m.ctx == ctx && m.pages.contains (pageVa va) | none => false)
   | none => false)
  || (match s.page? ctx home (pageVa va) with
      | some q => q.state == .migrating && decide (q.since + switchTicks ≤ s.tick)
      | none => false)

/-- GUEST_COPY_FILL: a CH line of another package, under a lease of 1 to LEASEMAX ticks, and none while a write to
the line, or a command on its page, waits for a lease to expire. -/
def guestFill (s : State) (pkg ctx line lease : Nat) : Option State :=
  let va := vaFull (128 * line)
  match routeOf s pkg ctx va, s.ctx? pkg ctx with
  | some e, some c =>
    let now := homeNow s e.home
    if linkedNow s pkg ctx va = false ∨ e.mh = true ∨ e.home = pkg ∨ lease = 0 ∨ c.lease < lease ∨ wantsGuest s pkg ctx line = false
        ∨ s.leaseHold.any (fun x => x.1 == ctx && x.2.1 == line && decide (now < x.2.2)) = true ∨ leaseAwaited s e.home ctx va = true then none
    else
      match readHome s pkg ctx va 128 with
      | .bytes bs false =>
        let gc : Guest := { pkg := pkg, ctx := ctx, line := line, bytes := bs, expiry := now + lease, ver := orderOf s ctx line }
        some { s with
          guests := gc :: s.guests.filter (fun o => !(o.pkg == pkg && o.ctx == ctx && o.line == line))
          leases := (ctx, line, max (now + lease) (leaseOf s ctx line)) :: s.leases.filter (fun x => !(x.1 == ctx && x.2.1 == line)) }
      | _ => none
  | _, _ => none

def execGuestCopyFill (pkg ctx line lease : Nat) (s : State) : Host.Outcome State Fault Refusal := ifEnabled (guestFill s pkg ctx line lease)

/-- GUEST_COPY_EXPIRE: the holder's timebase has reached the expiry less 40. -/
def guestExpire (s : State) (pkg ctx line : Nat) : Option State :=
  let old (o : Guest) : Bool := o.pkg == pkg && o.ctx == ctx && o.line == line && decide (o.expiry ≤ homeNow s pkg + 40)
  if s.guests.any old then some { s with guests := s.guests.filter (fun o => !old o) } else none

def execGuestCopyExpire (pkg ctx line : Nat) (s : State) : Host.Outcome State Fault Refusal := ifEnabled (guestExpire s pkg ctx line)

/-! ## L1_PREFETCH_FILL (R134) -/

/-- A core's L1 takes a line as its home holds it now; a poisoned line is not kept. -/
def prefetchFill (s : State) (pkg core line : Nat) : Option State :=
  match s.core? pkg core with
  | none => none
  | some c =>
    match s.inst? c.inst with
    | none => none
    | some k =>
      match (if linkedNow s pkg k.ctx (vaFull (128 * line)) then readHome s pkg k.ctx (vaFull (128 * line)) 128 else .unrouted) with
      | .bytes bs false => some (s.mapCore pkg core (fun c => { c with l1 := c.l1 ++ [{ line := line, bytes := bs, ver := orderOf s k.ctx line }] }))
      | _ => none

def execL1PrefetchFill (pkg core line : Nat) (s : State) : Host.Outcome State Fault Refusal := ifEnabled (prefetchFill s pkg core line)

/-! ## LOAD_DELIVER (R118, R329, R330) -/

/-- A late response whose group has gone is dropped and counted (R329). -/
def dropLate (s : State) (pkg core : Nat) : State := s.mapField pkg (fieldOf core) (fun f => { f with stale := min (2 ^ 32 - 1) (f.stale + 1) })

/-- A response that finds no group: one of an old epoch is dropped under R283, any other under R329. -/
def dropResponse (s : State) (pkg core ctx epoch : Nat) : State :=
  if ctxEpoch s pkg ctx = epoch then dropLate s pkg core else dropPacket s pkg

/-- The split that holds a delivered register's writer, for a write of S61 to S63. -/
def firstHolder (hs : List Nat) : Nat := hs.headD 0

/-- The last write that a register's log has taken in stands, whatever window its split has opened since its load's issue
(R154). -/
def Group.standLast (g : Group) (n : Nat) : Group :=
  { g with logs := g.logs.map (fun l =>
      if l.num = n then
        { l with writes := l.writes.dropLast ++ (l.writes.getLast?.map (fun w => { w with undo := false })).toList }
      else l) }

/-- The same of a load's registers, where it was not issued in the open window. -/
def standWrites (s : State) (l : Load) : State :=
  if l.windowed then s else s.mapGroup l.gid (fun g => l.use.regs.foldl Group.standLast g)

/-- The responses of an access's lanes have a way back to its core; a lane that its own package has served needs none
(R421). -/
def lanesAnswered (s : State) (pkg ctx : Nat) (ls : List LaneAcc) : Bool := ls.all (fun a => a.failed || a.near || answered s pkg ctx a.va)

/-- A load whose lanes have all been performed delivers; one that DENY has ended in some lanes ends, in a FENCES window
when that closes. -/
def deliverLoad (s : State) (l : Load) : Option State :=
  if l.performed && lanesAnswered s l.pkg l.ctx l.lanes then
    match s.group? l.gid with
    | none => some (dropResponse (s.dropLoad l.id) l.pkg l.core l.ctx l.epoch)
    | some _ =>
      if anyFailed l.lanes then (if l.windowed then none else some (endDeniedLoad s l))
      else
        some (standWrites (putWords (s.dropLoad l.id) l.gid (firstHolder l.holders) (l.use.regs.headD 0) l.mask l.mask.lowest
          (laneVals l.lanes l.use.once l.use.val) l.use.regs.length) l)
  else none

/-- An atomic or GARM whose lanes have all executed delivers the old values, kept in cmp; one that DENY has ended in some
lanes ends. -/
def deliverWrite (s : State) (w : Write) : Option State :=
  if w.performed && lanesAnswered s w.pkg w.ctx w.lanes then
    let close (s : State) : State :=
      if w.holders.isEmpty then s.dropWrite w.id else s.mapWrite w.id (fun w => { w with use := .none })
    match s.group? w.gid with
    | none => match w.use with
      | .none => none
      | _ => some (dropResponse (s.dropWrite w.id) w.pkg w.core w.ctx w.epoch)
    | some _ =>
      match w.use with
      | .none => none
      | .atomReg d wide =>
        if anyFailed w.lanes then some (close (endDenied s w.gid w.use.regs w.lanes w.scalar (fun a => leNat a.cmp))) else
        some (close (putWords s w.gid (firstHolder w.holders) d w.mask w.mask.lowest
          (laneVals w.lanes w.scalar (fun a => leNat a.cmp)) (if wide then 2 else 1)))
      | .garm d =>
        if anyFailed w.lanes then some (close (setVoid s w.gid [d])) else
        some (close (putWord s w.gid (firstHolder w.holders) d w.mask w.mask.lowest
          (fun _ => BitVec.ofNat 32 (laneVals w.lanes true (fun a => leNat a.cmp) 0 + 1))))
  else none

/-- A ROPLD or ROPDROP whose status is known delivers it. -/
def deliverDef (s : State) (o : DefOp) : Option State :=
  match o.code with
  | none => none
  | some v =>
    match s.group? o.gid with
    | none => some (dropLate (s.dropDefOp o.id) o.pkg o.core)
    | some _ => some (putWord (s.dropDefOp o.id) o.gid (firstHolder o.holders) o.d 0 0 (fun _ => BitVec.ofNat 32 v))

def loadDeliver (s : State) (id : Nat) : Option State :=
  match s.load? id with
  | some l => deliverLoad s l
  | none =>
    match s.write? id with
    | some w => deliverWrite s w
    | none =>
      match s.defOp? id with
      | some o => deliverDef s o
      | none => none

def execLoadDeliver (op : Nat) (s : State) : Host.Outcome State Fault Refusal := ifEnabled (loadDeliver s op)

/-! ## WRITE_PERFORM and ATOMIC_EXECUTE (R147, R150, R162, R168) -/

/-- The bytes of a line that the performed lanes of one operation have written make it whole. -/
def coversLine (ls : List LaneAcc) (w line : Nat) : Bool :=
  (List.range 128).all (fun i => ls.any (fun a => a.performed && decide (va56 a.va ≤ 128 * line + i) && decide (128 * line + i < va56 a.va + w)))

/-- A line's poison is cleared (R24). -/
def clearPoison (s : State) (key : Nat) : State :=
  { s with poison := s.poison.filter (fun u => !(lineUnits (key / 128)).contains u) }

/-- A lane of a write waits: behind an acquire, an earlier write, a parked access or a pin; an atomic also behind the
earlier coherent accesses of its location. -/
def writeHeld (s : State) (w : Write) (a : LaneAcc) : Bool :=
  acqPending s w.gid w.holders w.id || olderWrite s w.gid w.holders w.id a.lane (lineOf a.va)
    || olderParked s w.gid w.holders w.id a.va || lineHeld s w.pkg w.ctx a.va || !linked s w.pkg w.ctx a.va
    || (w.atom.isSome && olderCoherent s w.gid w.holders w.id a.va w.width)

/-- A lane's write is performed: bytes, CT, what its splits have seen; the last lane of an acquire performs it. -/
def laneWritten (s : State) (w : Write) (a : LaneAcc) (home key : Nat) (old bs : List Byte) : State :=
  let line := lineOf a.va
  let ct := writeCt s w.pkg home w.ctx line
  let s : State := performAt s home w.ctx a.va key bs
  let ls := w.lanes.map (fun b => if b.lane = a.lane then { b with performed := true, ct := ct, cmp := old } else b)
  let s : State := if w.atom.isNone && coversLine ls w.width line then clearPoison s key else s
  let s : State := s.mapWrite w.id (fun w => { w with lanes := ls })
  let s : State := markSeen s w.gid w.holders line (orderOf s w.ctx line)
  match w.acq with
  | some j => if ls.all (fun b => b.performed || b.failed) then acquired s w.gid w.pkg w.core j else s
  | none => s

/-- A lane's write meets a page that is not mapped. -/
def parkWrite (s : State) (w : Write) (a : LaneAcc) (home pch cause : Nat) : State :=
  parkAccess (s.mapWrite w.id (fun w => { w with lanes := parkLanes a.va w.lanes })) w.gid w.ctx w.kind w.lanes a.va home pch cause

/-- The site of a lane's write at its home. -/
def writeSite (s : State) (w : Write) (a : LaneAcc) (home pch key : Nat) : Site :=
  { pkg := w.pkg, ctx := w.ctx, va := a.va, home := home, pch := pch, key := key, kind := w.kind, gid := recGid s w.gid }

/-- A lane's request of an old epoch ends at its home. -/
def loseWrite (s : State) (w : Write) (a : LaneAcc) : State :=
  dropPacket (s.mapWrite w.id (fun w => { w with lanes := loseLane a.lane w.lanes })) (homeOf s w.pkg w.ctx a.va)

/-- A lane of a store. -/
def performStore (s : State) (id lane : Nat) (up : Upset) : Option State :=
  match s.write? id with
  | none => none
  | some w =>
    match waitingLane w.lanes lane with
    | none => none
    | some a =>
      if w.atom.isSome = true ∨ writeHeld s w a = true then none
      else if staleAt s w.pkg w.ctx w.epoch a.va then some (loseWrite s w a)
      else
        match translate s w.pkg w.ctx a.va with
        | .unrouted => none
        | .fault h p c => some (parkWrite s w a h p c)
        | .at_ h p key =>
          let u := homeUpset s (writeSite s w a h p key) up
          some (if u.2 then laneWritten u.1 w a h key [] a.data else u.1)

/-- The 16 bytes at an address of row i of an operation's destination are written, the unit u among them. -/
def pieceWritten (e : Eng) (i : Nat) (r : EngRow) (u va : Nat) : Bool :=
  let v := unitNo i (va / r.2.2 - r.1 / r.2.2)
  v == u || e.written.contains v

/-- A line's poison after unit u of row i is written: a line that the operation has written whole keeps nothing but its
data's; any other takes the data's beside what it has.  Its physical key is that of its first byte. -/
def linePoisoned (s : State) (e : Eng) (u : Nat) (r : EngRow) (base key : Nat) : State :=
  let i := u / 2 ^ 32
  let inRow (q : Nat) : Bool := decide (r.1 ≤ base + 16 * q) && decide (base + 16 * q < r.1 + r.2.1)
  let done (q : Nat) : Bool := inRow q && pieceWritten e i r u (base + 16 * q)
  let bad := (List.range 8).filter (fun q => done q && writePoisoned s e i (base + 16 * q - r.1))
  addPoison (if (List.range 8).all done then clearPoison s key else s) (bad.map (fun q => (key + 16 * q) / 32))

/-- The poison of the lines of a unit once it is written; its bytes lie in one frame (R24, R258). -/
def engPoison (s : State) (e : Eng) (u : Nat) (r : EngRow) (p : Nat × Nat) (key : Nat) : State :=
  let first := p.1 / 128 * 128
  (List.range (unitLines p).length).foldl (fun s l => linePoisoned s e u r (first + 128 * l) (key / 128 * 128 + 128 * l)) s

/-- The write of one unit of an engine operation. -/
def performEngWrite (s : State) (id u : Nat) (up : Upset) : Option State :=
  match s.eng? id with
  | none => none
  | some e =>
    match unitOf (writeRow s e) u with
    | none => none
    | some (r, p) =>
      if e.written.contains u = true ∨ e.parked.isEmpty = false ∨ engBehind s e p = true ∨ linkedBoth s e.pkg e.ctx p.1 = false
          ∨ e.lost.contains (true, u) = true ∨ (unitLines p).any (fun l => lineHeld s e.pkg e.ctx (vaFull (128 * l))) = true then none
      else if staleAt s e.pkg e.ctx e.epoch p.1 then some (loseUnit s e true u p.1)
      else
        match writeBytes s e (u / 2 ^ 32) (u % 2 ^ 32) p r with
        | none => none
        | some bs =>
          match translate s e.pkg e.ctx p.1 with
          | .unrouted => none
          | .fault h c k => some (parkEng s e p.1 h c k)
          | .at_ h pch key =>
            if engWaits s e p false then holdCuu s (.eng id)
            else
              let up' := homeUpset s { pkg := e.pkg, ctx := e.ctx, va := p.1, home := h, pch := pch, key := key
                                       kind := engRecKind e, gid := recGid s e.gid } up
              if up'.2 then
                let ct := (unitLines p).foldl (fun n l => max n (writeCt up'.1 e.pkg h e.ctx l)) e.ct
                let s : State := writeSpan up'.1 e.pkg e.ctx p.1 bs
                let s : State := engPoison s e u r p key
                some (s.mapEng id (fun e => { e with written := e.written ++ [u], ct := ct }))
              else some up'.1

def execWritePerform (ref : WriteRef) (up : Upset) (s : State) : Host.Outcome State Fault Refusal :=
  ifEnabled (match ref with
    | .lane op lane => performStore s op lane up
    | .engUnit op u => performEngWrite s op u up)

/-- ATOMIC_EXECUTE: a lane of an atomic, RED, CUEW or GARM reads and writes its location at one instant.  Poisoned
data raises UNCORR where the old value is returned; it stays poisoned. -/
def atomicExecute (s : State) (id lane : Nat) : Option State :=
  match s.write? id with
  | none => none
  | some w =>
    match waitingLane w.lanes lane, w.atom with
    | some a, some op =>
      if writeHeld s w a then none
      else if staleAt s w.pkg w.ctx w.epoch a.va then some (loseWrite s w a)
      else
        match translate s w.pkg w.ctx a.va with
        | .unrouted => none
        | .fault h p c => some (parkWrite s w a h p c)
        | .at_ h _ key =>
          let n := atomWidth op
          if poisonedAt s key n = true ∧ w.use ≠ .none then some (raiseUncorr s w.pkg w.ctx w.core a.va)
          else
            match readHome s w.pkg w.ctx a.va n with
            | .bytes old _ => some (laneWritten s w a h key old (toLE n (atomNew op (leNat old) (leNat a.data) (leNat a.cmp))))
            | _ => none
    | _, _ => none

def execAtomicExecute (op lane : Nat) (s : State) : Host.Outcome State Fault Refusal := ifEnabled (atomicExecute s op lane)

/-! ## CT_RETURN (R149) -/

/-- The largest CT of a write's lanes. -/
def Write.ctOf (w : Write) : Nat := w.lanes.foldl (fun n a => max n a.ct) 0

/-- The CT of a release store returns: the splits that hold it, and their REDGOs issued after it, take it in (R446). -/
def returnRelease (s : State) (w : Write) : State :=
  let s : State := s.mapGroup w.gid (fun g => { g with splits := g.splits.map (fun sp =>
    if w.holders.contains sp.id then { sp with relMax := max sp.relMax w.ctOf } else sp) })
  { s with engs := s.engs.map (fun e => if e.gid = w.gid ∧ w.id < e.id ∧ sharesHolder e.holders w.holders = true then
      (match e.kind with | .redgo _ _ => { e with ct := max e.ct w.ctOf } | _ => e) else e) }

/-- The write's CT returns to every split that holds it; the one response of an atomic whose group has gone is dropped
whole. -/
def ctReturn (s : State) (id : Nat) : Option State :=
  match s.write? id with
  | none => none
  | some w =>
    if w.performed = true ∧ w.holders.isEmpty = false ∧ lanesAnswered s w.pkg w.ctx w.lanes = true then
      match s.group? w.gid with
      | some g =>
        let s : State := (returnCt s w.gid w.holders w.id w.ctOf).mapInst g.inst (fun k => { k with maxCt := max k.maxCt w.ctOf })
        let s : State := if w.rel then returnRelease s w else s
        some (match w.use with
          | .none => s.dropWrite id
          | _ => s.mapWrite id (fun w => { w with holders := [] }))
      | none => some (dropResponse (s.dropWrite id) w.pkg w.core w.ctx w.epoch)
    else none

def execCtReturn (op : Nat) (s : State) : Host.Outcome State Fault Refusal := ifEnabled (ctReturn s op)

end Sys2Proof.Machine
end

