-- ==== Sys2Proof/Machine/EngEvents.lean ====
section
/-! DEFINITION. The steps that end matrix steps and engine operations (R66 to R70, R245 to R249, R255, R266), REDGO and CPYG carried out (R388 to R390, R416, R417), and the failure of a base-die link (R422). -/

namespace Sys2Proof.Machine

open Sys2Proof

/-! ## Elements of a matrix step (R242, R247) -/

/-- A line of a step's operands, as taken. -/
def Step.line (st : Step) (l : Nat) : List Byte := ((st.fetched.find? (fun f => f.line == l)).map (·.bytes)).getD []

/-- n bytes of a step's memory operand, as a number. -/
def Step.memAt (st : Step) (va n : Nat) : Nat := leAt (st.line (lineOf va)) (va % 128) n

/-- An element: its bits, and the code of its block's scale where it has one. -/
abbrev Elem := Nat × Option Nat

/-- A tile's element with its scale. -/
def tileElem (c : Core) (t : Tile) (r e : Nat) : Elem :=
  (elemGet c.ashlar t r e, if isScaled t.fmt then some (scaleGet c.ashlar t r (e / 32)) else none)

/-- A[m][k]. -/
def stepA (c : Core) (st : Step) (cls m k : Nat) : Elem :=
  let es := classBytes cls
  let mb := classBlock cls
  match st.a with
  | .tile t row col ambs byCol =>
    let tl := c.tiles.getD t { }
    if byCol then tileElem c tl (row + k + ambs * (m / mb)) (col + m % mb) else tileElem c tl (row + m) (col + k)
  | .mem a stride byCol => (st.memAt (if byCol then a + k * stride + m * es else a + m * stride + k * es) es, none)

/-- Stored B[k][n]. -/
def stepStored (c : Core) (st : Step) (cls k n : Nat) : Elem :=
  let es := classBytes cls
  match st.b with
  | .tile t row col _ byCol =>
    let tl := c.tiles.getD t { }
    if byCol then tileElem c tl (row + n) (col + k) else tileElem c tl (row + k) (col + n)
  | .mem b stride byCol => (st.memAt (if byCol then b + n * stride + k * es else b + k * stride + n * es) es, none)

/-- B[k][n] of the expanded operand (R247). -/
def stepB (c : Core) (st : Step) (cls k n : Nat) : Elem :=
  match st.sparse with
  | 1 =>
    let g := k / 4
    let md := st.memAt (st.metaVa + 48 * g + n) 1
    if k % 4 = md / 4 % 4 then stepStored c st cls (2 * g + 1) n
    else if k % 4 = md % 4 then stepStored c st cls (2 * g) n
    else (0, none)
  | 2 =>
    let w := classChunk cls
    let j := k / w
    if st.bitmap.getLsbD j then stepStored c st cls (popcount (st.bitmap.toNat % 2 ^ j) * w + k % w) n else (0, none)
  | _ => stepStored c st cls k n

/-! ## Poison in a step's tiles (R24; log entry 118) -/

/-- The half bytes of a tile's element, and of its scale. -/
def tileHalves (t : Tile) (r e : Nat) : List Nat := elemHalves t r e ++ if isScaled t.fmt then scaleHalves t r (e / 32) else []

/-- The elements of a tile operand that a step reads, outer and inner in its own order, hold poison. -/
def operandBad (c : Core) (o : StepOperand) (outer inner mb : Nat) (flip : Bool) : Bool :=
  match o with
  | .tile t row col ambs byCol =>
    let tl := c.tiles.getD t { }
    (List.range outer).any (fun i => (List.range inner).any (fun j => c.isBad
      (if byCol = flip then tileHalves tl (row + i) (col + j) else tileHalves tl (row + j + ambs * (i / mb)) (col + i % mb))))
  | .mem _ _ _ => false

/-- A step reads poison from a tile. -/
def stepPoisoned (c : Core) (st : Step) (cls : Nat) : Bool :=
  !c.ashBad.isEmpty && (operandBad c st.a st.m st.k (classBlock cls) false || operandBad c st.b st.n st.ks (st.n + 1) true)

/-! ## Products and sums (R66 to R70) -/

/-- A value times 2^(E - 127); E = 0xFF is NaN. -/
def scaled (v : FVal) (sc : Option Nat) : FVal :=
  match sc with
  | none => v
  | some 0xFF => .nan
  | some e =>
    match v with
    | .fin n m x => .fin n m (x + ((e : Int) - 127))
    | v => v

/-- The exact product of two elements (R66). -/
def elemMul (fa fb : Nat) (a b : Elem) : FVal := (scaled (elemVal fa a.1) a.2).mul (scaled (elemVal fb b.1) b.2)

/-- floor(log2) of a nonzero finite value. -/
def floorLog2 (v : FVal) : Int :=
  match v with
  | .fin _ m e => (log2 m : Int) + e
  | _ => 0

/-- A value truncated toward zero to multiples of 2^q, as a multiple. -/
def truncTo (q : Int) (v : FVal) : Int :=
  match v with
  | .fin n m e => signed n (if q ≤ e then m * pow2 (e - q) else m / pow2 (q - e))
  | _ => 0

/-- The greatest of some numbers and a first. -/
def maxInt (l : List Int) (d : Int) : Int := l.foldl max d

/-- A chunk's sum s (R67): none where it is exactly zero. -/
def chunkSum (ps : List FVal) : Option FVal :=
  let plus := ps.any (fun p => p == .inf false)
  let minus := ps.any (fun p => p == .inf true)
  if ps.any FVal.isNan || (plus && minus) then some .nan
  else if plus then some (.inf false)
  else if minus then some (.inf true)
  else
    match ps.filter (fun p => !p.isZero) with
    | [] => none
    | p :: t =>
      let q := maxInt (t.map floorLog2) (floorLog2 p) - 40
      let sum := (p :: t).foldl (fun (n : Int) p => n + truncTo q p) 0
      if sum = 0 then none
      else some (fp32.decode (fp32.encode .rne (.fin (decide (sum < 0)) sum.natAbs q)))

/-- A list in pieces of w. -/
def chunksOf {α : Type} (w : Nat) : Nat → List α → List (List α)
  | 0, _ => []
  | n + 1, l => if l.isEmpty then [] else l.take w :: chunksOf w n (l.drop w)

/-- The FP32 accumulator after a step's products (R67). -/
def accFloat (w acc : Nat) (ps : List FVal) : Nat :=
  (chunksOf w ps.length ps).foldl (fun acc ch =>
    match chunkSum ch with
    | none => acc
    | some s => fp32.encode .rne ((fp32.decode acc).add .rne s)) acc

/-- The FP64 accumulator (R69). -/
def accDouble (acc : Nat) (abs : List (Nat × Nat)) : Nat :=
  abs.foldl (fun acc p => fp64.encode .rne (fmaVal .rne (fp64.decode p.1) (fp64.decode p.2) (fp64.decode acc))) acc

/-- An INT8 or UINT8 element's integer. -/
def elemInt (fmt bits : Nat) : Int := if fmt = 6 ∧ 128 ≤ bits then (bits : Int) - 256 else bits

/-- The SI32 accumulator (R70). -/
def accInt (acc : Nat) (ps : List Int) : Nat :=
  (chunksOf 16 ps.length ps).foldl (fun acc ch =>
    wrapInt 0 (clampInt (asInt 0 acc + ch.foldl (· + ·) 0) (-(2 ^ 31)) (2 ^ 31 - 1))) acc

/-- Element (m, n) of a step's view after it (R244). -/
def stepElem (c : Core) (st : Step) (cls old m n : Nat) : Nat :=
  let acc := if st.zero then 0 else old
  let ks := List.range st.k
  match cls with
  | 2 => accInt acc (ks.map (fun k => elemInt st.afmt (stepA c st cls m k).1 * elemInt st.bfmt (stepB c st cls k n).1))
  | 4 => accDouble acc (ks.map (fun k => ((stepA c st cls m k).1, (stepB c st cls k n).1)))
  | _ => accFloat (classChunk cls) acc (ks.map (fun k => elemMul st.afmt st.bfmt (stepA c st cls m k) (stepB c st cls k n)))

/-! ## MATRIX_STEP_COMPLETE -/

/-- Every operand line of a step has been taken. -/
def Step.ready (st : Step) : Bool := (stepLines st).all (fun l => st.fetched.any (fun f => f.line == l))

/-- A step of the core runs before this one on its array: earlier in commit order, then in issue order (R249). -/
def stepBefore (a b : Step) : Bool := a.pkg == b.pkg && a.core == b.core && a.seq != 0 && (decide (a.seq < b.seq) || (a.seq == b.seq && decide (a.id < b.id)))

/-- One use of a tile ends: READY after the last. -/
def Tile.endUse (t : Tile) : Tile := { t with uses := t.uses - 1, state := if t.uses ≤ 1 then .ready else t.state }

/-- The RLT entries of an operation are freed, and its tiles' uses end. -/
def releaseOp (s : State) (pkg core id : Nat) (tiles : List Nat) : State :=
  let s : State := s.mapCores (fun c => { c with rlt := c.rlt.filter (fun e => e.op != id) })
  s.mapCore pkg core (fun c => { c with tiles := tiles.foldl (fun ts t => modAt ts t Tile.endUse) c.tiles })

/-- A step leaves its batch; a batch with no step left is complete, and mtx falls. -/
def Group.stepDone (g : Group) (id : Nat) : Group :=
  let bs := g.batches.map (fun b => b.filter (· != id))
  { g with batches := bs.filter (fun b => !b.isEmpty), mtx := g.mtx - (bs.filter (·.isEmpty)).length }

/-- The products of a step are in its view. -/
def stepResult (g : Group) (c : Core) (st : Step) (cls : Nat) (v : View) : Group :=
  (List.range (st.m * st.n)).foldl (fun h q =>
    let e := (q / st.n) * v.cols + q % st.n
    viewPut h v e (stepElem c st cls (viewGet g v e) (q / st.n) (q % st.n))) g

/-- MATRIX_STEP_COMPLETE of a committed step whose operands are there, after the steps before it. -/
def matrixDone (s : State) (id : Nat) : Option State :=
  match s.step? id with
  | none => none
  | some st =>
    match s.group? st.gid, s.core? st.pkg st.core with
    | some g, some c =>
      match s.inst? g.inst with
      | none => none
      | some k =>
        if st.seq = 0 ∨ st.ready = false ∨ s.steps.any (fun o => stepBefore o st) = true then none
        else if stepPoisoned c st ((fmtClass st.afmt).getD 0) then some (raiseUncorr s st.pkg st.ctx st.core 0)
        else
          let v := viewOf (viewWord k (768 + st.view))
          let g := (stepResult g c st ((fmtClass st.afmt).getD 0) v).stepDone id
          let others := s.steps.filter (fun o => o.id != id && o.gid == st.gid)
          let g := v.regs.foldl (fun g r => if others.any (fun o => (stepRegs k o).contains r) then g else g.setRegState r .full) g
          let tiles := [st.a.entry, st.b.entry].filterMap (fun t => t)
          some (((releaseOp s st.pkg st.core id tiles).mapGroup st.gid (fun _ => g)).dropStep id)
    | _, _ => none

def execMatrixStepComplete (step : Nat) (s : State) : Host.Outcome State Fault Refusal := ifEnabled (matrixDone s step)

/-! ## ENGINE_OP_COMPLETE (R167, R255, R266) -/

/-- Cells of row i of a tile that a TLD fills, from the bytes it read. -/
def tldRow (s : State) (e : Eng) (tl : Tile) (cells : List (Nat × Word)) (i : Nat) : List (Nat × Word) :=
  match readRow s e i with
  | none => cells
  | some r =>
    match e.rowBytes i r with
    | none => cells
    | some bs => (List.range tl.ncols).foldl (fun l c => cellWrite l (tl.cell i c) (BitVec.ofNat 32 (leAt bs (4 * c) 4))) cells

/-- The ashlar after an operation whose destination is a tile. -/
def engCells (s : State) (e : Eng) (cells : List (Nat × Word)) : List (Nat × Word) :=
  match e.kind with
  | .tld t _ _ =>
    let tl := engTile s e t
    (List.range tl.nrows).foldl (tldRow s e tl) cells
  | .mstTile t row col _ _ cols elems =>
    let tl := engTile s e t
    (List.range elems.length).foldl (fun l r =>
      (List.range cols).foldl (fun l c => elemPut l tl (row + r) (col + c) ((elems.getD r []).getD c 0)) l) cells
  | _ => cells

/-- The poison of the ashlar after it: a TLD's cells take that of the source bytes they are filled from (R24; log
entry 118). -/
def engBad (s : State) (e : Eng) (c : Core) : Core :=
  match e.kind with
  | .tld t _ _ =>
    let tl := engTile s e t
    (List.range tl.nrows).foldl (fun c i =>
      match readRow s e i with
      | some r => (List.range tl.ncols).foldl (fun c j => c.setBad (cellHalves (tl.cell i j)) (e.readPoison i r (4 * j))) c
      | none => c) c
  | .mstTile t row col _ _ cols elems =>
    c.setBad ((List.range elems.length).flatMap (fun r => (List.range cols).flatMap (fun k => elemHalves (engTile s e t) (row + r) (col + k)))) false
  | _ => c

/-- An operation's arrival on its object (R348), with the object freed where its owner has retired (R350). -/
def engArrive (s : State) (k : Inst) (g : Group) (e : Eng) : State :=
  match e.abid with
  | none => s
  | some i =>
    s.mapCoreOf g (fun c =>
      { c with objs := modAt c.objs i (fun o =>
          let o := { o with eng := o.eng - 1 }
          if o.dying then (if o.eng = 0 then { } else o)
          else (if o.active && objSees k o then { o with abtd := true } else o).arrive) })

/-- The operation's place in its group's counter, and its status register. -/
def engStatus (s : State) (e : Eng) : State :=
  let s : State := s.mapGroup e.gid (fun g => { g with eng := g.eng - 1 })
  match e.kind, e.status, s.group? e.gid with
  | .cpyg _ _ _ _ d, some v, some _ | .redgo _ d, some v, some _ => putWord s e.gid (firstHolder e.holders) d 0 0 (fun _ => BitVec.ofNat 32 v)
  | _, _, _ => s

/-- A CPYG whose tag failed leaves its entry in quarantine (R417). -/
def quarantine (s : State) (e : Eng) : State :=
  match e.kind, e.status with
  | .cpyg _ _ _ _ d, some 0x51 =>
    s.mapCores (fun c =>
      { c with rlt := c.rlt.map (fun r => if r.op = e.id then { r with op := 0, quarantine := some (e.gid, d) } else r) })
  | _, _ => s

/-- What the completion of one operation does, all together (R255); waiters that its object then leaves without hope trap
in the same step (R349, settleAll). -/
def endEng (s : State) (e : Eng) : State :=
  let s : State := s.mapCore e.pkg e.core (fun c => { engBad s e c with ashlar := engCells s e c.ashlar })
  let s : State := quarantine s e
  let s : State := releaseOp s e.pkg e.core e.id (match e.kind.entry with | some t => [t] | none => [])
  let s : State := engStatus s e
  let s : State := s.dropEng e.id
  match s.group? e.gid with
  | none => s
  | some g =>
    let s : State := s.mapInst g.inst (fun k => { k with maxCt := max k.maxCt e.ct })
    match s.inst? g.inst with
    | none => s
    | some k =>
      engArrive s k g e

/-- ct_now() has reached the operation's writes' CTs and its skew (R167). -/
def engTimeReached (s : State) (e : Eng) : Bool :=
  decide (e.ct + skewOf e.physScope ≤ (if e.gid = 0 then homeNow s e.pkg else ctNow s e.pkg (fieldOf e.core)))

/-- Its requests, where it is a SCAT, have all been acknowledged. -/
def scatDone (s : State) (e : Eng) : Bool := e.tail && !s.rops.any (fun r => r.issuers.any (fun i => (i.eng.map (·.1)) == some e.id))

/-- One operation's reads, writes and requests are at an end. -/
def engWorkDone (s : State) (e : Eng) : Bool :=
  match e.kind with
  | .scat _ _ _ _ _ _ _ _ => scatDone s e
  | .cpyg _ _ _ _ _ => e.tail && writesDone s e
  | .redgo block _ =>
    e.tail && writesDone s e
      && (match rdeGood s e block with | some b => !(b.flagen && e.writing) | none => true)
  | .tld _ _ _ => readsDone s e
  | _ => writesDone s e

/-- ENGINE_OP_COMPLETE; the members of a collective complete together. -/
def engComplete (s : State) (id : Nat) : Option State :=
  match s.eng? id with
  | none => none
  | some e =>
    match e.kind with
    | .coll _ _ _ lv _ _ _ =>
      let ms := collMembers s e
      if ms.length = collP s e lv ∧ ms.all (fun m => writesDone s m && engTimeReached s m) then some (ms.foldl endEng s) else none
    | _ => if engWorkDone s e && engTimeReached s e then some (endEng s e) else none

def execEngineOpComplete (op : Nat) (s : State) : Host.Outcome State Fault Refusal := ifEnabled (engComplete s op)

/-! ## REDGO (R388 to R390) -/

/-- Stack of the channel that an address lies on. -/
def stackOf (s : State) (pkg ctx va : Nat) : Nat :=
  match routeOf s pkg ctx va, s.ctx? pkg ctx with
  | some e, some c => c.pchOf e va / 64
  | _, _ => 0

/-- One of some base-die links lies on the path from a source stripe's stack to its destination stripe's (R422). -/
def pathHas (s : State) (e : Eng) (b : RdeBlock) (bad : Nat → Bool) : Bool :=
  (List.range (b.len / 128)).any (fun q =>
    let d := stackOf s e.pkg e.ctx (b.dst + 128 * q)
    b.srcs.any (fun a =>
      let f := stackOf s e.pkg e.ctx (a + 128 * q)
      (List.range (max d f - min d f)).any (fun j => bad (min d f + j))))

/-- A failed base-die link lies on its path. -/
def pathBroken (s : State) (e : Eng) (b : RdeBlock) : Bool :=
  match s.pkg? e.pkg with
  | none => false
  | some p => pathHas s e b (fun l => p.bdLinks.getD l .untrained == .failed)

/-- A REDGO's destination with undefined contents. -/
def rdeUndef (s : State) (e : Eng) (b : RdeBlock) : State :=
  writeOwn s e.pkg e.ctx b.dst ((List.range b.len).map (fun i => undefByte e (b.dst + i)))

/-- Read some of a row's units now, as far as no page is missing. -/
def readUnits (s : State) (e : Eng) (i : Nat) (r : EngRow) : Nat → Option State
  | 0 => some s
  | n + 1 =>
    match readUnits s e i r n with
    | none => none
    | some s =>
      match s.eng? e.id with
      | none => some s
      | some e =>
        if (e.got (unitNo i n)).isSome = true ∨ e.parked.isEmpty = false then some s
        else performEngRead s e.id (unitNo i n) .none

/-- Read what is left of an operation's rows from i on. -/
def readRowsFrom (s : State) (id : Nat) : Nat → Option State
  | 0 => some s
  | n + 1 =>
    match readRowsFrom s id n with
    | none => none
    | some s =>
      match s.eng? id with
      | none => some s
      | some e =>
        match readRow s e n with
        | some r => readUnits s e n r r.count
        | none => some s

/-- Units of the destination whose elements come from a poisoned source line. -/
def rdePoisoned (e : Eng) (b : RdeBlock) : List Nat :=
  (List.range (b.len / 16)).filter (fun j => (List.range b.nsrc).any (fun q => e.poison.any (fun x => x.1 == unitNo (1 + q) (j / 8))))

/-- The RDE has what it needs, or knows that it is refused: its status is set. -/
def rdeDecide (s : State) (e : Eng) (block : Nat) : State :=
  let done (s : State) (code : Nat) (skip : List Nat) : State :=
    s.mapEng e.id (fun e => { e with tail := true, status := some code, written := skip })
  match (e.rowBytes 0 (blockRow block)).map rdeParse with
  | none => s
  | some b =>
    let code := if e.poison.any (fun x => decide (x.1 < 2 ^ 32)) then 0x48 else rdeCheck s e b
    if code ≠ 0 then done s code []
    else if pathBroken s e b then done (if pathHas s e b e.cut.contains then rdeUndef s e b else s) 0x4B []
    else
      let bad := rdePoisoned e b
      done s (if bad.isEmpty then 0 else 0x4C) bad

/-- REDGO_EXECUTE: the block is read and checked and the sources are read; the sum's writes follow. -/
def redgoExecute (s : State) (id : Nat) : Option State :=
  match s.eng? id with
  | none => none
  | some e =>
    match e.kind with
    | .redgo block _ =>
      if e.tail = true ∨ e.parked.isEmpty = false then none
      else
        match readRowsFrom s id 1 with
        | none => none
        | some s =>
          match readRowsFrom s id 17 with
          | none => none
          | some s =>
            match s.eng? id with
            | none => some s
            | some e => some (if e.parked.isEmpty then rdeDecide s e block else s)
    | _ => none

def execRedgoExecute (op : Nat) (s : State) : Host.Outcome State Fault Refusal := ifEnabled (redgoExecute s op)

/-- A release store that its split issued before it has not returned its CT (R446; log entry 120). -/
def releasePending (s : State) (e : Eng) : Bool :=
  s.writes.any (fun w => w.gid == e.gid && w.rel && decide (w.id < e.id) && sharesHolder w.holders e.holders)

/-- REDGO_FLAG_WRITE: the destination's writes are complete at the operation's scope; the flag is written, and the
operation completes. -/
def redgoFlag (s : State) (id : Nat) : Option State :=
  match s.eng? id with
  | none => none
  | some e =>
    match e.kind with
    | .redgo block _ =>
      match rdeGood s e block with
      | none => none
      | some b =>
        if b.flagen = false ∨ e.writing = false ∨ writesDone s e = false ∨ engTimeReached s e = false ∨ e.parked.isEmpty = false
            ∨ engBehind s e (b.flag, 4) = true ∨ lineHeld s e.pkg e.ctx b.flag = true ∨ migrating s e.pkg e.ctx b.flag = true
            ∨ releasePending s e = true ∨ linked s e.pkg e.ctx b.flag = false then none
        else if staleAt s e.pkg e.ctx e.epoch b.flag then
          (if e.lost.contains (true, unitNo 1 0) then none else some (loseUnit s e true (unitNo 1 0) b.flag))
        else
          match translate s e.pkg e.ctx b.flag with
          | .unrouted => some (indexFault s e b.flag)
          | .fault h p c => some (parkEng s e b.flag h p c)
          | .at_ h _ key =>
            let ct := max e.ct (writeCt s e.pkg h e.ctx (lineOf b.flag))
            some (endEng (performAt s h e.ctx b.flag key (toLE 4 b.flagval)) { e with ct := ct })
    | _ => none

def execRedgoFlagWrite (op : Nat) (s : State) : Host.Outcome State Fault Refusal := ifEnabled (redgoFlag s op)

/-! ## CPYG (R414 to R416) -/

/-- Host memory: an unlisted byte reads as 0 (log entry 1). -/
def readHostMem (s : State) (a n : Nat) : List Byte := Memory.readN s.hostMem a n

/-- The host writes bytes of its own memory, as it does to place a sealed chunk (R414; log entry 116). -/
def fillHost (s : State) (a : Nat) (bs : List Byte) : State := { s with hostMem := Memory.writeN s.hostMem a bs }

/-- The additional data of R414. -/
def cpygAad (dst len ctx counter : Nat) : List Byte := toLE 8 dst ++ toLE 4 len ++ toLE 4 ctx ++ toLE 8 counter

/-- The 12-byte IV of R414. -/
def cpygIv (c : Ctx) (counter : Nat) : List Byte := c.iv ++ (toLE 8 counter).reverse

/-- The result of a CPYG that is carried out now, or that TDISP has fallen to ERROR before: its status, and the bytes it
writes (R408, R416). -/
def cpygResult (s : State) (c : Ctx) (p : Pkg) (fell : Bool) (host dst len counter : Nat) : Nat × List Byte :=
  if c.keypol % 2 = 0 then (0x52, [])
  else if p.tdisp ≠ .run ∨ fell = true then (0x53, [])
  else if counter ≤ c.last then (0x50, [])
  else if Config.hostError s.choiceCtr then (0x54, [])
  else
    match gcmOpen c.xfer (cpygIv c counter) (cpygAad dst len c.num counter) (readHostMem s host len) (readHostMem s (host + len) 16) with
    | none => (0x51, List.replicate len 0)
    | some bs => (0, (List.range len).map (fun i => bs.getD i 0))

/-- Another CPYG of the context comes first: it is being served, or has arrived and waits for a page, or, from the same
core, was sent first (R416, R426). -/
def cpygAhead (e o : Eng) : Bool :=
  match o.kind with
  | .cpyg _ _ _ _ _ => o.tail || (o.arrived && !e.arrived) || (o.core == e.core && decide (o.id < e.id))
  | _ => false

/-- CPYG_EXECUTE: the request of a context whose earlier ones on the package are complete is carried out; its
writes follow.  A page of the destination that is not mapped holds it first. -/
def cpygExecute (s : State) (id : Nat) : Option State :=
  match s.eng? id with
  | none => none
  | some e =>
    match e.kind, s.ctx? e.pkg e.ctx, s.pkg? e.pkg with
    | .cpyg host dst len counter _, some c, some p =>
      let busy := s.engs.any (fun o => o.id != id && o.pkg == e.pkg && o.ctx == e.ctx && cpygAhead e o)
      if e.tail = true ∨ busy = true ∨ e.parked.isEmpty = false ∨ acqPending s e.gid e.holders id = true then none
      else
        match spanFault s e.pkg e.ctx dst len with
        | some (h, pch, k, va) => some (parkEng (s.mapEng id (fun e => { e with arrived := true })) e va h pch k)
        | none =>
          let r := cpygResult s c p e.fell host dst len counter
          let s : State := s.bumpChoice
          let s : State := if r.1 = 0 then s.mapCtx e.pkg e.ctx (fun c => { c with last := counter }) else s
          some (s.mapEng id (fun e => { e with tail := true, status := some r.1, reads := [(0, r.2)] }))
    | _, _, _ => none

def execCpygExecute (op : Nat) (s : State) : Host.Outcome State Fault Refusal := ifEnabled (cpygExecute s op)

/-! ## BASE_DIE_LINK_FAIL (R422) -/

/-- A REDGO in flight whose path needs a link that fails: refused with 0x4B, its destination undefined; one that has not
read its block and sources yet finds the failed link when it has. -/
def breakRedgo (link : Nat) (s : State) (e : Eng) : State :=
  match e.kind with
  | .redgo block _ =>
    match e.tail, rdeGood s e block with
    | true, some b =>
      if e.writing && pathHas s e b (· == link) then (rdeUndef s e b).mapEng e.id (fun e => { e with status := some 0x4B }) else s
    | false, _ => s.mapEng e.id (fun e => { e with cut := link :: e.cut })
    | true, none => s
  | _ => s

/-- A trained link fails replay for the sixteenth time. -/
def linkFail (s : State) (pkg link : Nat) : Option State :=
  match s.pkg? pkg with
  | none => none
  | some p =>
    if p.bdLinks[link]? = some .up then
      let s : State := s.mapPkg pkg (fun p => { p with bdLinks := setAt p.bdLinks link .failed })
      some ((s.engs.filter (fun e => e.pkg == pkg)).foldl (breakRedgo link) s)
    else none

def execBaseDieLinkFail (pkg link : Nat) (s : State) : Host.Outcome State Fault Refusal := ifEnabled (linkFail s pkg link)

end Sys2Proof.Machine
end

