-- ==== Sys2Proof/Machine/RemoteEvents.lean ====
section
/-! DEFINITION. The steps of remote opcodes at their homes (R366 to R374), the wings ring (R279), near-memory commands at their pseudo-channels (R376 to R384), and the ends of definition loads and drops (R353). -/

namespace Sys2Proof.Machine

open Sys2Proof

/-! ## Faults of a request (R373) -/

def causeXlate : Nat := 1
def causePoison : Nat := 2
def causeWingsFull : Nat := 3
def causeSite : Nat := 4
def causeSlotChg : Nat := 5
def causeNoCtx : Nat := 6

/-- The request is at an end at its home: its acknowledgement travels back. -/
def ackRop (s : State) (id home ct : Nat) (status : Word) (line : Nat) (ret : List Word) : State :=
  s.mapRop id (fun r => { r with phase := .acked, home := home, ct := ct, status := status, line := line, retWords := ret })

/-- The epoch a request carries. -/
def Rop.epoch (r : Rop) : Nat := (r.issuers.head?.map (·.epoch)).getD 0

/-- A context on a package that can fault for a request: it is the one that issued it (R274, R283). -/
def faultsFor (s : State) (r : Rop) (pkg : Nat) : Bool :=
  match s.ctx? pkg r.ctx with
  | some c => c.canFault && c.epoch == r.epoch
  | none => false

/-- ROPFATAL is raised at the home, or on the issuing package where the home holds no context that can fault for the request
(log entry 119); where neither does, the request is of an old epoch, and dropped. -/
def fatalRop (s : State) (r : Rop) (home : Nat) : State :=
  let raise (p : Nat) : State := raiseCtxFault s p r.ctx { cause := 0x21, pkg := p, addr := r.target }
  if faultsFor s r home then raise home else if faultsFor s r r.pkg then raise r.pkg else dropPacket s r.pkg

/-- A request that cannot be applied takes the fault behaviour it carries. -/
def faultRop (s : State) (r : Rop) (home cause line : Nat) : State :=
  match r.fault with
  | 0 => ackRop s r.id home (homeNow s home) (BitVec.ofNat 32 (2 + 256 * cause)) line []
  | 1 => ackRop s r.id home (homeNow s home) (BitVec.ofNat 32 (4 + 256 * cause)) line []
  | _ => fatalRop (s.dropRop r.id) r home

/-! ## Order (R150, R370) -/

/-- The splits that a request is ordered with, and from when: a SCAT's requests stand where the SCAT stands. -/
def issuerOrder (s : State) (r : Rop) (i : RopIssuer) : List Nat × Nat :=
  match i.eng with
  | some (eid, _) =>
    match s.eng? eid with
    | some e => (e.holders, eid)
    | none => ([], r.id)
  | none => (i.holders, i.place)

/-- An acquire of one of a request's issuers holds it, or an earlier access of one of them to one of its lines stands
before it: a write or a request that has not been performed in t, or a parked access; each issuer's own request has its own
place. -/
def orderHolds (s t : State) (r : Rop) : Bool :=
  r.issuers.any (fun i =>
    let o := issuerOrder s r i
    acqPending s i.gid o.1 o.2 || r.lines.any (fun va => olderWrite t i.gid o.1 o.2 0 (lineOf va) || olderParked s i.gid o.1 o.2 va))

/-- A request waits behind its issuers' earlier accesses. -/
def ropBehind (s : State) (r : Rop) : Bool :=
  let s := s.dropRop r.id
  orderHolds s s r

/-- A request is on its way to its home's unit, or stands held there. -/
def Rop.coming (r : Rop) : Bool := r.phase == .sent || r.phase == .held

/-! ## ROP_GRANULE (R368) -/

/-- Home package of a request. -/
def ropHome (s : State) (r : Rop) : Nat :=
  match routeOf s r.pkg r.ctx r.target with
  | some e => e.home
  | none => r.pkg

/-- The first of some lines for which f finds something, with its number. -/
def firstLine {α : Type} (f : Nat → Option α) : Nat → List Nat → Option (Nat × α)
  | _, [] => none
  | j, va :: t =>
    match f va with
    | some a => some (j, a)
    | none => firstLine f (j + 1) t

/-- A footprint line that does not translate: channel and cause. -/
def lineFault (s : State) (r : Rop) (va : Nat) : Option (Nat × Nat) :=
  match translate s r.pkg r.ctx va with
  | .fault _ p c => some (p, c)
  | .unrouted => some (0, 0)
  | .at_ _ _ _ => none

/-- What is wrong with a footprint line as the unit reads it: its translation, channel and cause, or, none of these, its
poison. -/
def lineBad (s : State) (r : Rop) (va : Nat) : Option (Option (Nat × Nat)) :=
  match lineFault s r va with
  | some x => some (some x)
  | none => if poisonedVa s r.pkg r.ctx va 128 then some none else none

/-- A line's class does not match the definition's site. -/
def lineSite (s : State) (r : Rop) (img : DefImage) (va : Nat) : Option Unit :=
  match routeOf s r.pkg r.ctx va with
  | some e => if e.mh = defChannel img then none else some ()
  | none => some ()

/-- The words of a line as it stands at its home. -/
def lineBytes (s : State) (r : Rop) (va : Nat) : List Byte :=
  match readHome s r.pkg r.ctx va 128 with
  | .bytes bs _ => bs
  | _ => []

/-- Write a whole line of a granule at its home. -/
def writeLine (s : State) (r : Rop) (va : Nat) (bs : List Byte) : State :=
  match translate s r.pkg r.ctx va with
  | .at_ h _ key =>
    let s : State := performAt s h r.ctx va key bs
    let s : State := if r.poisoned then addPoison s (lineUnits (key / 128)) else s
    r.issuers.foldl (fun s i => markSeen s i.gid i.holders (lineOf va) (orderOf s r.ctx (lineOf va))) s
  | _ => s

/-- The granule: every footprint line read, the program run, every line written. -/
def applyGranule (s : State) (r : Rop) (home : Nat) (img : DefImage) : State :=
  let old := r.lines.map (lineBytes s r)
  let new := runMain img old r.payload
  let ct := r.lines.foldl (fun n va => max n (max (homeNow s home) (leaseOf s r.ctx (lineOf va)))) 0
  let s' := (r.lines.zip new).foldl (fun s p => writeLine s r p.1 p.2) s
  let ret := match defRet img with
    | 1 => lineWords (old.headD [])
    | 2 => lineWords (new.headD [])
    | _ => []
  ackRop s' r.id home ct 1 0 ret

/-- A request at the unit of its home: what it meets there, in the order of R372 and R373.  A slot that is DROPPING finishes
the requests that its packages hold, and takes no other (R353). -/
def runGranule (s : State) (r : Rop) (home : Nat) : State :=
  let sl := slotOf s home r.ctx r.slot
  if (sl.state ≠ .loaded ∧ (sl.state ≠ .dropping ∨ r.phase ≠ .held)) ∨ sl.gen ≠ r.gen then faultRop s r home causeSlotChg 0
  else
    match firstLine (lineSite s r sl.img) 0 r.lines with
    | some (j, _) => faultRop s r home causeSite j
    | none =>
      match firstLine (lineBad s r) 0 r.lines with
      | some (j, some (p, c)) =>
        faultRop (faultRec s home r.ctx 3 c true (recGid s ((r.issuers.head?.map (·.gid)).getD 0)) (r.lines.getD j r.target) p 0) r home causeXlate j
      | some (j, none) => faultRop s r home causePoison j
      | none => applyGranule s r home sl.img

/-- A page of a request is MIGRATING, or a line is pinned: it is held at the unit (R168, R404). -/
def ropHeld (s : State) (r : Rop) : Bool := r.lines.any (fun va => migrating s r.pkg r.ctx va || lineHeld s r.pkg r.ctx va)

/-- A request's own line. -/
def Rop.run (r : Rop) : Run := { pkg := r.pkg, ctx := r.ctx, va := r.target, len := 128 }

/-- An earlier request of the same core is on its way to the same unit: they arrive in the order in which they were sent, and
those that are applied one at a time are applied so (R370, R426; log entry 132). -/
def ropSentAfter (s : State) (r : Rop) : Bool :=
  let from_ (q : Rop) : Option (Nat × Nat × Bool) := q.issuers.head?.map (fun i => (i.pkg, i.core, i.eng.isSome))
  s.rops.any (fun q => q.phase == .sent && decide (q.id < r.id) && from_ q == from_ r && sameUnit s q.run r.run)

/-- A request arrives at its home's unit, which holds it. -/
def holdRop (s : State) (r : Rop) : State :=
  let s : State := s.mapRop r.id (fun q => { q with phase := .held })
  (holdCuu s (.rop r.id)).getD s

/-- The way of a request to its home, where it has not yet arrived, and the home itself are usable. -/
def ropReaches (s : State) (r : Rop) (home : Nat) : Bool := (r.phase == .held || routeUp s r.pkg home) && pkgAnswers s home

/-- ROP_GRANULE: a request meets its context at its home, is held at the unit, or runs there (R372).  One that a later
context has taken the number of is dropped by its epoch (R284). -/
def ropGranule (s : State) (id : Nat) : Option State :=
  match s.rop? id with
  | none => none
  | some r =>
    let home := ropHome s r
    if r.coming = false ∨ ropBehind s r = true ∨ ropReaches s r home = false ∨ (r.phase = .sent ∧ ropSentAfter s r = true) then none
    else
      match s.ctx? home r.ctx with
      | none => some (faultRop s r home causeNoCtx 0)
      | some c =>
        if c.state = .tornDown then some (faultRop s r home causeNoCtx 0)
        else if c.epoch ≠ r.epoch ∨ c.state = .faulted then some (dropPacket (s.dropRop id) home)
        else if c.state = .created then some (faultRop s r home causeNoCtx 0)
        else if c.state = .resident ∨ c.state = .running then
          (if ropHeld s r = false ∧ cuuAhead s (.rop id) r.run = false then some (runGranule s r home)
           else if r.phase = .held then none else some (holdRop s r))
        else none

def execRopGranule (op : Nat) (s : State) : Host.Outcome State Fault Refusal := ifEnabled (ropGranule s op)

/-! ## ROP_COMBINE (R371) -/

/-- Request a stands before request b for every issuer that they share: that issuer's own requests are in program order. -/
def standsBefore (s : State) (a b : Rop) : Bool :=
  a.issuers.all (fun i => b.issuers.all (fun j =>
    let o := issuerOrder s a i
    let p := issuerOrder s b j
    !(i.gid == j.gid && (sharesHolder o.1 p.1 || (i.eng.isSome && i.eng == j.eng))) || decide (o.2 < p.2) || (o.2 == p.2 && decide (a.id < b.id))))

/-- Another access of one of the later request's issuers to one of its lines stands before it and has not been performed,
or an acquire does. -/
def accessBetween (s : State) (a b : Rop) : Bool :=
  let s := (s.dropRop a.id).dropRop b.id
  orderHolds s s b || b.issuers.any (fun i =>
    let o := issuerOrder s b i
    b.lines.any (fun va => olderCoherent s i.gid o.1 o.2 (va / 128 * 128) 128))

/-- A later request may be combined into an earlier one. -/
def mayCombine (s : State) (a b : Rop) : Bool :=
  a.id != b.id && a.coming && b.coming && (a.phase == .held || b.phase == .sent) && !a.isReturn && !b.isReturn && !a.ord.rel && !b.ord.rel
    && a.ctx == b.ctx && a.slot == b.slot && a.gen == b.gen && a.target == b.target && a.epoch == b.epoch
    && inSpan s a.pkg a.ctx b.pkg && (a.pkg == b.pkg || ropHome s a == ropHome s b)
    && standsBefore s a b && !accessBetween s a b

/-- The definition that two requests name, at one of the packages where they may be combined. -/
def combineImage (s : State) (a : Rop) : Option DefImage :=
  let good (p : Nat) : Option DefImage :=
    let sl := slotOf s p a.ctx a.slot
    if sl.state = .loaded ∧ sl.gen = a.gen ∧ defCombine sl.img = true then some sl.img else none
  (good (ropHome s a)).or (good a.pkg)

/-- ROP_COMBINE: the later request's payload joins the earlier's, which keeps its place; each issuer's request keeps its
own place among that issuer's accesses (R150, R370). -/
def ropCombine (s : State) (earlier later : Nat) : Option State :=
  match s.rop? earlier, s.rop? later with
  | some a, some b =>
    match combineImage s a with
    | none => none
    | some img =>
      if mayCombine s a b then
        let c : Rop := { a with payload := runCombine img a.payload b.payload, issuers := a.issuers ++ b.issuers
                                poisoned := a.poisoned || b.poisoned }
        some { s with rops := (s.rops.filter (fun r => r.id != b.id)).map (fun r => if r.id = c.id then c else r) }
      else none
  | _, _ => none

def execRopCombine (earlier later : Nat) (s : State) : Host.Outcome State Fault Refusal := ifEnabled (ropCombine s earlier later)

/-! ## ROP_ACK (R369, R374) -/

/-- A field of the register fault word replaced. -/
def rfaultField (v : BitVec 128) (p w x : Nat) : BitVec 128 :=
  BitVec.ofNat 128 (v.toNat % 2 ^ p + 2 ^ p * (x % 2 ^ w) + 2 ^ (p + w) * (v.toNat / 2 ^ (p + w)))

/-- SR.RFAULT after a NACK. -/
def rfaultNack (v : BitVec 128) (r : Rop) : BitVec 128 :=
  let cause := r.status.toNat / 256 % 256
  let v := rfaultField v 0 16 (min 65535 (v.toNat % 2 ^ 16 + 1))
  let v := rfaultField v 16 6 r.slot
  let v := rfaultField v 22 2 (if cause = causeXlate ∨ cause = causePoison ∨ cause = causeSite then r.line else 0)
  let v := rfaultField v 24 8 cause
  rfaultField v 32 64 r.target

/-- SR.RFAULT after an abandoned request. -/
def rfaultAbandon (v : BitVec 128) : BitVec 128 := rfaultField v 96 16 (min 65535 (v.toNat / 2 ^ 96 % 2 ^ 16 + 1))

/-- The issuing group's counters at an acknowledgement. -/
def ackGroup (r : Rop) (i : RopIssuer) (g : Group) : Group :=
  { g with rop := if i.eng.isSome then g.rop else g.rop - 1
           rfault := if r.status.getLsbD 2 then rfaultNack g.rfault r
                     else if r.status.getLsbD 1 then rfaultAbandon g.rfault else g.rfault }

/-- Lanes 0 to 31. -/
def lowLanes : Mask := miniLanes

/-- The return of a ROPR: its words, or the status word for FLAG; VOID where it was not applied. -/
def ropReturn (s : State) (r : Rop) (i : RopIssuer) (d : Nat) : State :=
  let sp := firstHolder i.holders
  if r.rmode = 3 then putWord s i.gid sp d lowLanes 0 (fun _ => r.status)
  else if r.status.getLsbD 0 then putWord s i.gid sp d lowLanes 0 (fun l => r.retWords.getD l 0)
  else setVoid s i.gid [d]

/-- CT of a request as an issuer on a package receives it (R148). -/
def Rop.ctFor (r : Rop) (pkg : Nat) : Nat := r.ct + if r.home = pkg then 0 else 40

/-- The acknowledgement at one issuer. -/
def ackIssuer (s : State) (r : Rop) (i : RopIssuer) : State :=
  match s.group? i.gid with
  | none => dropResponse s i.pkg i.core r.ctx i.epoch
  | some g =>
    let ct := r.ctFor i.pkg
    let s : State := s.mapGroup i.gid (ackGroup r i)
    let s : State := returnCt s i.gid i.holders i.place ct
    let s : State := s.mapInst g.inst (fun k => { k with maxCt := max k.maxCt ct })
    let s : State := match i.eng with
      | some (e, _) => s.mapEng e (fun e => { e with ct := max e.ct ct })
      | none => s
    let s : State := match i.stat with
      | some d => putWord s i.gid (firstHolder i.holders) d 0 0 (fun _ => r.status)
      | none => s
    let s : State := match i.ret with
      | some d => ropReturn s r i d
      | none => s
    match i.acqScope with
    | some j => acquired s i.gid i.pkg i.core j
    | none => s

/-- ROP_ACK; an acknowledgement waits where its home has no way to an issuer's package (R421). -/
def ropAck (s : State) (id : Nat) : Option State :=
  match s.rop? id with
  | none => none
  | some r => if r.phase = .acked ∧ r.issuers.all (fun i => routeUp s r.home i.pkg) = true then some ((r.issuers.foldl (fun s i => ackIssuer s r i) s).dropRop id) else none

def execRopAck (op : Nat) (s : State) : Host.Outcome State Fault Refusal := ifEnabled (ropAck s op)

/-! ## WINGS_APPEND (R279) -/

/-- A request waits behind its issuers' earlier accesses that are not themselves in the ring. -/
def wingsBehind (s : State) (r : Rop) : Bool :=
  let s := s.dropRop r.id
  orderHolds s { s with rops := s.rops.filter (fun q => q.phase != .wings) } r

/-- The ring's next entry of 256 bytes takes a request, where its page is there; which bytes are the device's (log
entry 112). -/
def ringWrite (s : State) (home : Nat) (c : Ctx) (id : Nat) : State :=
  let a := c.wrbase + 256 * ((c.wrHead + c.wings.length) % 2 ^ c.wrlog2)
  if spanReachable s home c.num a 256 then
    writeOwn s home c.num a ((List.range 256).map (fun i => BitVec.ofNat 8 (Config.undefWord id i).toNat))
  else s

/-- WINGS_APPEND: the request waits in its home's ring, or finds it full. -/
def wingsAppend (s : State) (id : Nat) : Option State :=
  match s.rop? id with
  | none => none
  | some r =>
    let home := ropHome s r
    match s.ctx? home r.ctx with
    | none => none
    | some c =>
      if r.coming = true ∧ c.epoch = r.epoch ∧ (c.state = .descheduled ∨ c.state = .keyed ∨ c.state = .measured)
          ∧ wingsBehind s r = false ∧ ropReaches s r home = true ∧ ¬(r.phase = .sent ∧ ropSentAfter s r = true) then
        if c.wings.length < 2 ^ c.wrlog2 then
          some (ringWrite ((s.mapRop id (fun r => { r with phase := .wings })).mapCtx home r.ctx (fun c => { c with wings := c.wings ++ [id] }))
            home c id)
        else some (faultRop s r home causeWingsFull 0)
      else none

def execWingsAppend (op : Nat) (s : State) : Host.Outcome State Fault Refusal := ifEnabled (wingsAppend s op)

/-! ## Near-memory sessions (R376, R377) -/

/-- Ticks a session lasts. -/
def sessionTicks : Nat := 2 ^ 20

/-- The session of a pseudo-channel, while it stands. -/
def liveSession (s : State) (pkg pch : Nat) : Option NmSession :=
  match s.session? pkg pch with
  | some n => if homeNow s pkg < n.start + sessionTicks then some n else none
  | none => none

/-- Replace the session of a pseudo-channel. -/
def setSession (s : State) (pkg pch : Nat) (n : Option NmSession) : State :=
  { s with sessions := (match n with | some n => [n] | none => []) ++ s.sessions.filter (fun o => !(o.pkg == pkg && o.pch == pch)) }

/-- An arm's-length zero bank: 64 entries. -/
def zeroBank : List Word := List.replicate 64 0

/-- A session as it opens. -/
def openSession (s : State) (n : Nm) (bf : Bool) : NmSession :=
  { pkg := n.pkg, pch := n.pch, ctx := n.ctx, epoch := n.epoch, gid := n.gid, gidWord := recGid s n.gid, bf16 := bf
    start := homeNow s n.pkg, bb := List.replicate 256 0, acc := List.replicate 16 zeroBank }

/-- A value in a session's format. -/
def nmRound (bf : Bool) (v : Word) : BitVec 16 :=
  BitVec.ofNat 16 ((if bf then bf16 else fp16).encode .rne (fp32.decode v.toNat))

/-- The value of an element of a session's format. -/
def nmVal (bf : Bool) (v : Nat) : FVal := (if bf then bf16 else fp16).decode v

/-! ## NM_COMMAND_EXECUTE (R378 to R384) -/

/-- NMMAC in one bank: ACC after the sweep; bytes are those of the span (R381). -/
def macBank (n : NmSession) (bytes : List Byte) (nb a0 lr bbase bstep b : Nat) (acc : List Word) : List Word :=
  (List.range nb).foldl (fun acc j =>
    let base := bbase + b * bstep + 16 * (j % 2 ^ lr)
    let ps := (List.range 16).map (fun e =>
      (nmVal n.bf16 (leAt bytes (512 * j + 32 * b + 2 * e) 2)).mul (nmVal n.bf16 (n.bb.getD (base + e) 0).toNat))
    let a := a0 + j / 2 ^ lr
    setAt acc a (BitVec.ofNat 32 (accFloat 8 (acc.getD a 0).toNat ps))) acc

/-- The status word, delivered; NMRD delivers its lanes, or leaves its register VOID. -/
def endNm (s : State) (n : Nm) (code : Nat) (lanes : Option (Mask × (Nat → Word))) : State :=
  let s : State := s.dropNm n.id
  match s.group? n.gid, n.kind with
  | none, _ => dropResponse s n.pkg n.core n.ctx n.epoch
  | some _, .rd _ _ =>
    match lanes with
    | some (m, f) => putWord s n.gid n.split n.d m 0 f
    | none => setVoid s n.gid [n.d]
  | some _, _ => putWord s n.gid n.split n.d 0 0 (fun _ => BitVec.ofNat 32 code)

/-- A command of the session's owner. -/
def runNm (s : State) (n : Nm) (ns : NmSession) : Option State :=
  let ok (ns : NmSession) : Option State := some (endNm (setSession s n.pkg n.pch (some ns)) n 0 none)
  match n.kind with
  | .on _ => some (endNm s n 0x40 none)
  | .off => some (endNm (setSession s n.pkg n.pch none) n 0 none)
  | .bc e0 k vals => ok { ns with bb := (List.range k).foldl (fun l j => setAt l (e0 + j) (nmRound ns.bf16 (vals.getD j 0))) ns.bb }
  | .zero a0 k => ok { ns with acc := ns.acc.map (fun b => (List.range k).foldl (fun l j => setAt l (a0 + j) 0) b) }
  | .rd a0 k =>
    some (endNm s n 0 (some (laneBits (List.range (16 * k)), fun i => (ns.acc.getD (i % 16) []).getD (a0 + i / 16) 0)))
  | .mac nb a0 lr bbase bstep =>
    if migrating s n.pkg n.ctx n.va || cuuAhead s (.nm n.id) { pkg := n.pkg, ctx := n.ctx, va := n.va, len := 512 * nb } then holdCuu s (.nm n.id)
    else
      match spanFault s n.pkg n.ctx n.va (512 * nb) with
      | some (h, p, c, va) => some (endNm (faultRec s h n.ctx 4 c true (recGid s n.gid) va p 0) n 0x43 none)
      | none =>
        match readSpan s n.pkg n.ctx n.va (512 * nb) with
        | .bytes bs false =>
          ok { ns with acc := (List.range ns.acc.length).map (fun b => macBank ns bs nb a0 lr bbase bstep b (ns.acc.getD b [])) }
        | _ => some (endNm s n 0x44 none)

/-- A sweep waits behind its split's earlier writes to the lines it reads, its parked accesses there, and its acquires. -/
def nmWaits (s : State) (n : Nm) : Bool :=
  match n.kind with
  | .mac nb _ _ _ _ =>
    acqPending s n.gid [n.split] n.id || (runLines (n.va, 512 * nb)).any (fun l =>
      olderWrite s n.gid [n.split] n.id 0 l || olderParked s n.gid [n.split] n.id (vaFull (128 * l)))
  | _ => false

/-- An earlier command of the core to the pseudo-channel is not done: they arrive, and are executed, in the order sent
(R383, R426). -/
def nmBehind (s : State) (n : Nm) : Bool :=
  nmWaits s n || s.nms.any (fun o =>
    o.pkg == n.pkg && o.pch == n.pch && decide (o.id < n.id) && ((o.gid == n.gid && o.split == n.split) || o.core == n.core))

/-- NM_COMMAND_EXECUTE: the session and its ownership decide first. -/
def nmExecute (s : State) (id : Nat) : Option State :=
  match s.nm? id with
  | none => none
  | some n =>
    if nmBehind s n then none
    else
      match liveSession s n.pkg n.pch with
      | none =>
        match n.kind with
        | .on bf => some (endNm (setSession s n.pkg n.pch (some (openSession s n bf))) n 0 none)
        | _ => some (endNm s n 0x42 none)
      | some ns =>
        if ns.gid = n.gid ∧ ns.ctx = n.ctx ∧ ns.epoch = n.epoch then runNm s n ns
        else
          match n.kind with
          | .on _ => some (endNm s n 0x40 none)
          | _ => some (endNm s n 0x41 none)

def execNmCommandExecute (op : Nat) (s : State) : Host.Outcome State Fault Refusal := ifEnabled (nmExecute s op)

/-- NM_SESSION_TIMEOUT: 2^20 ticks since a session's start. -/
def nmTimeout (s : State) (pkg pch : Nat) : Option State :=
  match s.session? pkg pch with
  | some n => if n.start + sessionTicks ≤ homeNow s pkg then some (setSession s pkg pch none) else none
  | none => none

def execNmSessionTimeout (pkg pch : Nat) (s : State) : Host.Outcome State Fault Refusal := ifEnabled (nmTimeout s pkg pch)

/-! ## DEFINITION_LOADED and DEFINITION_DROPPED (R353, R362) -/

/-- The image of a load that has been read. -/
def loadedImage (o : DefOp) : Option (List Byte) :=
  ((List.range (EngRow.count (o.va, o.len, 16))).mapM (fun j => (o.units.find? (fun u => u.1 == j)).map (·.2))).map List.flatten

/-- Every package of a context's span holds it RESIDENT or RUNNING. -/
def spanResident (s : State) (pkg ctx : Nat) : Bool :=
  match s.ctx? pkg ctx with
  | some c => c.span.all (fun p =>
      match s.ctx? p ctx with
      | some d => d.state == .resident || d.state == .running
      | none => false)
  | none => false

/-- The code of a load whose image has been read: the checks of R360, then NOTRES. -/
def loadCode (s : State) (o : DefOp) (img : List Byte) : Nat :=
  let c := defCheck img o.len
  if c ≠ 0 then c else if spanResident s o.pkg o.ctx then 0 else 0x38

def definitionLoaded (s : State) (id : Nat) : Option State :=
  match s.defOp? id with
  | none => none
  | some o =>
    if o.load = true ∧ o.lead = true ∧ o.code.isNone = true then (loadedImage o).map (fun img => endDefLoad s o (loadCode s o img))
    else none

def execDefinitionLoaded (op : Nat) (s : State) : Host.Outcome State Fault Refusal := ifEnabled (definitionLoaded s op)

/-- A request of a slot's generation stands held at the unit of its home (R353). -/
def slotHeld (s : State) (pkg ctx slot : Nat) : Bool :=
  s.rops.any (fun r => r.phase == .held && r.ctx == ctx && r.slot == slot && r.gen == (slotOf s pkg ctx slot).gen && inSpan s pkg ctx r.pkg)

/-- The slot becomes EMPTY on every package, once none of them holds a request of its generation; its generation stays. -/
def definitionDropped (s : State) (id : Nat) : Option State :=
  match s.defOp? id with
  | none => none
  | some o =>
    if o.load = false ∧ o.code.isNone = true ∧ slotHeld s o.pkg o.ctx o.slot = false then
      some ((setSlots s o.pkg o.ctx o.slot (fun t => { t with state := .empty, va := 0, len := 0, img := [] })).mapDefOp id
        (fun o => { o with code := some 0 }))
    else none

def execDefinitionDropped (op : Nat) (s : State) : Host.Outcome State Fault Refusal := ifEnabled (definitionDropped s op)

end Sys2Proof.Machine
end

