-- ==== Sys2Proof/Machine/Prompt.lean ====
section
/-! DEFINITION. What queues, launches and records share: waits for a page (R400, R447), a queue's state and the fields the device writes in its entry (R286, R296), and the end of a run (R295). -/

namespace Sys2Proof.Machine

open Sys2Proof

/-! ## Meeting memory (R400, R447) -/

/-- How the device's own read or write of a range stands. -/
inductive Meet where
  | go
  | waits (s : State)    -- the wait begins: a page is missing and a record is posted, or its request is dropped
  | held                 -- it waits already
  | denied               -- DENY has ended its wait
  | unrouted             -- R139 refuses an address of the range

/-- A wait of one waiter of a context on a package. -/
def PageWait.is (p : PageWait) (w : PageWaiter) (pkg ctx : Nat) : Bool := p.who == w && p.pkg == pkg && p.ctx == ctx

/-- The waits of a waiter are over. -/
def endPageWait (s : State) (w : PageWaiter) (pkg ctx : Nat) : State :=
  { s with pageWaits := s.pageWaits.filter (fun p => !p.is w pkg ctx) }

/-- Meet n bytes at va: traffic to an unreachable home waits there, and a request of an epoch that is not its home's is
dropped and counted once, for good (R283, R421).  A MIGRATING page is met as a MAPPED one (log entry 144). -/
def meetPages (s : State) (w : PageWaiter) (pkg ctx kind : Nat) (gid : Word) (va n : Nat) : Meet :=
  if s.pageWaits.any (fun p => p.is w pkg ctx && p.denied) then .denied
  else if spanRouted s pkg ctx va n = false then .unrouted
  else if linkedBoth s pkg ctx va = false ∨ s.pageWaits.any (fun p => p.is w pkg ctx && p.lost) = true then .held
  else if staleAt s pkg ctx (ctxEpoch s pkg ctx) va then
    .waits (dropPacket { s with pageWaits := s.pageWaits ++ [{ who := w, pkg := pkg, ctx := ctx, va := pageVa va, lost := true }] } (homeOf s pkg ctx va))
  else
    match spanFault s pkg ctx va n with
    | none => .go
    | some (h, p, c, a) =>
      if s.pageWaits.any (fun p => p.is w pkg ctx && p.va == pageVa a) then .held
      else
        let pw : PageWait := { who := w, pkg := pkg, ctx := ctx, va := pageVa a }
        .waits (faultRec { s with pageWaits := s.pageWaits ++ [pw] } h ctx kind c false gid a p 0)

/-- Read n bytes at va, unit by unit; whether one is poisoned comes with them. -/
def readUnits16 (s : State) (pkg ctx va n : Nat) : List Byte × Bool :=
  (unitPieces va (List.replicate n (0 : Byte)) (n + 1)).foldr (fun p acc =>
    match readHome s pkg ctx p.1 p.2.length with
    | .bytes bs q => (bs ++ acc.1, q || acc.2)
    | _ => acc) ([], false)

/-! ## Queues -/

/-- A queue of a context on a package. -/
def queue? (s : State) (pkg ctx q : Nat) : Option Queue :=
  match s.ctx? pkg ctx with
  | some c => c.queues.find? (fun e => e.num == q)
  | none => none

/-- Update a queue, and its entry with it. -/
def setQueue (s : State) (pkg ctx q : Nat) (f : Queue → Queue) : State :=
  match queue? s pkg ctx q with
  | none => s
  | some e => storeEntry (s.mapCtx pkg ctx (fun c => { c with queues := upd c.queues (fun o => o.num == q) f })) pkg ctx (f e)

/-- Update what the prompter keeps of a queue beside its entry. -/
def noteQueue (s : State) (pkg ctx q : Nat) (f : Queue → Queue) : State :=
  s.mapCtx pkg ctx (fun c => { c with queues := upd c.queues (fun o => o.num == q) f })

/-- The run stops: DRAINED with an error, CUR as it stands; ASYNC nodes run on (R295).  A GEN change seen during the run
is not applied: the queue has not reached IDLE (R296). -/
def drainQueue (s : State) (pkg ctx q err : Nat) : State :=
  let s : State := endPageWait (endPageWait s (.node q) pkg ctx) (.done q) pkg ctx
  setQueue s pkg ctx q (fun e =>
    { e with state := .drained, err := err, wait := none, atNode := false, kept := false, doneNow := false, asyncs := [], genSeen := false })

/-- Pending runs (R287). -/
def Queue.pending (e : Queue) : Bool :=
  let d := (e.armval + 2 ^ 32 - e.armseen % 2 ^ 32) % 2 ^ 32
  decide (1 ≤ d) && decide (d < 2 ^ 31)

/-- An IDLE queue with pending runs becomes ARMED, and the tick is kept (R296). -/
def armQueue (s : State) (pkg ctx q : Nat) : State :=
  match queue? s pkg ctx q with
  | none => s
  | some e =>
    if e.exists_ && e.state == .idle && !e.genSeen && e.pending then
      setQueue s pkg ctx q (fun e => { e with state := .armed, since := ageStart s pkg ctx, waited := s.tick })
    else s

/-- The run that started a node stops at it, if that run is still under way (R295). -/
def failNode (s : State) (pkg ctx q id node err : Nat) : State :=
  match queue? s pkg ctx q with
  | none => s
  | some e =>
    if e.asyncs.contains id ∨ e.wait = some (.op id) then drainQueue (noteQueue s pkg ctx q (fun e => { e with cur := node })) pkg ctx q err
    else s

end Sys2Proof.Machine
end

