-- ==== Sys2Proof/Machine/Verify.lean ====
section
/-! DEFINITION. LAUNCH_VERIFY: the checks of a kernel image (R302 to R304), the launch count (R309), the tree and its fit (R27 to R39), refusals (R306, R310) and the constant area (R311, R447). -/

namespace Sys2Proof.Machine

open Sys2Proof

/-! ## Codes of a refusal (R304, R306, R37) -/

def lcTREEDEPTH : Nat := 0x10
def lcTREEBIND : Nat := 0x11
def lcTREEFIT : Nat := 0x12
def lcTREECORES : Nat := 0x13
def lcTREEBAR : Nat := 0x14
def lcIMGHDR : Nat := 0x18
def lcIMGCODE : Nat := 0x19
def lcIMGRES : Nat := 0x1A
def lcDEFSLOT : Nat := 0x1B
def lcLDEPTH : Nat := 0x1C
def lcCOUNT : Nat := 0x1D

/-! ## The header (R302) -/

/-- A kernel image's header. -/
structure ImgHdr where
  magic : Nat
  version : Nat
  size : Nat
  countmax : Nat
  codeoff : Nat
  codelen : Nat
  treeoff : Nat
  res : Nat
  regoff : Nat
  nreg : Nat
  handler : Nat
  defoff : Nat
  ndef : Nat
  curcls : Nat
  constoff : Nat
  constlen : Nat
  views : List Nat
  psize : Nat
  rest : List Byte
  deriving DecidableEq, Repr

def imgHdr (b : List Byte) : ImgHdr :=
  let w (i : Nat) : Nat := leAt b (4 * i) 4
  { magic := w 0, version := w 1, size := w 2, countmax := w 3, codeoff := w 4, codelen := w 5, treeoff := w 6, res := w 7
    regoff := w 8, nreg := w 9, handler := w 10, defoff := w 11, ndef := w 12, curcls := w 13, constoff := w 14
    constlen := w 15, views := (List.range 8).map (fun j => w (16 + j)), psize := w 24, rest := (b.drop 0x64).take 28 }

def ImgHdr.regs (h : ImgHdr) : Nat := h.res % 2 ^ 10
def ImgHdr.ashrows (h : ImgHdr) : Nat := h.res / 2 ^ 16 % 2 ^ 14

/-- IMGHDR by the header's own fields. -/
def ImgHdr.bad (h : ImgHdr) : Bool :=
  h.magic != 0xCA964B31 || h.version != 1 || h.res / 2 ^ 10 % 2 ^ 6 != 0 || h.res / 2 ^ 30 != 0 || decide (8 ≤ h.curcls)
    || h.rest.any (· != 0) || h.codeoff % 8 != 0 || h.treeoff % 4 != 0 || h.regoff % 64 != 0 || h.defoff % 16 != 0
    || h.constoff % 16 != 0 || h.size % 128 != 0 || decide (2 ^ 26 < h.size) || h.codelen == 0 || h.codelen % 8 != 0
    || h.constlen % 4 != 0 || decide (65536 < h.constlen) || decide (h.size < h.treeoff + 4)

/-- Words of the tree descriptor: as many as LEVELS says, where it says a number of R27. -/
def treeWords (img : List Byte) (h : ImgHdr) : List Nat :=
  let n := leAt img h.treeoff 4 % 16
  (List.range (if 3 ≤ n then n else 1)).map (fun j => leAt img (h.treeoff + 4 * j) 4)

/-- A run of an image's bytes: first offset and end. -/
abbrev Section := Nat × Nat

/-- The header and the sections that hold a byte. -/
def imgSections (img : List Byte) (h : ImgHdr) : List Section :=
  [(0, 128), (h.codeoff, h.codeoff + h.codelen), (h.treeoff, h.treeoff + 4 * (treeWords img h).length)
   , (h.regoff, h.regoff + 64 * h.nreg), (h.defoff, h.defoff + 16 * h.ndef)
   , (h.constoff, h.constoff + h.constlen)].filter (fun p => decide (p.1 < p.2))

/-- Two runs overlap. -/
def overlap (a b : Section) : Bool := decide (a.1 < b.2) && decide (b.1 < a.2)

/-- No two of some runs overlap. -/
def disjoint : List Section → Bool
  | [] => true
  | a :: t => !t.any (overlap a) && disjoint t

/-! ## The code (R79, R80, R85, R304) -/

/-- The clauses of some code words, each with its code offset; none where the framing breaks before a terminal header
that is the last word. -/
def imgClauses : Nat → Nat → List DWord → Option (List (Nat × List DWord))
  | 0, _, _ => none
  | _ + 1, _, [] => none
  | fuel + 1, pos, w :: t =>
    if w = terminalHdr then (if t.isEmpty then some [] else none)
    else
      let h := clauseHdr w
      if h.bad = true ∨ t.length ≤ h.count + 1 then none
      else (imgClauses fuel (pos + 8 * (h.count + 2)) (t.drop (h.count + 1))).map (fun r => (pos, t.take (h.count + 1)) :: r)

/-- The code's words. -/
def imgCode (img : List Byte) (h : ImgHdr) : List DWord :=
  (List.range (h.codelen / 8)).map (fun j => BitVec.ofNat 64 (leAt img (h.codeoff + 8 * j) 8))

/-- The level operand that the launch scan reads in an instruction (R39, R238, R300): the LEVEL field of format S, the
SCOPE field of format M, and MOD[7:4] of the listed instructions of format X. -/
def levelOp (i : Instr) : Option LevelOp :=
  let lv (l : BitVec 4) (bar : Bool) : Option LevelOp := some { val := l.toNat, bar := bar }
  let hi (w : FmtA) (bar : Bool) : Option LevelOp := some { val := modHi w.mod, bar := bar }
  match i with
  | .bar w | .bara w | .barw w => some { val := w.level.toNat, bar := true, node := true }
  | .abinit w => lv w.level true
  | .abarr w | .abwait w | .abort w | .abchk w | .treeid w | .loophd w | .idone w | .iput w => lv w.level false
  | .ld _ w | .st _ w | .atom _ w | .red _ w => lv w.scope false
  | .ldc w | .pref w | .fence w | .fences w | .cuew w | .pghint w => lv w.scope false
  | .coll w => hi w true
  | .mst w | .cpy w | .cpy2d w | .tld w | .tst w | .gath w | .scat w | .rowpub w | .ewait w => hi w false
  | .garm w | .launch w | .launchi w | .rop w | .ropr w | .redgo w | .cpyg w => hi w false
  | _ => none

/-! ## Views, regions and definitions (R115, R303) -/

/-- A view word breaks R115 or overruns REGS. -/
def viewBad (regs v : Nat) : Bool :=
  let base := v % 2 ^ 10
  let rows := v / 2 ^ 10 % 2 ^ 10
  let cols := v / 2 ^ 20 % 2 ^ 8
  let ty := v / 2 ^ 28 % 4
  if rows = 0 then v != 0
  else decide (2 ^ 30 ≤ v) || cols == 0 || ty == 3 || (ty == 1 && base % 2 != 0)
    || decide (regs < base + (rows * cols + 95) / 96 * (if ty = 1 then 2 else 1))

/-- A region table entry's live-in ranges. -/
def regionEntry (img : List Byte) (off : Nat) : LiveIn :=
  (List.range (leAt img off 4 % 16)).map (fun j =>
    let w := leAt img (off + 4 + 4 * j) 4
    (w % 2 ^ 10, w / 2 ^ 10 % 2 ^ 10))

/-- A region table entry breaks R303. -/
def regionBad (img : List Byte) (off regs : Nat) : Bool :=
  let w (j : Nat) : Nat := leAt img (off + 4 * j) 4
  let nr := w 0 % 16
  decide (16 ≤ w 0) || nr == 0 || decide (8 < nr)
    || (List.range 8).any (fun j =>
      if j < nr then
        let first := w (1 + j) % 2 ^ 10
        let last := w (1 + j) / 2 ^ 10 % 2 ^ 10
        decide (2 ^ 20 ≤ w (1 + j)) || decide (last < first)
          || !(decide (last < regs) || (decide (640 ≤ first) && decide (last ≤ 703)))
      else w (1 + j) != 0)
    || (List.range 7).any (fun j => w (9 + j) != 0)

/-- A definition list entry: slot, offset and length. -/
structure DefEntry where
  slot : Nat
  off : Nat
  len : Nat
  deriving DecidableEq, Repr

def defEntries (img : List Byte) (h : ImgHdr) : List DefEntry :=
  (List.range h.ndef).map (fun j =>
    let o := h.defoff + 16 * j
    { slot := leAt img o 4, off := leAt img (o + 4) 4, len := leAt img (o + 8) 4 })

/-- The definition list breaks R303, or its images leave SIZE or overlap. -/
def defListBad (img : List Byte) (h : ImgHdr) : Bool :=
  let es := defEntries img h
  let runs := (es.map (fun e => (e.off, e.off + e.len))).filter (fun p => decide (p.1 < p.2))
  es.any (fun e => decide (64 ≤ e.slot) || e.off % 8 != 0 || decide (h.size < e.off + e.len))
    || (List.range h.ndef).any (fun j => leAt img (h.defoff + 16 * j + 12) 4 != 0)
    || decide (¬ (es.map (·.slot)).Nodup)
    || runs.any (fun r => (imgSections img h).any (overlap r)) || !disjoint runs

/-- IMGRES. -/
def imgResBad (img : List Byte) (h : ImgHdr) (heads : List Nat) : Bool :=
  h.countmax == 0 || h.regs == 0 || decide (640 < h.regs) || decide (12288 < h.ashrows) || h.ashrows % 32 != 0
    || decide (32 < h.nreg) || decide (64 < h.ndef) || h.psize % 4 != 0 || decide (4096 < h.psize)
    || h.views.any (viewBad h.regs)
    || (List.range h.nreg).any (fun j => regionBad img (h.regoff + 64 * j) h.regs)
    || (h.handler != 0xFFFFFFFF && !heads.contains h.handler)
    || defListBad img h

/-- The first failing code of the first three rows of R304, or the clauses of a good image. -/
def imgCheck (img : List Byte) (h : ImgHdr) : Nat ⊕ List (Nat × List DWord) :=
  let secs := imgSections img h
  if h.bad = true ∨ secs.any (fun p => decide (h.size < p.2)) = true ∨ disjoint secs = false then .inl lcIMGHDR
  else
    match imgClauses (h.codelen / 8 + 1) 0 (imgCode img h) with
    | none => .inl lcIMGCODE
    | some cl => if imgResBad img h (cl.map (·.1)) then .inl lcIMGRES else .inr cl

/-! ## Refusing a launch (R306, R310) -/

/-- The launching group of an instance. -/
def launcherOf (s : State) (k : Inst) : Option Group :=
  match k.launcher with
  | .group gid _ _ => s.group? gid
  | .node _ _ => none

/-- The GID word of a launch's records. -/
def launchGid (s : State) (k : Inst) : Word :=
  match launcherOf s k with
  | some g => g.gidWord
  | none => 0xFFFFFFFF

/-- The 32 bytes of a launch fault record. -/
def launchRecord (s : State) (k : Inst) (code level : Nat) : List Byte :=
  let who := match k.launcher with | .node q _ => q | .group _ _ _ => 2 ^ 6
  let core := match launcherOf s k with | some g => g.core | none => 0xFFFFFFFF
  toLE 4 (code + 2 ^ 8 * level + 2 ^ 12) ++ toLE 4 who ++ toLE 8 k.image ++ toLE 4 k.count ++ toLE 4 core
    ++ toLE 8 (homeNow s k.pkg)

/-- A launch fault record is on its way to its place: the VALID bit is 1, though memory does not show it yet (R168,
R306, R421). -/
def recordOnWay (s : State) (pkg ctx va : Nat) : Bool := s.heldWrites.any (fun w => w.pkg == pkg && w.ctx == ctx && w.va == va)

/-- The record is written while its VALID bit is 0, where its page is there (R306, R447). -/
def writeLaunchRecord (s : State) (k : Inst) (code level : Nat) : State :=
  match s.ctx? k.pkg k.ctx with
  | none => s
  | some c =>
    let va := c.fraddr + 0x40
    if spanStands s k.pkg k.ctx va 32 then
      (if leAt (readUnits16 s k.pkg k.ctx va 4).1 0 4 / 2 ^ 12 % 2 = 0 ∧ recordOnWay s k.pkg k.ctx va = false then writeOwn s k.pkg k.ctx va (launchRecord s k code level) else s)
    else s

/-- The launcher's status register takes its value (R310). -/
def launchStatus (s : State) (k : Inst) (v : Nat) : State :=
  match k.launcher with
  | .group gid d _ => putWord s gid 0 d 0 0 (fun _ => BitVec.ofNat 32 v)
  | .node _ _ => s

/-- The launcher's kids counter falls (R312, R314). -/
def kidsFall (s : State) (k : Inst) : State :=
  match k.launcher with
  | .group gid _ _ => s.mapGroup gid (fun g => { g with kids := g.kids - 1 })
  | .node _ _ => s

/-- The instance is gone: its cores hold no state of it, but entries of operations that still run stay in their tables
(R269), and its waits are over. -/
def dropInst (s : State) (k : Inst) : State :=
  let s : State := endPageWait (endPageWait s (.launch k.id) k.pkg k.ctx) (.completion k.id) k.pkg k.ctx
  let gone := (s.cores ++ s.coreRecs.map (·.core)).filter (fun c => c.inst == k.id)
  State.keepEntries
    { s with insts := s.insts.filter (fun i => i.id != k.id)
             cores := s.cores.filter (fun c => c.inst != k.id), coreRecs := s.coreRecs.filter (fun r => r.core.inst != k.id) } gone

/-- A launch is refused: record, status, the counter's fall, and the end of a KERNEL node's run (R305, R306, R310). -/
def refuseLaunch (s : State) (k : Inst) (code level : Nat) : State :=
  let s : State := writeLaunchRecord s k code level
  let s : State := kidsFall (launchStatus s k (code + 2 ^ 8 * level)) k
  let s : State := dropInst s k
  match k.launcher with
  | .node q a => failNode s k.pkg k.ctx q k.id a 3
  | .group _ _ _ => s

/-! ## Definitions of the list (R304, R353) -/

/-- One entry: a slot that holds it, a slot it is loaded into, or none where it refuses the launch, a poisoned image among
this (R362). -/
def loadEntry (s : State) (k : Inst) (img : List Byte) (e : DefEntry) : Option State :=
  let sl := slotOf s k.pkg k.ctx e.slot
  let va := k.image + e.off
  let bytes := (img.drop e.off).take e.len
  match sl.state with
  | .loaded => if sl.va = va ∧ sl.len = e.len then some s else none
  | .empty =>
    if e.len ≤ 4096 ∧ (readUnits16 s k.pkg k.ctx va e.len).2 = false ∧ defCheck bytes e.len = 0 ∧ spanResident s k.pkg k.ctx = true then
      some (setSlots s k.pkg k.ctx e.slot (fun t => { t with state := .loaded, gen := (t.gen + 1) % 256, va := va, len := e.len, img := bytes }))
    else none
  | .loading | .dropping => none

/-- The entries in list order; slots loaded before a refusal stay loaded. -/
def loadEntries (k : Inst) (img : List Byte) : List DefEntry → State → State × Bool
  | [], s => (s, true)
  | e :: t, s =>
    match loadEntry s k img e with
    | some s => loadEntries k img t s
    | none => (s, false)

/-! ## Verification (R304, R305, R447) -/

/-- How a part of a launch's verification ends. -/
inductive Phase where
  | on (s : State)       -- the next part follows
  | done (s : State)     -- the step ends here
  | held                 -- it waits for a page

/-- A refusal ends the step. -/
def Phase.refuse (s : State) (k : Inst) (code level : Nat) : Phase := .done (refuseLaunch s k code level)

/-- Levels as declared, the root's fan-out 0 where it is taken from the launch. -/
def declaredLevels (tree : List Nat) : List Level :=
  { fan := 1, phys := 0, co := false } :: (tree.drop 1).map (fun w => { fan := w % 2 ^ 16, phys := w / 2 ^ 16 % 8, co := w / 2 ^ 19 % 2 == 1 })

/-- A good image's declarations enter the instance. -/
def takeImage (k : Inst) (img : List Byte) (h : ImgHdr) (cl : List (Nat × List DWord)) : Inst :=
  { k with
    state := .loaded, codeVa := k.image + h.codeoff, codeLen := h.codelen, regs := h.regs, ashrows := h.ashrows
    handler := if h.handler = 0xFFFFFFFF then none else some h.handler
    regions := (List.range h.nreg).map (fun j => regionEntry img (h.regoff + 64 * j))
    views := h.views.map (BitVec.ofNat 32), curcls := h.curcls, countmax := h.countmax, psize := h.psize, tree := treeWords img h
    scan := cl.flatMap (fun c => c.2.filterMap (fun w => levelOp (decode w)))
    consts := (img.drop h.constoff).take h.constlen }

/-- Bytes of the image as verification has them: a unit read ahead keeps what it held then (R304; log entry 65). -/
def Inst.asRead (k : Inst) (bs : List Byte) : List Byte :=
  k.units.foldl (fun bs u => if bs.length < 16 * u.1 + 16 then bs else overlay bs (16 * u.1) u.2) bs

/-- One unit of the image read ahead, where nothing holds its read. -/
def Inst.takeUnit (k : Inst) (s : State) (l : List (Nat × List Byte)) (u : Nat) : List (Nat × List Byte) :=
  match readHome s k.pkg k.ctx (k.image + 16 * u) 16 with
  | .bytes bs false => if l.any (fun x => x.1 == u) || !linkedNow s k.pkg k.ctx (k.image + 16 * u) then l else (u, bs) :: l
  | _ => l

/-- Units of the image of a launch that is to be verified are read ahead of the rest. -/
def readAhead (s : State) (id : Nat) (us : List Nat) : Option State :=
  match s.inst? id with
  | none => none
  | some k => if k.state = .ready then some (s.mapInst id (fun k => { k with units := us.foldl (k.takeUnit s) k.units })) else none

/-- Read n bytes of the image, at most its SIZE; a refused address or DENY refuses the launch with IMGHDR, and poison in a
part that verification reads raises UNCORR (R24). -/
def meetImage (s : State) (k : Inst) (n : Nat) (reads : List Byte → List Section) (go : List Byte → Phase) : Phase :=
  match meetPages s (.launch k.id) k.pkg k.ctx 11 (launchGid s k) k.image n with
  | .go =>
    let bs := k.asRead (readUnits16 s k.pkg k.ctx k.image n).1
    if (reads bs).any (fun p => (readUnits16 s k.pkg k.ctx (k.image + p.1) (min n p.2 - p.1)).2) then
      .done (raiseUncorr s k.pkg k.ctx 0xFFFFFFFF k.image)
    else go bs
  | .waits s => .done s
  | .held => .held
  | .denied | .unrouted => .refuse s k lcIMGHDR 0

/-- The image is read and checked, its definitions are loaded, and the depth is checked. -/
def phaseImage (s : State) (k : Inst) : Phase :=
  if k.image % 128 ≠ 0 then .refuse s k lcIMGHDR 0
  else
    meetImage s k 128 (fun _ => [(0, 128)]) (fun hb =>
      let h := imgHdr hb
      if h.bad = true ∨ h.size < 128 then .refuse s k lcIMGHDR 0
      else
        meetImage s k h.size (fun img => imgSections img h) (fun img =>
          match imgCheck img h with
          | .inl code => .refuse s k code 0
          | .inr cl =>
            let r := loadEntries k img (defEntries img h) s
            if r.2 = false then .refuse r.1 k lcDEFSLOT 0
            else if 10 < k.depth then .refuse r.1 k lcLDEPTH 0
            else .on (r.1.mapInst k.id (fun _ => takeImage k img h cl))))

/-- A count of 0 completes the instance: the completion write comes next (R305), and the status with COMPLETE (R310). -/
def zeroCount (s : State) (k : Inst) : State := s.mapInst k.id (fun _ => { k with state := .retiring, count := 0 })

/-- The count is known. -/
def takeCount (s : State) (k : Inst) (n : Nat) : Phase :=
  if k.countmax < n then .refuse s { k with count := n } lcCOUNT 0
  else if n = 0 then .done (zeroCount s k)
  else .on (s.mapInst k.id (fun _ => { k with state := .launched, count := n }))

/-- The launch count (R309). -/
def phaseCount (s : State) (k : Inst) : Phase :=
  if k.ind then
    match meetPages s (.launch k.id) k.pkg k.ctx 11 (launchGid s k) k.countArg 4 with
    | .go =>
      let r := readUnits16 s k.pkg k.ctx k.countArg 4
      if r.2 then .done (raiseUncorr s k.pkg k.ctx 0xFFFFFFFF k.countArg) else takeCount s k (leNat r.1)
    | .waits s => .done s
    | .held => .held
    | .denied | .unrouted => .refuse s k lcCOUNT 0
  else takeCount s k (k.countArg % 2 ^ 32)

/-! ## Fit (R36) -/

/-- Quads of a field that counts a cores: how many, and of how many cores. -/
def quadsOf (a : Nat) : List (Nat × Nat) := [(a / 4, 4), (1, a % 4)].filter (fun q => q.1 != 0 && q.2 != 0)

/-- cap(k, x) for a core; d is k - g. -/
def capCore (ls : List Level) (n : Nat) : Nat → Nat
  | 0 => n
  | d + 1 => capCore ls n d / fanOf ls (treeG ls + d + 1)

/-- For a quad of c cores. -/
def capQuad (ls : List Level) (n c : Nat) : Nat → Nat
  | 0 => n * c
  | d + 1 =>
    let k := treeG ls + d + 1
    if bindOf ls k < 3 then c * capCore ls n (d + 1) else capQuad ls n c d / fanOf ls k

/-- For a field that counts a cores. -/
def capField (ls : List Level) (n a : Nat) : Nat → Nat
  | 0 => n * a
  | d + 1 =>
    let k := treeG ls + d + 1
    match bindOf ls k with
    | 2 => a * capCore ls n (d + 1)
    | 3 => (quadsOf a).foldl (fun t q => t + q.1 * capQuad ls n q.2 (d + 1)) 0
    | _ => capField ls n a d / fanOf ls k

/-- For a package, from what its fields count. -/
def capPkg (ls : List Level) (n : Nat) (fs : List Nat) : Nat → Nat
  | 0 => n * fs.foldl (· + ·) 0
  | d + 1 =>
    let k := treeG ls + d + 1
    if bindOf ls k < 5 then fs.foldl (fun t a => t + capField ls n a (d + 1)) 0 else capPkg ls n fs d / fanOf ls k

/-- For a domain of p such packages. -/
def capDomain (ls : List Level) (n : Nat) (fs : List Nat) (p : Nat) : Nat → Nat
  | 0 => p * (n * fs.foldl (· + ·) 0)
  | d + 1 =>
    let k := treeG ls + d + 1
    if bindOf ls k < 6 then p * capPkg ls n fs (d + 1) else capDomain ls n fs p d / fanOf ls k

/-- Some physical node of the level that k is bound to holds a level-k node. -/
def fitsAt (ls : List Level) (n : Nat) (fs : List Nat) (p k : Nat) : Bool :=
  let d := k - treeG ls
  let some_ := fs.any (fun a => decide (0 < a))
  match bindOf ls k with
  | 1 => some_
  | 2 => some_ && decide (1 ≤ capCore ls n d)
  | 3 => fs.any (fun a => (quadsOf a).any (fun q => decide (1 ≤ capQuad ls n q.2 d)))
  | 4 => fs.any (fun a => decide (1 ≤ capField ls n a d))
  | 5 => decide (1 ≤ capPkg ls n fs d)
  | _ => decide (1 ≤ capDomain ls n fs p d)

/-! ## The tree (R27 to R40) -/

/-- The lowest of some levels at which a check fails. -/
def lowest (l : List Nat) : Option Nat :=
  match l with
  | [] => none
  | a :: t => some (t.foldl min a)

/-- Levels k of a list for which f holds. -/
def levelsWhere (n : Nat) (f : Nat → Bool) : Option Nat := (List.range n).find? f

/-- TREEDEPTH: LEVELS, then the operands, and a KERNEL node's SCOPE, which R289 takes in the launched tree (R40). -/
def treeDepth (k : Inst) : Option Nat :=
  let l := k.tree.headD 0 % 16
  if l < 3 then some 0
  else
    let node := match k.launcher with | .node _ _ => [k.scope] | .group _ _ _ => []
    lowest ((k.scan.map (·.val) ++ node).filter (fun v => decide (l ≤ v) && decide (v ≤ 13)))

/-- TREEBIND at a level. -/
def treeBindAt (tree : List Nat) (ls : List Level) (k : Nat) : Bool :=
  let l := ls.length
  let ph (j : Nat) : Nat := (ls.getD j { fan := 1, phys := 0, co := false }).phys
  let lv := ls.getD k { fan := 1, phys := 0, co := false }
  if k = 0 then decide (16 ≤ tree.headD 0) || !(ls.drop 1).any (fun x => x.phys == 1)
  else
    decide (2 ^ 20 ≤ tree.getD k 0) || decide (ph k < ph (k - 1))
      || (ph k == 1 && (List.range k).any (fun j => ph j == 1)) || (ph k == 1 && k + 1 == l)
      || (lv.fan == 0 && k + 1 != l) || (ph k == 7 && k + 1 != l) || (ph k == 7 && lv.co)

/-- TREEFIT at a level, with full counts; rootFan is the declared one. -/
def treeFitAt (ls : List Level) (n count rootFan k : Nat) : Bool :=
  (k == treeG ls && laneSize ls k != 96)
    || (decide (treeG ls ≤ k) && coResident ls k && !fitsAt ls n (List.replicate 6 112) 128 k)
    || (k + 1 == ls.length && ((rootFan != 0 && rootFan != count) || decide (2 ^ 32 ≤ gridSize ls)))

/-- TREECORES at a level, with the context's grants. -/
def treeCoresAt (ls : List Level) (n : Nat) (c : Ctx) (k : Nat) : Bool :=
  decide (treeG ls ≤ k) && coResident ls k && !fitsAt ls n c.allow (c.spanm1 + 1) k

/-- TREEBAR: the level a barrier or a collective names is not co-resident, or is 15. -/
def treeBar (ls : List Level) (scan : List LevelOp) : Option Nat :=
  lowest ((scan.filter (fun o => o.bar && (o.val == 15 || !coResident ls (levelOf ls o.val)))).map
    (fun o => if o.val = 15 then 15 else levelOf ls o.val))

/-- Levels with the root's fan-out as the launch gives it (R30). -/
def resolveRoot (ls : List Level) (count : Nat) : List Level :=
  modAt ls (ls.length - 1) (fun l => { l with fan := if l.fan = 0 then count else l.fan })

/-- The first failure of the tree's checks, in R38's order: code and level. -/
def treeCheck (k : Inst) (c : Ctx) : Option (Nat × Nat) :=
  let decl := declaredLevels k.tree
  let ls := resolveRoot decl k.count
  let l := ls.length
  let n := nCore k.regs k.ashrows
  let rootFan := (decl.getD (l - 1) { fan := 1, phys := 0, co := false }).fan
  ((treeDepth k).map (fun v => (lcTREEDEPTH, v))).or
    (((levelsWhere l (treeBindAt k.tree decl)).map (fun v => (lcTREEBIND, v))).or
      (((levelsWhere l (treeFitAt ls n k.count rootFan)).map (fun v => (lcTREEFIT, v))).or
        (((levelsWhere l (treeCoresAt ls n c)).map (fun v => (lcTREECORES, v))).or
          ((treeBar ls k.scan).map (fun v => (lcTREEBAR, v))))))

/-! ## The green room (R311, R336) -/

/-- Bytes of an instance's constant area. -/
def areaSize (constlen psize : Nat) : Nat := (constlen + 15) / 16 * 16 + psize

/-- An instance that holds its constant area. -/
def Inst.holdsArea (k : Inst) : Bool :=
  match k.state with
  | .placing | .running | .retiring => k.csize != 0
  | _ => false

/-- Runs of a context's green room on a package that hold something: constant areas, group and core records, EVICT's record. -/
def greenUsed (s : State) (pkg ctx : Nat) : List Section :=
  ((s.insts.filter (fun k => k.pkg == pkg && k.ctx == ctx && k.holdsArea)).map (fun k => (k.area, k.area + k.csize)))
    ++ (s.groups.filter (fun g => g.pkg == pkg && g.ctx == ctx)).filterMap (fun g => g.record.map (fun r => (r.off, r.off + r.len)))
    ++ (s.coreRecs.filter (fun r => r.core.pkg == pkg && (s.inst? r.core.inst).any (fun k => k.ctx == ctx))).map
        (fun r => (r.green.off, r.green.off + r.green.len))
    ++ (match (s.ctx? pkg ctx).bind (·.kept) with | some r => [(r.off, r.off + r.len)] | none => [])

/-- A place of a green room is free for n bytes. -/
def greenFree (used : List Section) (size off n : Nat) : Bool :=
  decide (off + n ≤ size) && !used.any (overlap (off, off + max n 1))

/-- The lowest place, a multiple of m, for n bytes. -/
def greenPlace (used : List Section) (size m n : Nat) : Option Nat :=
  (0 :: used.map (fun u => (u.2 + m - 1) / m * m)).foldl (fun best o =>
    if greenFree used size o n then
      match best with
      | some b => some (min b o)
      | none => some o
    else best) none

/-- The page whose DENY has ended a launch's wait. -/
def deniedPage (s : State) (k : Inst) : Nat :=
  ((s.pageWaits.find? (fun p => p.is (.launch k.id) k.pkg k.ctx && p.denied)).map (·.va)).getD 0

/-- That page holds a byte of a range. -/
def deniedIn (s : State) (k : Inst) (va n : Nat) : Bool :=
  (unitPieces va (List.replicate n (0 : Byte)) (n + 1)).any (fun p => pageVa p.1 == deniedPage s k)

/-- The first address on that page of a range from va on (R281, R447). -/
def deniedAt (s : State) (k : Inst) (va : Nat) : Nat := if pageVa va = deniedPage s k then va else vaFull (deniedPage s k)

/-- The constant area is built at the offset the device chooses, and the instance enters PLACING (R310, R311). -/
def phaseBuild (s : State) (k : Inst) (c : Ctx) (area : Nat) : Phase :=
  let size := areaSize k.consts.length k.psize
  let used := greenUsed s k.pkg k.ctx
  let fault (s : State) (va : Nat) : Phase := .done (raiseCtxFault s k.pkg k.ctx { cause := cADDR, pkg := k.pkg, addr := va })
  if greenFree used c.grsize area size = false ∨ area % 16 ≠ 0 then
    (if (greenPlace used c.grsize 16 size).isNone then .done (raiseCtxFault s k.pkg k.ctx { cause := 0x22, pkg := k.pkg }) else .held)
  else
    let gid := launchGid s k
    let base := c.grbase + area
    let finish (par : List Byte) : Phase :=
      let pad := List.replicate ((k.consts.length + 15) / 16 * 16 - k.consts.length) (0 : Byte)
      let bytes := k.consts ++ pad ++ par
      match (if bytes.isEmpty then .go else meetPages s (.launch k.id) k.pkg k.ctx 11 gid base size) with
      | .go =>
        if spanHeld s k.pkg k.ctx base size then .held else
        let s : State := writeSpan s k.pkg k.ctx base bytes
        let ls := resolveRoot (declaredLevels k.tree) k.count
        let k' : Inst := { k with state := .placing, levels := ls, cbase := base, csize := size, area := area, consts := []
                                  abort := if k.abortAtStart then [(treeL ls - 1, 0)] else [] }
        .done (launchStatus (s.mapInst k.id (fun _ => k')) k 0)
      | .waits s => .done s
      | .held => .held
      | .denied => fault s (deniedAt s k base)
      | .unrouted => fault s base
    if k.psize = 0 then finish []
    else
      match meetPages s (.launch k.id) k.pkg k.ctx 11 gid k.param k.psize with
      | .go =>
        let r := readUnits16 s k.pkg k.ctx k.param k.psize
        if r.2 then .done (raiseUncorr s k.pkg k.ctx 0xFFFFFFFF k.param) else finish r.1
      | .waits s => .done s
      | .held => .held
      | .denied => fault s (if deniedIn s k base size then deniedAt s k base else deniedAt s k k.param)
      | .unrouted => fault s k.param

/-- The tree is checked, and the area built. -/
def phaseTree (s : State) (k : Inst) (c : Ctx) (area : Nat) : Phase :=
  match treeCheck k c with
  | some (code, level) => .refuse s k code level
  | none => phaseBuild s k c area

/-- The parts that are left of a launch, from the state it stands in. -/
def verifyFrom (id area : Nat) : Nat → State → Phase
  | 0, s => .done s
  | n + 1, s =>
    match s.inst? id with
    | none => .held
    | some k =>
      match s.ctx? k.pkg k.ctx with
      | none => .held
      | some c =>
        let r := match k.state with
          | .ready => phaseImage s k
          | .loaded => phaseCount s k
          | .launched => phaseTree s k c area
          | _ => .held
        match r with
        | .on s => verifyFrom id area n s
        | r => r

/-- A launch is ready: its release's fence is over at its issue, and the context is there (R308). -/
def launchVerify (s : State) (id area : Nat) : Option State :=
  match s.inst? id with
  | none => none
  | some k =>
    match s.ctx? k.pkg k.ctx with
    | none => none
    | some c =>
      if c.state = .running ∨ c.state = .resident then
        match verifyFrom id area 4 s with
        | .on s | .done s => some s
        | .held => none
      else none

def execLaunchVerify (inst area : Nat) (s : State) : Host.Outcome State Fault Refusal := ifEnabled (launchVerify s inst area)

end Sys2Proof.Machine
end

