-- ==== Sys2Proof/Machine/GroupEvents.lean ====
section
/-! DEFINITION. The life of groups on cores: placement (R31 to R33, R123, R271, R297, R309, R316, R329, R427), retirement (R207, R313, R349, R350), saves (R135 to R138, R268, R331 to R336), restores (R337, R338), moves (R46, R322), and the completion of an instance (R170, R314). -/

namespace Sys2Proof.Machine

open Sys2Proof

/-! ## Slots (R329) -/

/-- A GID names a slot of a core (R328). -/
def gidAtSlot (w : Word) (pkg core slot : Nat) : Bool :=
  w.toNat % 2 ^ 10 == core && w.toNat / 2 ^ 10 % 32 == slot && w.toNat / 2 ^ 23 % 128 == pkg

/-- A response is outstanding to a slot that no group holds: it carries a GID of that slot (R328, R329). -/
def lateOutstanding (s : State) (pkg core slot : Nat) : Bool :=
  let late (p c : Nat) (w : Word) : Bool := p == pkg && c == core && gidAtSlot w pkg core slot
  s.loads.any (fun l => late l.pkg l.core l.gw) || s.writes.any (fun w => late w.pkg w.core w.gw)
    || s.rops.any (fun r => r.issuers.any (fun i => i.eng.isNone && late i.pkg i.core i.gw))
    || s.nms.any (fun n => late n.pkg n.core n.gw) || s.defOps.any (fun o => late o.pkg o.core o.gw)

/-- Cycles after which a freed slot is reused in any case. -/
def slotReuse : Nat := 2 ^ 20

/-- A slot of a core that a group may take. -/
def slotUsable (s : State) (p : Pkg) (core slot : Nat) : Bool :=
  !s.groups.any (fun g => g.pkg == p.num && g.core == core && g.slot == slot && g.state != .saved)
    && (match p.slotFreed.find? (fun x => x.1 == core && x.2.1 == slot) with
        | none => true
        | some (_, _, t) => !lateOutstanding s p.num core slot || decide (t + slotReuse ≤ fieldCycles s p.num (fieldOf core)))

/-- The lowest slot that a group may take. -/
def freeSlotOf (s : State) (p : Pkg) (core : Nat) : Option Nat := (List.range 32).find? (slotUsable s p core)

/-! ## Cores for an instance (R271, R309, R427) -/

/-- Groups of an instance on a core: resident there, or saved with a slot kept for them (R338). -/
def groupsHeld (s : State) (inst pkg core : Nat) : Nat :=
  (s.groups.filter (fun g => g.inst == inst && g.pkg == pkg && g.core == core && (g.state != .saved || g.coreRec.isNone))).length

/-- Another instance's groups, or their state, hold the core. -/
def heldByOther (s : State) (inst pkg core : Nat) : Bool :=
  s.groups.any (fun g => g.inst != inst && g.pkg == pkg && g.core == core && (g.state != .saved || g.coreRec.isNone))

/-- Cores of a field that a context's groups hold. -/
def coresUsed (s : State) (ctx pkg fld : Nat) : List Nat :=
  distinct ((s.groups.filter (fun g => g.ctx == ctx && g.pkg == pkg && g.state != .saved && fieldOf g.core == fld)).map (·.core))

/-- The dispatcher may give a core to an instance: it holds it already, or the allowance and the headroom admit one
more. -/
def mayHold (s : State) (k : Inst) (c : Ctx) (pkg core : Nat) : Bool :=
  let fld := fieldOf core
  decide (core < 672) && !heldByOther s k.id pkg core
    && (coreHeld s k.id pkg core
        || (decide ((coresUsed s k.ctx pkg fld).length < c.allow.getD fld 0)
            && (match s.pkg? pkg with
                | some p => decide (classCurrent k.curcls ≤ (p.fields.getD fld { }).head) && (p.fields.getD fld { }).state == .on
                | none => false)))

/-- Debit a core's reservation where it is newly given (R427). -/
def debitCore (s : State) (k : Inst) (pkg core : Nat) : State :=
  if coreHeld s k.id pkg core then s
  else s.mapField pkg (fieldOf core) (fun f => { f with head := f.head - classCurrent k.curcls })

/-- Two cores lie in one physical node of a level (R26, R32). -/
def samePhys (phys pkg core pkg' core' : Nat) : Bool :=
  match phys with
  | 1 => true
  | 2 => pkg == pkg' && core == core'
  | 3 => pkg == pkg' && core / 4 == core' / 4
  | 4 => pkg == pkg' && fieldOf core == fieldOf core'
  | 5 => pkg == pkg'
  | _ => true

/-- One more step of tiedNodes: a saved core record returns whole to one core, and the nodes of all its groups with it. -/
def tieMore (s : State) (k : Inst) (m : Nat) (ns : List Nat) : List Nat :=
  let ids := (s.groups.filter (fun g => g.inst == k.id && ns.contains (g.rank / m))).filterMap (·.coreRec)
  distinct (ns ++ (s.groups.filter (fun g => g.inst == k.id && g.coreRec.any ids.contains)).map (fun g => g.rank / m))

/-- The nodes of a level that stand in one physical node with one of them: it, and those that saved core records tie to it
(R32, R338; log entry 75). -/
def tiedNodes (s : State) (k : Inst) (lv node : Nat) : List Nat :=
  s.coreRecs.foldl (fun ns _ => tieMore s k (groupSize k.levels lv) ns) [node]

/-- Where the groups of some nodes of a level are, but for some ranks: those on cores or saved with their state still on one,
which they return to (R338). -/
def nodesAt (s : State) (k : Inst) (lv : Nat) (ns : List Nat) (but : Nat → Bool) : List (Nat × Nat) :=
  let m := groupSize k.levels lv
  (s.groups.filter (fun g => g.inst == k.id && ns.contains (g.rank / m) && !but g.rank && (g.state != .saved || g.coreRec.isNone))).map
    (fun g => (g.pkg, g.core))

/-- Where the nodes of a rank's that stand together are, or where none of their groups is on a core, where the last one
was (log entry 75). -/
def nodePlaces (s : State) (k : Inst) (lv rank : Nat) (past : Bool) : List (Nat × Nat) :=
  let m := groupSize k.levels lv
  let ns := tiedNodes s k lv (rank / m)
  let now := nodesAt s k lv ns (· == rank)
  if now.isEmpty && past then
    ((k.placed.filter (fun p => ns.contains (p.rank / m) && p.rank != rank)).getLast?.map (fun p => (p.pkg, p.core))).toList
  else now

/-- Every node of a group lies wholly inside one physical node with the group on a core (R32). -/
def insideNodes (s : State) (k : Inst) (rank pkg core : Nat) (past : Bool) : Bool :=
  (List.range (treeL k.levels)).all (fun lv =>
    decide (lv ≤ treeG k.levels)
      || (nodePlaces s k lv rank past).all (fun p => samePhys (bindOf k.levels lv) p.1 p.2 pkg core))

/-- The package that R32 fixes for a group, where one of its nodes is bound to PACKAGE under DOMAIN. -/
def fixedPkg (k : Inst) (c : Ctx) (rank : Nat) : Option Nat :=
  ((List.range (treeL k.levels - 1)).find? (fun lv =>
      decide (treeG k.levels ≤ lv) && bindOf k.levels lv == 5 && bindOf k.levels (lv + 1) == 6)).bind
    (fun lv => c.span[groupCoord k.levels rank lv % c.span.length]?)

/-- EFFPRIO of a pending launch (R297). -/
def Inst.effprio (k : Inst) (now : Nat) : Nat := if k.placed.isEmpty then k.prio - (now - k.since) / 1000000 else k.prio

/-- A launch that has groups to place. -/
def Inst.pending (k : Inst) : Bool :=
  (k.state == .placing || k.state == .running) && decide (k.placed.length < gridSize k.levels)

/-- Launch o goes before launch k (R297); launches of different packages have no order (log entry 74). -/
def Inst.goesBefore (o k : Inst) (now : Nat) : Bool :=
  o.id != k.id && o.pkg == k.pkg && o.pending
    && (decide (o.effprio now < k.effprio now) || (o.effprio now == k.effprio now && decide (o.since < k.since)))

/-- A saved group that RUN is to restore before new work is placed: one that does not only wait for its children, or
whose node does not (R277). -/
def Group.toRestore (s : State) (g : Group) : Bool :=
  g.state == .saved &&
    match s.inst? g.inst with
    | some k =>
      let m := groupSize k.levels (topCo k.levels)
      s.groups.any (fun o => o.inst == g.inst && o.rank / m == g.rank / m && !groupWaitsKids s k o)
    | none => false

/-! ## GROUP_PLACE -/

/-- The levels above g whose node barriers the code names in BAR, BARA or BARW: each takes a barrier slot of the core, 13
at most (R341). -/
def barrierLevels (k : Inst) : List Nat :=
  distinct (((k.scan.filter (·.node)).map (fun o => levelOf k.levels o.val)).filter (fun lv => decide (treeG k.levels < lv) && decide (lv < treeL k.levels)))

/-- The state of a core on which an instance starts: entries of operations that still run stay in its table
(R269). -/
def startCore (s : State) (k : Inst) (pkg core : Nat) : Core :=
  let old := (s.cores.filter (fun c => c.pkg == pkg && c.idx == core)).flatMap (·.rlt)
    ++ (s.coreRecs.filter (fun r => r.core.pkg == pkg && r.core.idx == core)).flatMap (fun r => r.core.rlt)
  let regend := poolRegend k.regs k.ashrows
  { freshCore pkg core k.id regend (regend + poolA k.ashrows) with
    rlt := old, orderAt := s.order, barSlots := barrierLevels k }

/-- The instance has the core: its state there goes on, or starts with the L1 invalidated (R134, R323). -/
def openCore (s : State) (k : Inst) (pkg core : Nat) : State :=
  match s.core? pkg core with
  | some c =>
    if c.inst = k.id then s
    else { s with cores := startCore s k pkg core :: s.cores.filter (fun c => !(c.pkg == pkg && c.idx == core)) }
  | none => { s with cores := startCore s k pkg core :: s.cores }

/-- Swaps that a core has seen. -/
def coreSwaps (s : State) (pkg core : Nat) : Nat :=
  match s.core? pkg core with
  | some c => c.swaps
  | none => 0

/-- With the first group of a launch its queue's level returns to PRIO (R297). -/
def launchPlaced (s : State) (k : Inst) : State :=
  match k.launcher with
  | .node q _ => if k.placed.isEmpty then setQueue s k.pkg k.ctx q (fun e => { e with effprio := e.prio }) else s
  | .group _ _ _ => s

/-- The core has room for a group of a launch, and every node of the group lies inside one physical node (R31, R32,
R271, R309, R427). -/
def maySeat (s : State) (k : Inst) (rank pkg core : Nat) : Bool :=
  match s.ctx? pkg k.ctx, s.pkg? pkg with
  | some c, some p =>
    ctxRuns s pkg k.ctx && c.span.contains pkg && mayHold s k c pkg core && decide (groupsHeld s k.id pkg core < nCore k.regs k.ashrows)
      && insideNodes s k rank pkg core true && (fixedPkg k c rank).all (· == pkg) && (freeSlotOf s p core).isSome
  | _, _ => false

/-- A group takes a slot of a core: the state of R114. -/
def seat (s : State) (k : Inst) (rank pkg core : Nat) : State :=
  match s.pkg? pkg with
  | none => s
  | some p =>
    match freeSlotOf s p core with
    | none => s
    | some slot =>
      let s : State := openCore (debitCore s k pkg core) k pkg core
      let g := freshGroup s.nextId k.id k.ctx rank pkg core slot (slotVal p.slotGens core slot) k.regs s.tick (coreSwaps s pkg core)
        (freshSplit (stInit k.seed rank) 0 [])
      let s : State := { s with groups := s.groups ++ [g], nextId := s.nextId + 1 }
      s.mapInst k.id (fun k => { k with placed := k.placed ++ [{ rank := rank, pkg := pkg, core := core }] })

/-- A group that a co-resident node needs room for: one still to be placed, or a saved one to be restored. -/
inductive Claim where
  | place (inst rank : Nat)
  | restore (gid : Nat)

def Claim.isRestore : Claim → Bool
  | .place _ _ => false
  | .restore _ => true

/-- The groups that are not on cores, of the co-resident nodes of an instance of which some group is (R31). -/
def restOfNodes (s : State) (k : Inst) : List Claim :=
  let m := groupSize k.levels (topCo k.levels)
  let gs := s.groups.filter (fun g => g.inst == k.id)
  (distinct ((gs.filter (·.state != .saved)).map (fun g => g.rank / m))).flatMap (fun n =>
    ((gs.filter (fun g => g.rank / m == n && g.state == .saved)).map (fun g => .restore g.id))
      ++ (((List.range m).map (n * m + ·)).filter (fun r => !k.placed.any (fun p => p.rank == r))).map (.place k.id))

/-- The instance's context runs on every package of its span. -/
def spanRuns (s : State) (k : Inst) : Bool :=
  match s.ctx? k.pkg k.ctx with
  | some c => c.span.all (fun p => ctxRuns s p k.ctx)
  | none => false

/-! ## Records in the green room (R336) -/

/-- The bytes of a record: those that a rule lays out, and the device's own. -/
def recBytes (r : GreenRec) : List Byte :=
  r.head ++ (List.range (r.len - r.head.length)).map (fun i => BitVec.ofNat 8 (Config.undefWord r.stamp i).toNat)

/-- Code of a tile's state (R128). -/
def TileState.code : TileState → Nat
  | .free => 0
  | .empty => 1
  | .filling => 2
  | .ready => 3
  | .draining => 4

/-- Slot of the group of a rank, on its core. -/
def slotOfRank (s : State) (k : Inst) (rank : Nat) : Nat :=
  match s.groups.find? (fun g => g.inst == k.id && g.rank == rank) with
  | some g => g.slot
  | none => 0

/-- Index on a core of a level's node: how many of the level's nodes with groups there have a lower number (R128, R347;
log entry 117). -/
def indexOnCore (s : State) (k : Inst) (pkg core lv node : Nat) : Nat :=
  (distinct (((s.groups.filter (fun g => g.inst == k.id && g.pkg == pkg && g.core == core)).map (fun g => g.rank / groupSize k.levels lv)).filter
    (fun n => decide (n < node)))).length

/-- A tile table entry in the layout of R128, its OWNER a slot or an index on the core it stands on. -/
def tileWord (s : State) (k : Inst) (pkg core : Nat) (t : Tile) : Nat :=
  let owner := if t.state = .free then 0
    else if t.shared then indexOnCore s k pkg core ((coreLevel k.levels).getD 0) t.owner else slotOfRank s k t.owner
  t.state.code + (if t.shared then 2 ^ 3 else 0) + 2 ^ 4 * (owner % 32) + 2 ^ 9 * t.fmt + 2 ^ 13 * t.row0 + 2 ^ 27 * t.nrows + 2 ^ 41 * t.col0 + 2 ^ 46 * t.ncols

/-- An async object in the layout of R347. -/
def AsyncObj.word (o : AsyncObj) (owner : Nat) : Nat :=
  (if o.active then 1 else 0) + (if o.phase then 2 else 0) + (if o.nodeOwned then 4 else 0) + 2 ^ 3 * (owner % 32) + 2 ^ 8 * (o.level % 16)
    + 2 ^ 12 * o.expect + 2 ^ 28 * o.count + 2 ^ 44 * (o.eng % 128) + (if o.abtd then 2 ^ 51 else 0)

/-- The same, its OWNER a slot or an index on the core it stands on. -/
def objWord (s : State) (k : Inst) (pkg core : Nat) (o : AsyncObj) : Nat :=
  o.word (if o.active then (if o.nodeOwned then indexOnCore s k pkg core o.level o.owner else slotOfRank s k o.owner) else 0)

/-- What rules lay out of a core's record: its tile table and its async objects (R128, R347; log entry 66). -/
def coreHead (s : State) (k : Inst) (c : Core) : List Byte :=
  c.tiles.flatMap (fun t => toLE 8 (tileWord s k c.pkg c.idx t)) ++ c.objs.flatMap (fun o => toLE 8 (objWord s k c.pkg c.idx o))

/-- Bytes of a group's record, and of a core's. -/
def groupRecLen (regs : Nat) : Nat := 4096 + 4096 * poolF regs
def coreRecLen (rows : Nat) : Nat := 12288 + 128 * rows

/-- How a save ends. -/
inductive Saved where
  | ok (s : State)
  | full (s : State) (pkg ctx : Nat) -- the record does not fit: GRFULL (R277)
  | waits                    -- its page is not there, or a line of it is pinned (R168)

/-- Write a record of n bytes, those of head first, where it fits. -/
def putRecord (s : State) (pkg ctx n : Nat) (head : List Byte) (k : GreenRec → State → State) : Saved :=
  match s.ctx? pkg ctx with
  | none => .waits
  | some c =>
    match greenPlace (greenUsed s pkg ctx) c.grsize 4096 n with
    | none => .full s pkg ctx
    | some off =>
      if spanReachable s pkg ctx (c.grbase + off) n && !spanHeld s pkg ctx (c.grbase + off) n then
        let r : GreenRec := { off := off, len := n, stamp := s.nextId, head := head }
        let s : State := writeOwn { s with nextId := s.nextId + 1 } pkg ctx (c.grbase + off) (recBytes r)
        .ok (k r s)
      else .waits

/-- How a record stands that is to be read back. -/
inductive RecRead where
  | intact
  | altered              -- memory holds other bytes than were written, or poison, which a restore would bring into registers
  | waits                -- its home has no way here, its writes are on their way, or its reading was dropped for good
  | dropped (home : Nat) -- its home drops the reading, being of another epoch (R283)
  deriving DecidableEq, Repr

/-- Read a record back from the green room (R24, R283, R336, R421). -/
def readRecord (s : State) (pkg ctx : Nat) (r : GreenRec) : RecRead :=
  match s.ctx? pkg ctx with
  | none => .waits
  | some c =>
    let a := c.grbase + r.off
    if r.lost = true ∨ linkedBoth s pkg ctx a = false
        ∨ s.heldWrites.any (fun w => w.ctx == ctx && decide (lineOf a ≤ lineOf w.va) && decide (lineOf w.va ≤ lineOf (a + r.len - 1))) = true then .waits
    else if staleAt s pkg ctx c.epoch a then .dropped (homeOf s pkg ctx a)
    else
      let b := readUnits16 s pkg ctx a r.len
      if b.2 = false ∧ b.1 = recBytes r then .intact else .altered

/-- A record's reading has been dropped at a home: it never comes back. -/
def loseRecord (s : State) (r : GreenRec) (home : Nat) : State :=
  let gone : GreenRec := { r with lost := true }
  dropPacket
    { s with groups := s.groups.map (fun g => if g.record = some r then { g with record := some gone } else g)
             coreRecs := s.coreRecs.map (fun q => if q.green = r then { q with green := gone } else q)
             ctxs := s.ctxs.map (fun c => if c.kept = some r then { c with kept := some gone } else c) } home

/-! ## Leaving a core (R338, R427) -/

/-- A group has left: with the last one, the reservation is credited, and the core's state is saved where a saved
group still needs it. -/
def leaveCore (s : State) (k : Inst) (pkg core : Nat) : Saved :=
  if coreHeld s k.id pkg core then .ok s
  else
    let s : State := creditCore s pkg core k.id
    let keep (g : Group) : Bool := g.inst == k.id && g.pkg == pkg && g.core == core && g.state == .saved && g.coreRec.isNone
    if s.groups.any keep then
      match s.core? pkg core with
      | none => .ok s
      | some c =>
        putRecord s pkg k.ctx (coreRecLen k.ashrows) (coreHead s k c) (fun r s =>
          { s with coreRecs := s.coreRecs ++ [{ id := r.stamp, core := c, green := r }]
                   cores := s.cores.filter (fun c => !(c.pkg == pkg && c.idx == core))
                   groups := s.groups.map (fun g => if keep g then { g with coreRec := some r.stamp } else g) })
    else .ok s

/-- A core record's bytes with its objects as they stand now, each OWNER as it was recorded. -/
def GreenRec.withObjs (r : GreenRec) (objs : List AsyncObj) : GreenRec :=
  { r with head := r.head.take 256 ++ (List.range 64).flatMap (fun i =>
      let o := objs.getD i { }
      toLE 8 (o.word (if o.active then leAt r.head (256 + 8 * i) 8 / 2 ^ 3 % 32 else 0))) }

/-- Arrivals at the objects of a saved core reach its image in the green room, where its page is there (R268, R350). -/
def refreshRec (s : State) (r : CoreRec) : State :=
  let g := r.green.withObjs r.core.objs
  match s.inst? r.core.inst with
  | none => s
  | some k =>
    match s.ctx? r.core.pkg k.ctx with
    | none => s
    | some c =>
      let a := c.grbase + g.off + 256
      if g.head == r.green.head || !spanReachable s c.pkg k.ctx a 512 || spanHeld s c.pkg k.ctx a 512 then s
      else
        { writeOwn s c.pkg k.ctx a (g.head.drop 256) with
          coreRecs := s.coreRecs.map (fun q => if q.id = r.id then { q with green := g } else q) }

/-- The same for every core record. -/
def settleRecs (s : State) : State := s.coreRecs.foldl refreshRec s

/-- The state a save's end leaves. -/
def Saved.state (r : Saved) : Option State :=
  match r with
  | .ok s => some s
  | .full t pkg ctx => some (raiseCtxFault t pkg ctx { cause := 0x22, pkg := pkg })
  | .waits => none

/-! ## GROUP_RETIRE -/

/-- Nothing of a group is outstanding. -/
def groupQuiet (s : State) (gid : Nat) : Bool :=
  !s.loads.any (fun l => l.gid == gid) && !s.writes.any (fun w => w.gid == gid)
    && !s.rops.any (fun r => r.issuers.any (fun i => i.gid == gid)) && !s.nms.any (fun n => n.gid == gid)
    && !s.defOps.any (fun o => o.gid == gid) && !s.steps.any (fun t => t.gid == gid) && !s.engs.any (fun e => e.gid == gid)

/-- The objects of an owner that has retired, a node with the last of all its groups, are free, or free once their operations are complete (R350). -/
def freeObjs (s : State) (k : Inst) (g : Group) : State :=
  let left := s.groups.filter (fun o => o.inst == k.id)
  s.mapCoreOf g (fun c =>
    { c with objs := c.objs.map (fun o =>
        if o.active && !o.dying && ownsObj k g.rank o && ownerPlaced k o && !left.any (fun h => ownsObj k h.rank o) then
          (if o.eng = 0 then { } else { o with dying := true })
        else o) })

/-- Objects on which every group that is left waits for ever (R349). -/
def orphansAfter (s : State) (k : Inst) (g : Group) : State :=
  let x : Iss := { g := g, sp := freshSplit 0 0 [], k := k }
  (List.range 64).foldl (fun s i => if (objOf s x i).active && orphaned s x i then trapOrphans s x i else s) s

/-- The quarantine entries of a group are lifted (R417). -/
def liftAll (s : State) (gid : Nat) : State :=
  s.mapCores (fun c => { c with rlt := c.rlt.filter (fun e => match e.quarantine with | some (q, _) => q != gid | none => true) })

def groupRetire (s : State) (gid : Nat) : Option State :=
  match s.group? gid with
  | none => none
  | some g =>
    match s.inst? g.inst with
    | none => none
    | some k =>
      if g.splits.isEmpty = false ∨ g.kids ≠ 0 ∨ groupQuiet s gid = false
          ∨ (g.state ≠ .active ∧ g.state ≠ .kidwait ∧ g.state ≠ .resident) then none
      else
        let s : State := liftAll (freeSlot s g) gid
        let s : State := { s with groups := s.groups.filter (fun o => o.id != gid) }
        let s : State := orphansAfter (freeObjs s k g) k g
        let s : State := s.mapInst k.id (fun k =>
          { k with retired := k.retired + 1, state := if k.retired + 1 = gridSize k.levels then .retiring else k.state })
        (leaveCore s k g.pkg g.core).state

def execGroupRetire (gid : Nat) (s : State) : Host.Outcome State Fault Refusal := ifEnabled (groupRetire s gid)

/-! ## GROUP_SAVE (R332 to R335) -/

/-- The groups of a group's co-resident node that are not saved. -/
def nodeMates (s : State) (k : Inst) (g : Group) : List Group :=
  let m := groupSize k.levels (topCo k.levels)
  s.groups.filter (fun o => o.inst == k.id && o.rank / m == g.rank / m && o.state != .saved)

/-- Every unretired group of the node waits for children (R45). -/
def nodeWaitsKids (s : State) (k : Inst) (g : Group) : Bool :=
  let m := groupSize k.levels (topCo k.levels)
  (nodeMates s k g).all (groupWaitsKids s k)
    && (nodeRanks k (topCo k.levels) g.rank).all (fun r => k.placed.any (fun p => p.rank == r))
    && !s.groups.any (fun o => o.inst == k.id && o.rank / m == g.rank / m && o.state == .saved && !groupWaitsKids s k o)

/-- STOP of a group's context is under way on its package. -/
def stopping (s : State) (g : Group) : Bool :=
  match s.pkg? g.pkg with
  | some p => (match p.ctxCmd with | some cmd => cmd.op == 5 && cmd.ctx == g.ctx | none => false)
  | none => false

/-- What is saved together with a group: its node where it waits for children, or where the node lies above QUAD; a save that
has begun goes on, though a child has ended meanwhile (R332). -/
def saveUnit (s : State) (k : Inst) (g : Group) : List Group :=
  if g.state = .saved then []
  else if groupWaitsKids s k g = true ∧ nodeWaitsKids s k g = true then nodeMates s k g
  else if stopping s g then (if 3 < bindOf k.levels (topCo k.levels) then nodeMates s k g else [g])
  else if g.saving = true ∧ g.moving = false then (nodeMates s k g).filter (fun o => o.saving && !o.moving)
  else []

/-- Steps 1 to 3 of R332: the splits stop issuing, open windows roll back, and the open batch is committed. -/
def beginSave (s : State) (g : Group) : State :=
  let s : State := g.splits.foldl (fun s sp =>
    match sp.window with
    | some w => rollback s g sp w false
    | none => s) s
  (commitOpen s g.id).mapGroup g.id (fun g => { g with saving := true })

/-- A group's registers that a region save records beside its scalars. -/
def Group.liveIns (g : Group) : List Nat :=
  g.splits.flatMap (fun sp =>
    match sp.region with
    | some r => r.live.flatMap (fun p => (List.range (p.2 + 1 - p.1)).map (p.1 + ·))
    | none => [])

/-- The save is a region save (R135, R331). -/
def Group.clean (g : Group) : Bool := g.splits.all Split.isClean

/-- Operand registers that a save records. -/
def Group.recorded (g : Group) : List Nat :=
  (if g.clean then g.liveIns.filter (fun n => decide (n < 640)) else List.range g.vregs.length) ++ (List.range 64).map (640 + ·)

/-- An operation that a save waits for (R268). -/
def saveWaitsFor (e : Eng) : Bool :=
  match e.kind with
  | .mstTile _ _ _ _ _ _ _ | .tld _ _ _ | .tst _ _ _ => true
  | _ => false

/-- Step 4 of R332 is over; a CPYG's PENDING status is waited for too (log entry 136). -/
def saveReady (s : State) (g : Group) : Bool :=
  !s.steps.any (fun t => t.gid == g.id) && !s.writes.any (fun w => w.gid == g.id)
    && !s.rops.any (fun r => r.issuers.any (fun i => i.gid == g.id && i.eng.isNone)) && !s.nms.any (fun n => n.gid == g.id)
    && !s.engs.any (fun e => e.gid == g.id && saveWaitsFor e)
    && !g.recorded.any (fun n => regState g n == .pending)

/-- Loads that the save abandons: their responses are late. -/
def abandonLoads (s : State) (gid : Nat) : State :=
  { s with loads := (s.loads.filter (fun l => !(l.gid == gid && l.lanes.any (·.parked)))).map (fun l => if l.gid = gid then { l with gid := 0 } else l) }

/-- Two regions have one entry: the same RGN clause, with what was recorded there. -/
def Region.sameEntry (a b : Region) : Bool := a.hdr == b.hdr && a.st == b.st && a.mask == b.mask && a.live == b.live

/-- One split for each distinct region entry (R334). -/
def regionSplits (sps : List Split) : List Split :=
  sps.foldl (fun acc sp =>
    match sp.region with
    | none => acc
    | some r =>
      if acc.any (fun a => a.region.any r.sameEntry) then
        acc.map (fun a =>
          if a.region.any r.sameEntry then
            { a with lanes := a.lanes ||| sp.lanes, mask := r.mask &&& (a.lanes ||| sp.lanes), ctmax := max a.ctmax sp.ctmax
                     relMax := max a.relMax sp.relMax
                     cts := joinCts a.cts sp.cts, seen := a.seen ++ sp.seen }
          else a)
      else acc ++ [{ sp.goTo r.hdr with mask := r.mask &&& sp.lanes, st := r.st, held := 0, free := false, yld := false }]) []

/-- A split as a full save records it: at its next instruction, whose clause asks to yield anew when it is resumed. -/
def Split.recorded (sp : Split) : Split :=
  let sp : Split := { sp with yld := false }
  if sp.clause.isEmpty then sp else { sp with clause := [], resume := some sp.idx }

/-- Some split's region has broken the rule of R135. -/
def Group.broken (g : Group) : Bool := g.splits.any (fun sp => sp.region.any (·.broken))

/-- A group's registers as a region save leaves them: the recorded ones FULL, the other vector registers VOID, their
contents undefined (R138); where a region has broken its rule, every register's contents are (R135). -/
def Group.voidOthers (g : Group) (stamp : Nat) : Group :=
  let live := g.liveIns
  let undef (n i : Nat) : Word := Config.undefWord stamp (laneCount * n + i)
  { g with
    sregs := (List.range g.sregs.length).map (fun n =>
      let r := g.sregs.getD n { }
      { state := .full, val := if g.broken then undef (640 + n) 0 else r.val })
    vregs := (List.range g.vregs.length).map (fun n =>
      let free := (List.range laneCount).map (undef n)
      if live.contains n then { state := .full, lanes := if g.broken then free else (g.vregs.getD n { lanes := [] }).lanes }
      else { state := .void, lanes := free }) }

/-- The group as its record keeps it. -/
def Group.asSaved (g : Group) (r : GreenRec) (kids : Option Nat) : Group :=
  let h := if g.clean then { g.voidOthers r.stamp with splits := regionSplits g.splits } else { g with splits := g.splits.map Split.recorded }
  { h with state := .saved, holdsPlace := false, saving := false, moving := false, leaving := false, readyCyc := 0, record := some r
           coreRec := none, kidsTo := kids, logs := [] }

/-- Save one group whose step 4 is over: record, slot, and what leaving its core brings. -/
def saveOne (s : State) (g : Group) : Saved :=
  match s.inst? g.inst with
  | none => .waits
  | some k =>
    match putRecord s g.pkg g.ctx (groupRecLen k.regs) [] (fun r s =>
        (freeSlot (abandonLoads s g.id) g).mapGroup g.id (fun h => h.asSaved r (kidsLimit s k g))) with
    | .ok s => leaveCore s k g.pkg g.core
    | r => r

/-- Save some groups together. -/
def saveAll : List Group → State → Saved
  | [], s => .ok s
  | g :: t, s =>
    match saveOne s g with
    | .ok s => saveAll t s
    | r => r

/-- The groups as they stand in a state. -/
def currentGroups (s : State) (gs : List Group) : List Group := gs.filterMap (fun g => s.group? g.id)

/-- Begin a save, or end it where step 4 is over. -/
def saveStep (s : State) (gs : List Group) (k : List Group → State → Saved) : Option State :=
  let fresh := gs.any (fun g => !g.saving)
  let s1 := gs.foldl (fun s g => if g.saving then s else beginSave s g) s
  let gs1 := currentGroups s1 gs
  if gs1.all (saveReady s1) then
    match k gs1 s1 with
    | .waits => if fresh then some s1 else none
    | r => r.state
  else if fresh then some s1
  else none

def groupSave (s : State) (gid : Nat) : Option State :=
  match s.group? gid with
  | none => none
  | some g =>
    match s.inst? g.inst with
    | none => none
    | some k =>
      match saveUnit s k g with
      | [] => none
      | gs => saveStep s gs saveAll

def execGroupSave (gid : Nat) (s : State) : Host.Outcome State Fault Refusal := ifEnabled (groupSave s gid)

/-! ## GROUP_RESTORE (R337, R338) -/

/-- Entries of a core record come back with it; those of the group's operations that still run must fit (R269). -/
def rltFits (c : Core) : Bool := decide (c.rlt.length ≤ rltSize)

/-- A core record is restored to a core: the core's state, and the groups that share the record; its range-lock entries stay
on the core that they were issued on too (R269). -/
def restoreCore (s : State) (k : Inst) (r : CoreRec) (pkg core : Nat) : State :=
  let regend := poolRegend k.regs k.ashrows
  let old := (s.cores.filter (fun c => c.pkg == pkg && c.idx == core)).flatMap (·.rlt)
    ++ (s.coreRecs.filter (fun q => q.id != r.id && q.core.pkg == pkg && q.core.idx == core)).flatMap (fun q => q.core.rlt)
  let extra := old.filter (fun e => !r.core.rlt.contains e)
  let c : Core := { r.core with pkg := pkg, idx := core, regend := regend, ashend := regend + poolA k.ashrows, l1 := [], past := []
                                orderAt := s.order
                                rlt := r.core.rlt ++ extra }
  let mine (g : Group) : Bool := g.coreRec == some r.id
  let gids := (s.groups.filter mine).map (·.id)
  let s : State := { s with
    cores := c :: s.cores.filter (fun c => !(c.pkg == pkg && c.idx == core))
    coreRecs := s.coreRecs.filter (fun x => x.id != r.id)
    groups := s.groups.map (fun g => if mine g then { g with coreRec := none, core := core } else g)
    engs := s.engs.map (fun e => if gids.contains e.gid then { e with core := core } else e) }
  s.keepEntries [r.core]

/-- A saved group enters a core that holds its state: slot, generation, and its place, which is the latest of its
instance's. -/
def enterCore (s : State) (g : Group) (p : Pkg) (core slot : Nat) : State :=
  let sw := coreSwaps s g.pkg core
  let s : State := s.mapGroup g.id (fun g =>
    { g with state := if g.splits.isEmpty then .kidwait else .resident, core := core, slot := slot, gen := slotVal p.slotGens core slot
             record := none, kidsTo := none, swapsAt := sw, readyCyc := 0, activeSince := s.tick })
  s.mapInst g.inst (fun k => { k with placed := k.placed.filter (fun q => q.rank != g.rank) ++ [{ rank := g.rank, pkg := g.pkg, core := core }] })

/-- The core that a saved group's state needs: its own, or any that no instance's group holds, where every group that shares
the core's record finds its nodes (R32, R338). -/
def targetCore (s : State) (k : Inst) (g : Group) (core : Nat) : Option State :=
  match g.coreRec with
  | none => if core = g.core then some s else none
  | some id =>
    if s.groups.any (fun o => o.pkg == g.pkg && o.core == core && (o.state != .saved || o.coreRec.isNone)) = true
        ∨ s.groups.any (fun o => o.coreRec == some id && !insideNodes s k o.rank g.pkg core false) = true then none
    else (s.coreRecs.find? (fun r => r.id == id)).map (fun r => restoreCore s k r g.pkg core)

/-- The records that a group returns with: its own, and its core's. -/
def recordsOf (s : State) (g : Group) : List GreenRec :=
  g.record.toList ++ (s.coreRecs.filter (fun r => g.coreRec == some r.id)).map (·.green)

/-- What the first record of some that is not intact does to the restore of a group: it waits, or ends in a step of its
own. -/
def badRecord (s : State) (g : Group) (core : Nat) : Option (Option State) :=
  (recordsOf s g).findSome? (fun r =>
    match readRecord s g.pkg g.ctx r with
    | .intact => none
    | .altered => some (some (raiseUncorr s g.pkg g.ctx core 0))
    | .waits => some none
    | .dropped home => some (some (loseRecord s r home)))

/-- One saved group returns to a core. -/
def restoreOne (s : State) (gid core : Nat) : Option State :=
  match s.group? gid with
  | none => none
  | some g =>
    match s.inst? g.inst, s.ctx? g.pkg g.ctx, s.pkg? g.pkg with
    | some k, some c, some p =>
      if g.state ≠ .saved ∨ ctxRuns s g.pkg g.ctx = false ∨ mayHold s k c g.pkg core = false
          ∨ insideNodes s k g.rank g.pkg core false = false then none
      else
        match badRecord s g core with
        | some r => r
        | none =>
          match targetCore (debitCore s k g.pkg core) k g core, freeSlotOf s p core with
          | some s1, some slot =>
            match s1.core? g.pkg core with
            | some cr => if rltFits cr then some (enterCore s1 g p core slot) else none
            | none => some s1
          | _, _ => none
    | _, _, _ => none

/-- The other saved groups of a node return, in some way; all of them, or none.  A context fault that a bad record raises
ends it. -/
def restoreRest : List Nat → State → Option State
  | [], s => some s
  | gid :: t, s =>
    match s.group? gid with
    | none => some s
    | some g =>
      if g.state = .saved then (List.range 672).findSome? (fun core => (restoreOne s gid core).bind (restoreRest t)) else restoreRest t s

/-- What is restored with a group: the rest of its co-resident node where that lies above QUAD (R33, R337). -/
def restoreUnit (s : State) (k : Inst) (g : Group) : List Nat :=
  let m := groupSize k.levels (topCo k.levels)
  if bindOf k.levels (topCo k.levels) ≤ 3 then []
  else (s.groups.filter (fun o => o.inst == k.id && o.rank / m == g.rank / m && o.state == .saved && o.id != g.id)).map (·.id)

/-! ## Room for co-resident nodes (R31, R36), and GROUP_PLACE -/

/-- The ways to seat one group, over the packages of its context's span. -/
def seatsOf (s : State) : Claim → List State
  | .place i r =>
    match s.inst? i with
    | none => []
    | some k =>
      match s.ctx? k.pkg k.ctx with
      | none => []
      | some c => c.span.flatMap (fun pkg => ((List.range 672).filter (maySeat s k r pkg)).map (seat s k r pkg))
  | .restore gid => (List.range 672).filterMap (restoreOne s gid)

/-- Some groups all find room, in some way. -/
def allSeat : List Claim → State → Bool
  | [], _ => true
  | c :: t, s => (seatsOf s c).any (allSeat t)

/-- Some claims, the restores first: a core record needs a core that is empty, and a new group may join it there (R338). -/
def restoresFirst (l : List Claim) : List Claim := l.filter Claim.isRestore ++ l.filter (fun c => !c.isRestore)

/-- Every co-resident node that has begun can be on cores whole; a context that is stopped claims nothing (R31). -/
def nodesFit (s : State) : Bool := allSeat (restoresFirst ((s.insts.filter (spanRuns s)).flatMap (restOfNodes s))) s

/-- An instance's move from s to t leaves the room that co-resident nodes need; where there was too little of it before, as
where the headroom has fallen, the instance's own nodes have theirs. -/
def keepsRoom (s t : State) (inst : Nat) : Bool :=
  nodesFit t || (!nodesFit s && (match t.inst? inst with | some k => allSeat (restOfNodes t k) t | none => true))

/-- A group of a launch is placed on a core. -/
def placeOne (s : State) (k : Inst) (rank pkg core : Nat) : Option State :=
  if k.pending = false ∨ gridSize k.levels ≤ rank ∨ k.placed.any (fun q => q.rank == rank) = true ∨ maySeat s k rank pkg core = false
      ∨ s.groups.any (fun g => g.ctx == k.ctx && g.pkg == pkg && g.toRestore s) = true then none
  else
    let t : State := seat s k rank pkg core
    if keepsRoom s t k.id then some t else none

/-- A pending launch that goes first could have a group placed on the core (R297). -/
def goesFirst (s : State) (k o : Inst) (pkg core : Nat) : Bool :=
  o.goesBefore k s.tick && (List.range (gridSize o.levels)).any (fun r => (placeOne s o r pkg core).isSome)

/-- GROUP_PLACE. -/
def groupPlace (s : State) (inst rank pkg core : Nat) : Option State :=
  match s.inst? inst with
  | none => none
  | some k => if s.insts.any (fun o => goesFirst s k o pkg core) then none else (placeOne s k rank pkg core).map (fun t => launchPlaced t k)

def execGroupPlace (inst rank pkg core : Nat) (s : State) : Host.Outcome State Fault Refusal := ifEnabled (groupPlace s inst rank pkg core)

/-! ## GROUP_RESTORE itself -/

def groupRestore (s : State) (gid core : Nat) : Option State :=
  match s.group? gid with
  | none => none
  | some g =>
    match s.inst? g.inst with
    | none => none
    | some k => ((restoreOne s gid core).bind (restoreRest (restoreUnit s k g))).filter (keepsRoom s · k.id)

def execGroupRestore (gid core : Nat) (s : State) : Host.Outcome State Fault Refusal := ifEnabled (groupRestore s gid core)

/-! ## NODE_MOVE (R46, R322) -/

/-- Tile entries that a node, or a group of it, owns. -/
def nodeTiles (k : Inst) (c : Core) (lv node : Nat) : List Nat :=
  (List.range 32).filter (fun i =>
    let t := c.tiles.getD i { }
    t.state != .free && (if t.shared then coreLevel k.levels == some lv && t.owner == node else t.owner / groupSize k.levels lv == node))

/-- Objects that a node, or a node or a group of it, owns. -/
def nodeObjs (k : Inst) (c : Core) (lv node : Nat) : List Nat :=
  (List.range 64).filter (fun i =>
    let o := c.objs.getD i { }
    o.active && (if o.nodeOwned then decide (o.level ≤ lv) && o.owner * groupSize k.levels o.level / groupSize k.levels lv == node
                 else o.owner / groupSize k.levels lv == node))

/-- Two tiles' rectangles meet. -/
def Tile.meets (a b : Tile) : Bool :=
  decide (a.row0 < b.row0 + b.nrows) && decide (b.row0 < a.row0 + a.nrows)
    && decide (a.col0 < b.col0 + b.ncols) && decide (b.col0 < a.col0 + a.ncols)

/-- The target has the node's entries, rectangles and objects free. -/
def targetFree (src dst : Core) (ts os : List Nat) : Bool :=
  ts.all (fun i => (dst.tiles.getD i { }).state == .free
      && !dst.tiles.any (fun t => t.state != .free && t.meets (src.tiles.getD i { })))
    && os.all (fun i => !(dst.objs.getD i { }).active)

/-- Take over a node's entries, cells and objects, and the entries of its operations that still run (R138, R269). -/
def Core.takeNode (dst src : Core) (ts os ops gids : List Nat) : Core :=
  let moved (cell : Nat) : Bool := ts.any (fun i => (src.tiles.getD i { }).holds cell)
  { dst with
    tiles := (List.range 32).map (fun i => if ts.contains i then src.tiles.getD i { } else dst.tiles.getD i { })
    objs := (List.range 64).map (fun i => if os.contains i then src.objs.getD i { } else dst.objs.getD i { })
    ashlar := (src.ashlar.filter (fun c => moved c.1)).foldl (fun l c => cellWrite l c.1 c.2) (dst.ashlar.filter (fun c => !moved c.1))
    ashBad := src.ashBad.filter (fun h => moved (h / 8)) ++ dst.ashBad.filter (fun h => !moved (h / 8))
    rlt := dst.rlt ++ src.rlt.filter (fun e => ops.contains e.op || e.quarantine.any (fun q => gids.contains q.1)) }

/-- Give up what a node owned. -/
def Core.dropNode (src : Core) (ts os : List Nat) : Core :=
  { src with tiles := (List.range 32).map (fun i => if ts.contains i then { } else src.tiles.getD i { })
             objs := (List.range 64).map (fun i => if os.contains i then { } else src.objs.getD i { }) }

/-- The node's state moves from one core to another of its instance. -/
def moveCoreState (s : State) (k : Inst) (lv node pkg a b : Nat) (gids : List Nat) : Option State :=
  match s.core? pkg a, s.core? pkg b with
  | some src, some dst =>
    let ts := nodeTiles k src lv node
    let os := nodeObjs k src lv node
    let ops := (s.engs.filter (fun e => gids.contains e.gid)).map (·.id)
    let dst' := dst.takeNode src ts os ops gids
    if targetFree src dst ts os && src.items.isEmpty && rltFits dst' then
      some ({ (s.mapCore pkg b (fun _ => dst')).mapCore pkg a (fun c => c.dropNode ts os) with
              engs := s.engs.map (fun e => if gids.contains e.gid then { e with core := b } else e) })
    else none
  | _, _ => none

/-- Save the node's groups, each with its record, and enter them on the target core, each with a slot of its own. -/
def reseat (p core : Nat) : List Group → State → Saved
  | [], s => .ok s
  | g :: t, s =>
    match s.pkg? p, s.inst? g.inst with
    | some pk, some k =>
      match freeSlotOf s pk core with
      | none => .waits
      | some slot =>
        match putRecord s g.pkg g.ctx (groupRecLen k.regs) [] (fun r s =>
            enterCore ((freeSlot (abandonLoads s g.id) g).mapGroup g.id (fun h => h.asSaved r none)) g pk core slot) with
        | .ok s => reseat p core t s
        | r => r
    | _, _ => .waits

/-- Only this node holds a core: with it gone, the core is free (R322). -/
def freesCore (s : State) (pkg core : Nat) (gs : List Group) : Bool :=
  !s.groups.any (fun g => g.pkg == pkg && g.core == core && (g.state != .saved || g.coreRec.isNone) && !gs.any (fun o => o.id == g.id))

/-- A co-resident node waits to be placed, none of its groups having been, and may hold the core that a move frees (R31,
R322). -/
def nodeAwaits (s : State) (pkg core : Nat) (gs : List Group) : Bool :=
  let free : State := { s with groups := s.groups.filter (fun g => !gs.any (fun o => o.id == g.id)) }
  freesCore s pkg core gs && s.insts.any (fun k =>
    let m := groupSize k.levels (topCo k.levels)
    k.pending
      && (List.range (gridSize k.levels / m)).any (fun n => !k.placed.any (fun p => p.rank / m == n))
      && (match s.ctx? pkg k.ctx with
          | some c => ctxRuns s pkg k.ctx && c.span.contains k.pkg && mayHold free k c pkg core
          | none => false))

/-- The nodes above a moved node stay inside one physical node each (R32). -/
def parentsStay (s : State) (k : Inst) (lv node pkg core : Nat) : Bool :=
  let m := groupSize k.levels lv
  (List.range (treeL k.levels)).all (fun j =>
    decide (j ≤ lv)
      || (nodesAt s k j (tiedNodes s k j (node * m / groupSize k.levels j)) (fun r => r / m == node)).all
          (fun p => samePhys (bindOf k.levels j) p.1 p.2 pkg core))

/-- The core is opened for the instance, and the node's state moves to it; none where a condition of R322 or R338 fails, or
where co-resident nodes would lack the room they need (R31). -/
def moveTo (s : State) (k : Inst) (lv node pkg a b : Nat) (gs : List Group) : Option State :=
  match s.ctx? pkg k.ctx with
  | none => none
  | some c =>
    if mayHold s k c pkg b = false ∨ nCore k.regs k.ashrows < groupsHeld s k.id pkg b + gs.length ∨ parentsStay s k lv node pkg b = false
        ∨ s.groups.any (fun g => g.inst == k.id && g.rank / groupSize k.levels lv == node && g.state == .saved) = true then none
    else
      (moveCoreState (openCore (debitCore s k pkg b) k pkg b) k lv node pkg a b (gs.map (·.id))).filter (fun t =>
        keepsRoom s { t with groups := t.groups.map (fun g => if gs.any (fun o => o.id == g.id) then { g with core := b } else g) } k.id)

/-- The move itself, once the node's groups are drained. -/
def moveNow (s : State) (k : Inst) (lv node pkg a b : Nat) (gs : List Group) : Option State :=
  (moveTo s k lv node pkg a b gs).bind (fun t =>
    match reseat pkg b gs t with
    | .ok u => (leaveCore u k pkg a).state
    | r => r.state)

/-- A move that can no longer be made is given up: its groups go on, but where STOP saves them. -/
def giveUpMove (s : State) (gs : List Group) : Option State :=
  if gs.any (·.moving) then
    some { s with groups := s.groups.map (fun g =>
      if g.moving && gs.any (fun o => o.id == g.id) then { g with moving := false, saving := stopping s g } else g) }
  else none

/-- A move begins to save a group; one whose save is under way is not moved before that ends. -/
def beginMove (s : State) (g : Group) : State := (beginSave s g).mapGroup g.id (fun g => { g with moving := true })

def nodeMove (s : State) (inst level node core : Nat) : Option State :=
  match s.inst? inst with
  | none => none
  | some k =>
    let gs := s.groups.filter (fun g => g.inst == inst && g.rank / groupSize k.levels level == node && g.state != .saved)
    match gs with
    | [] => none
    | g :: _ =>
      if treeL k.levels ≤ level ∨ bindOf k.levels level ≠ 2 ∨ core = g.core ∨ fieldOf core ≠ fieldOf g.core
          ∨ heldByOther s inst g.pkg core = true ∨ nodeAwaits s g.pkg g.core gs = false ∨ ctxRuns s g.pkg g.ctx = false
          ∨ gs.any (fun g => g.saving && !g.moving) = true ∨ (moveTo s k level node g.pkg g.core core gs).isNone = true then giveUpMove s gs
      else
        let fresh := gs.any (fun g => !g.saving)
        let s1 := gs.foldl (fun s g => if g.saving then s else beginMove s g) s
        let gs1 := currentGroups s1 gs
        if gs1.all (saveReady s1) then (moveNow s1 k level node g.pkg g.core core gs1).or (if fresh then some s1 else none)
        else if fresh then some s1
        else none

def execNodeMove (inst level node core : Nat) (s : State) : Host.Outcome State Fault Refusal := ifEnabled (nodeMove s inst level node core)

/-! ## INSTANCE_COMPLETE (R170, R305, R314) -/

/-- The scope of a completion write, as a binding: a node's in the launched kernel's tree, with a count of 0 as its image
declares it, a group's in the launcher's.  A node's SCOPE from L to 13 is refused at the launch (R40, treeDepth), but for a count of 0, which no tree
check meets: there it is taken as ROOT (log entry 81). -/
def completionBind (s : State) (k : Inst) : Nat :=
  match k.launcher with
  | .node _ _ =>
    let ls := if k.levels.isEmpty then resolveRoot (declaredLevels k.tree) k.count else k.levels
    bindOf ls (if treeL ls ≤ k.scope ∧ k.scope < 14 then 14 else k.scope)
  | .group gid _ sc =>
    match (s.group? gid).bind (fun g => s.inst? g.inst) with
    | some p => bindOf p.levels sc
    | none => 7

/-- The queue whose run waits for a KERNEL node goes on after the node's completion write is visible at its scope, and a JOIN
or END of the run after those of its ASYNC nodes (R291). -/
def holdQueue (s : State) (k : Inst) (ct : Nat) : State :=
  match k.launcher with
  | .group _ _ _ => s
  | .node q _ =>
    let t := ct + skewOf (completionBind s k)
    noteQueue s k.pkg k.ctx q (fun e =>
      if e.wait = some (.op k.id) then { e with ctHold := max e.ctHold t }
      else if e.asyncs.contains k.id then { e with asyncHold := max e.asyncHold t }
      else e)

/-- COMPLETE, its completion write's CT with it: a count of 0 gives the status 0 (R310); the launcher's counter falls, and the
parent's writes take in the child's; a node is complete. -/
def completeInst (s : State) (k : Inst) (ct : Nat) : State :=
  let s : State := kidsFall (if k.count = 0 then launchStatus s k 0 else s) k
  let s : State := match launcherOf s k with
    | some g => s.mapInst g.inst (fun p => { p with maxCt := max p.maxCt (max k.maxCt ct) })
    | none => s
  dropInst (holdQueue s k ct) k

/-- The completion write is denied (R447). -/
def deniedCompletion (s : State) (k : Inst) : State :=
  match k.launcher with
  | .node q a => failNode (dropInst s k) k.pkg k.ctx q k.id a 2
  | .group _ _ _ => raiseCtxFault s k.pkg k.ctx { cause := cADDR, pkg := k.pkg, addr := k.cwaddr }

def instanceComplete (s : State) (id : Nat) : Option State :=
  match s.inst? id with
  | none => none
  | some k =>
    if k.state ≠ .retiring ∨ homeNow s k.pkg < k.maxCt + skewOf (completionBind s k) then none
    else if k.cwaddr = 0 then some (completeInst s k 0)
    else
      match meetPages s (.completion k.id) k.pkg k.ctx 11 (launchGid s k) k.cwaddr 4 with
      | .go =>
        if lineHeld s k.pkg k.ctx k.cwaddr then none
        else
          let ct := match routeOf s k.pkg k.ctx k.cwaddr with
            | some e => writeCt s k.pkg e.home k.ctx (lineOf k.cwaddr)
            | none => 0
          some (completeInst (writeHome s k.pkg k.ctx k.cwaddr (toLE 4 k.cwval.toNat)) k ct)
      | .waits s => some s
      | .held => none
      | .denied | .unrouted => some (deniedCompletion s k)

def execInstanceComplete (inst : Nat) (s : State) : Host.Outcome State Fault Refusal := ifEnabled (instanceComplete s inst)

end Sys2Proof.Machine
end

