-- ==== Sys2Proof/Machine/QueueEvents.lean ====
section
/-! DEFINITION. Queues and the prompter: taking an entry (R286), the watchers (R287, R288), the choice of a queue (R297), the nodes of a graph (R289 to R295, R299), and ageing (R297). -/

namespace Sys2Proof.Machine

open Sys2Proof

/-- The GID word of the device's own accesses (R399). -/
def noGid : Word := 0xFFFFFFFF

/-- KIND of a graph's records (R399). -/
def kindGraph : Nat := 7

/-- Poison met by the prompter (R24). -/
def graphUncorr (s : State) (pkg ctx va : Nat) : State := raiseUncorr s pkg ctx 0xFFFFFFFF va

/-! ## QUEUE_ENTRY_TAKE (R286) -/

/-- An entry's fields as the host wrote them. -/
structure QEntry where
  w0 : Nat
  w1 : Nat
  graph : Nat
  armw : Nat
  done : Nat
  gen : Nat
  rest : List Byte
  deriving DecidableEq, Repr

def qEntry (b : List Byte) : QEntry :=
  { w0 := leAt b 0 4, w1 := leAt b 4 4, graph := leAt b 8 8, armw := leAt b 0x10 8, done := leAt b 0x18 8, gen := leAt b 0x20 4
    rest := (b.drop 0x30).take 16 }

def QEntry.valid (e : QEntry) : Bool := e.w0 % 2 == 1
def QEntry.prio (e : QEntry) : Nat := e.w0 / 2 % 4
def QEntry.fld (e : QEntry) : Nat := e.w0 / 8 % 8

/-- A reserved bit set, FIELD 6 or 7, or a misaligned address. -/
def QEntry.malformed (e : QEntry) : Bool :=
  decide (2 ^ 6 ≤ e.w0) || decide (2 ^ 12 ≤ e.w1) || e.w1 / 2 ^ 3 % 2 == 1 || e.w1 / 2 ^ 6 % 4 != 0 || e.rest.any (· != 0)
    || decide (6 ≤ e.fld) || e.graph % 64 != 0 || e.armw % 4 != 0 || e.done % 4 != 0

/-- ERR 5: a bad entry, or an ARMW or nonzero DONE that R139 refuses. -/
def entryBad (s : State) (pkg ctx : Nat) (e : QEntry) : Bool :=
  e.malformed || (routeOf s pkg ctx e.armw).isNone || (e.done != 0 && (routeOf s pkg ctx e.done).isNone)

/-- The take ends with the queue absent.  Nothing is written to its entry (log entry 84). -/
def absentQueue (s : State) (pkg ctx q gen : Nat) : State :=
  noteQueue (endPageWait s (.take q) pkg ctx) pkg ctx q (fun _ => { num := q, taken := true, gen := gen })

/-- The take ends with the queue DRAINED. -/
def drainTake (s : State) (pkg ctx q err : Nat) (e : QEntry) : State :=
  setQueue (endPageWait s (.take q) pkg ctx) pkg ctx q (fun _ =>
    { num := q, taken := true, gen := e.gen, prio := e.prio, effprio := e.prio, state := .drained, err := err })

/-- The take ends with the queue IDLE, its arms so far discarded. -/
def goodTake (s : State) (pkg ctx q : Nat) (e : QEntry) (arm : Nat) : State :=
  setQueue (endPageWait s (.take q) pkg ctx) pkg ctx q (fun _ =>
    { num := q, taken := true, exists_ := true, prio := e.prio, fld := e.fld, effprio := e.prio, graph := e.graph, armw := e.armw
      armval := arm, armseen := arm, done := e.done, gen := e.gen })

/-- The entry has been read: what it says, and the arm word. -/
def takeEntry (s : State) (pkg ctx q : Nat) (e : QEntry) : Option State :=
  if e.valid = false then some (absentQueue s pkg ctx q e.gen)
  else if entryBad s pkg ctx e then some (drainTake s pkg ctx q 5 e)
  else
    match meetPages s (.take q) pkg ctx kindGraph noGid e.armw 4 with
    | .go =>
      let r := readUnits16 s pkg ctx e.armw 4
      some (if r.2 then graphUncorr s pkg ctx e.armw else goodTake s pkg ctx q e (leNat r.1))
    | .waits s => some (noteQueue s pkg ctx q (fun o => { o with exists_ := false }))
    | .held => none
    | .denied | .unrouted => some (drainTake s pkg ctx q 2 e)

/-- The entry as memory holds it, where its page is there; else nothing but the generation known. -/
def entryNow (s : State) (pkg ctx va gen : Nat) : QEntry :=
  if spanReachable s pkg ctx va 64 then qEntry (readUnits16 s pkg ctx va 64).1 else { qEntry [] with gen := gen }

/-- A queue whose entry is to be taken: never taken, or idle or drained with a GEN change seen. -/
def Queue.toTake (e : Queue) : Bool := !e.taken || (e.genSeen && (e.state == .idle || e.state == .drained))

def queueTake (s : State) (pkg ctx q : Nat) : Option State :=
  match queue? s pkg ctx q with
  | none => none
  | some o =>
    if ctxRuns s pkg ctx = false ∨ o.toTake = false then none
    else
      let va := entryVa s pkg ctx q
      match meetPages s (.take q) pkg ctx kindGraph noGid va 64 with
      | .go =>
        let r := readUnits16 s pkg ctx va 64
        if r.2 then some (graphUncorr s pkg ctx va) else takeEntry s pkg ctx q (qEntry r.1)
      | .waits s => some (noteQueue s pkg ctx q (fun o => { o with exists_ := false }))
      | .held => none
      | .denied | .unrouted => some (drainTake s pkg ctx q 2 (entryNow s pkg ctx va o.gen))

def execQueueEntryTake (pkg ctx q : Nat) (s : State) : Host.Outcome State Fault Refusal := ifEnabled (queueTake s pkg ctx q)

/-! ## WATCHER_NOTIFY (R287, R288) -/

/-- A watched word as its home holds it now, where the home is reachable (R421); a poisoned word's bits pass too (log entry
139). -/
def watchedWord (s : State) (pkg ctx va : Nat) : Option Nat := if linkedNow s pkg ctx va then readWordAt s pkg ctx va 4 else none

/-- The condition of a cue word (R292). -/
def cueHolds (cmp w val : Nat) : Bool :=
  match cmp with
  | 0 => w == val
  | 1 => w != val
  | 2 => decide (val ≤ w)
  | _ => decide ((w + 2 ^ 32 - val % 2 ^ 32) % 2 ^ 32 < 2 ^ 31)

/-- The waiting cue condition holds on the word as it is now. -/
def cueNow (s : State) (pkg ctx : Nat) (w : Option QWait) : Bool :=
  match w with
  | some (.cue va val cmp false) => (match watchedWord s pkg ctx va with | some v => cueHolds cmp v val | none => false)
  | _ => false

/-- Mark a waiting cue condition as seen. -/
def QWait.see (w : QWait) : QWait :=
  match w with
  | .cue va val cmp _ => .cue va val cmp true
  | w => w

/-- A watcher passes on what it has read: a new GEN, a new arm word, or a cue word's condition. -/
def watcherNotify (s : State) (pkg ctx q : Nat) : Option State :=
  match queue? s pkg ctx q with
  | none => none
  | some o =>
    let g := if o.taken then (watchedWord s pkg ctx (entryVa s pkg ctx q + 0x20)).getD o.gen else o.gen
    let a := if o.exists_ then (watchedWord s pkg ctx o.armw).getD o.armval else o.armval
    let newGen := g != o.gen
    let newArm := a != o.armval
    let newCue := cueNow s pkg ctx o.wait
    if newGen || newArm || newCue then
      some (armQueue (noteQueue s pkg ctx q (fun o =>
        { o with gen := if newGen then g else o.gen, genSeen := o.genSeen || newGen, armval := a, wait := if newCue then o.wait.map QWait.see else o.wait })) pkg ctx q)
    else none

def execWatcherNotify (pkg ctx q : Nat) (s : State) : Host.Outcome State Fault Refusal := ifEnabled (watcherNotify s pkg ctx q)

/-! ## PROMPTER_CHOOSE (R296, R297) -/

/-- An operation of a run is not complete. -/
def opLive (s : State) (id : Nat) : Bool := s.insts.any (fun k => k.id == id) || s.engs.any (fun e => e.id == id)

/-- ASYNC nodes of a run that are not complete. -/
def liveAsyncs (s : State) (e : Queue) : List Nat := e.asyncs.filter (opLive s)

/-- All of them are complete, and their completion writes are visible (R291). -/
def asyncsOver (s : State) (pkg : Nat) (e : Queue) : Bool := (liveAsyncs s e).isEmpty && decide (e.asyncHold ≤ homeNow s pkg)

/-- At most this many ASYNC nodes of a run are under way (R291). -/
def maxAsyncs : Nat := 16

/-- What a run waits for has come. -/
def waitEnded (s : State) (pkg ctx : Nat) (e : Queue) : Bool :=
  match e.wait with
  | none => true
  | some (.op id) => !opLive s id
  | some (.cue _ _ _ seen) => seen
  | some .join | some .last => asyncsOver s pkg e
  | some .room => decide ((liveAsyncs s e).length < maxAsyncs) && decide (e.asyncHold ≤ homeNow s pkg)
  | some .page => !s.pageWaits.any (fun p => (p.is (.node e.num) pkg ctx || p.is (.done e.num) pkg ctx) && !p.denied)

/-- A queue that its prompter may walk next. -/
def candidate (s : State) (pkg ctx : Nat) (e : Queue) : Bool :=
  ctxRuns s pkg ctx && e.exists_ && !e.atNode
    && (e.state == .armed
        || ((e.state == .running || e.state == .waiting) && waitEnded s pkg ctx e && decide (e.ctHold ≤ homeNow s pkg)))

/-- The queues of a package, with their contexts. -/
def queuesOf (s : State) (pkg : Nat) : List (Nat × Queue) :=
  (s.ctxs.filter (fun c => c.pkg == pkg)).flatMap (fun c => c.queues.map (fun q => (c.num, q)))

/-- Queue o goes before queue e (R297). -/
def before (o e : Queue) : Bool := decide (o.effprio < e.effprio) || (o.effprio == e.effprio && decide (o.waited < e.waited))

/-- A run begins or goes on: RUNNING, at the node that its wait led to.  EFFPRIO returns to PRIO where the queue enters
RUNNING (R297). -/
def Queue.enter (e : Queue) (live : List Nat) (tick : Nat) : Queue :=
  let e : Queue :=
    match e.state with
    | .armed => { e with armseen := (e.armseen + 1) % 2 ^ 32, cur := e.graph, asyncs := [] }
    | _ =>
      match e.wait with
      | some (.op _) | some (.cue _ _ _ _) => { e with cur := e.next, asyncs := live }
      | _ => { e with asyncs := live }
  { e with state := .running, effprio := if e.state = .running then e.effprio else e.prio, wait := none, waited := tick }

/-- The chosen queue is RUNNING; its node is read at its home with bypass (R295), all four units at one instant
(log entry 65), but for one that STOP has paused. -/
def readNode (s : State) (pkg ctx q : Nat) : State :=
  match queue? s pkg ctx q with
  | none => s
  | some e =>
    if e.kept then noteQueue s pkg ctx q (fun e => { e with atNode := true, kept := false })
    else if e.cur % 64 ≠ 0 then drainQueue s pkg ctx q 1
    else
      match meetPages s (.node q) pkg ctx kindGraph noGid e.cur 64 with
      | .go =>
        let r := readUnits16 s pkg ctx e.cur 64
        if r.2 then graphUncorr s pkg ctx e.cur
        else noteQueue s pkg ctx q (fun e => { e with node := r.1, atNode := true })
      | .waits s => noteQueue s pkg ctx q (fun e => { e with wait := some .page })
      | .held => noteQueue s pkg ctx q (fun e => { e with wait := some .page })
      | .denied | .unrouted => drainQueue s pkg ctx q 2

/-- The prompter is still walking a node of a queue: the node is not over, or its SETCUE is not complete (R291, R296). -/
def Queue.walked (e : Queue) (now : Nat) : Bool := e.atNode || (e.state == .running && decide (now < e.ctHold))

def prompterChoose (s : State) (pkg ctx q : Nat) : Option State :=
  match queue? s pkg ctx q with
  | none => none
  | some e =>
    let others := (queuesOf s pkg).filter (fun o => o.2.fld == e.fld && !(o.1 == ctx && o.2.num == q))
    if candidate s pkg ctx e = false ∨ others.any (fun o => ctxRuns s pkg o.1 && o.2.walked (homeNow s pkg)) = true
        ∨ others.any (fun o => candidate s pkg o.1 o.2 && before o.2 e) = true then none
    else some (readNode (setQueue s pkg ctx q (fun e => e.enter (liveAsyncs s e) s.tick)) pkg ctx q)

def execPrompterChoose (pkg ctx q : Nat) (s : State) : Host.Outcome State Fault Refusal := ifEnabled (prompterChoose s pkg ctx q)

/-! ## Nodes (R289 to R295) -/

/-- A node's fields. -/
structure Node where
  w0 : Nat
  w1 : Nat
  next : Nat
  a : Nat                  -- the doubleword at 0x10
  b : Nat                  -- at 0x18
  c : Nat                  -- at 0x20
  d : Nat                  -- at 0x28
  e : Nat                  -- at 0x30
  f : Nat                  -- at 0x38
  deriving DecidableEq, Repr

def nodeOf (bs : List Byte) : Node :=
  { w0 := leAt bs 0 4, w1 := leAt bs 4 4, next := leAt bs 8 8, a := leAt bs 0x10 8, b := leAt bs 0x18 8, c := leAt bs 0x20 8
    d := leAt bs 0x28 8, e := leAt bs 0x30 8, f := leAt bs 0x38 8 }

def Node.kind (n : Node) : Nat := n.w0 % 16
def Node.async (n : Node) : Bool := n.w0 / 2 ^ 4 % 2 == 1
def Node.scope (n : Node) : Nat := n.w0 / 2 ^ 8 % 16
def Node.ind (n : Node) : Bool := n.w0 / 2 ^ 12 % 2 == 1
def Node.irq (n : Node) : Bool := n.w0 / 2 ^ 12 % 2 == 1
def Node.vec (n : Node) : Nat := n.w0 / 2 ^ 16 % 64
/-- VAL, and CMP or OP, of a cue node. -/
def Node.val (n : Node) : Nat := n.b % 2 ^ 32
def Node.cmp (n : Node) : Nat := n.b / 2 ^ 32

/-- The reserved bits of the first word, by kind. -/
def Node.w0Bad (n : Node) : Bool :=
  n.w0 / 2 ^ 5 % 8 != 0 || (n.async && n.kind != 1 && n.kind != 2)
    || (match n.kind with
        | 0 => decide (2 ^ 22 ≤ n.w0) || n.w0 / 2 ^ 13 % 8 != 0
        | 1 => decide (2 ^ 13 ≤ n.w0)
        | _ => decide (2 ^ 12 ≤ n.w0))

/-- The bytes from 0x10 on, by kind: reserved bytes, alignment, CMP and OP; not IMAGE and PARAM (log entry 140).  A WHILE with BODY 0 and a COPY longer than 2^31 are bad too (log entry 105). -/
def Node.fieldsBad (n : Node) : Bool :=
  match n.kind with
  | 0 | 7 => n.a != 0 || n.b != 0 || n.c != 0 || n.d != 0 || n.e != 0 || n.f != 0
  | 1 => decide (2 ^ 32 ≤ n.d) || decide (2 ^ 32 ≤ n.f) || (if n.ind then n.b % 4 != 0 else decide (2 ^ 32 ≤ n.b)) || n.e % 4 != 0
  | 2 =>
    n.a % 16 != 0 || n.b % 16 != 0 || n.c % 16 != 0 || decide (2 ^ 31 < n.c) || n.d != 0 || n.e != 0 || n.f != 0
  | 3 => n.a % 4 != 0 || decide (3 < n.cmp) || n.c != 0 || n.d != 0 || n.e != 0 || n.f != 0
  | 4 => n.a % 4 != 0 || decide (1 < n.cmp) || n.c != 0 || n.d != 0 || n.e != 0 || n.f != 0
  | 5 => n.a % 4 != 0 || decide (3 < n.cmp) || n.c % 64 != 0 || n.d != 0 || n.e != 0 || n.f != 0
  | _ => n.a % 4 != 0 || decide (3 < n.cmp) || n.c % 64 != 0 || n.c == 0 || n.d != 0 || n.e != 0 || n.f != 0

/-- A bad node: ERR 1. -/
def Node.bad (n : Node) : Bool :=
  decide (7 < n.kind) || n.w1 != 0 || n.w0Bad || (n.kind != 1 && decide (n.scope < 14))
    || (if n.kind = 0 then n.next != 0 else n.next == 0 || n.next % 64 != 0) || n.fieldsBad

/-- The node that a prompter is walking for a queue. -/
def walking (s : State) (pkg ctx q : Nat) : Option (Queue × Node) :=
  match queue? s pkg ctx q with
  | some e => if ctxRuns s pkg ctx && e.atNode then some (e, nodeOf e.node) else none
  | none => none

/-- Walk a node of some kind; a bad node drains the queue whichever of its kinds the prompter takes it for. -/
def walk (s : State) (pkg ctx q kind : Nat) (body : Queue → Node → Option State) : Option State :=
  match walking s pkg ctx q with
  | none => none
  | some (e, n) =>
    if n.bad then (if n.kind = kind ∨ 7 < n.kind then some (drainQueue s pkg ctx q 1) else none)
    else if n.kind = kind then body e n
    else none

/-- The node is over: the run goes on at an address. -/
def goOn (s : State) (pkg ctx q next : Nat) : State :=
  setQueue (endPageWait s (.node q) pkg ctx) pkg ctx q (fun e => { e with atNode := false, cur := next, waited := s.tick })

/-- The node must wait: the prompter is free for other queues, and the queue has waited from now (log entry 85). -/
def goWait (s : State) (pkg ctx q next : Nat) (w : QWait) : State :=
  setQueue (endPageWait s (.node q) pkg ctx) pkg ctx q (fun e =>
    { e with atNode := false, state := .waiting, next := next, wait := some w, waited := s.tick })

/-- The node waits for a page (R295, R400): the run stands at it. -/
def pageHold (s : State) (pkg ctx q : Nat) : State :=
  noteQueue s pkg ctx q (fun e => { e with atNode := false, wait := some .page })

/-- A node's operation has been started: an ASYNC one lets the run go on, another one is waited for. -/
def started (s : State) (pkg ctx q id : Nat) (n : Node) : State :=
  if n.async then goOn (noteQueue s pkg ctx q (fun e => { e with asyncs := e.asyncs ++ [id] })) pkg ctx q n.next
  else goWait s pkg ctx q n.next (.op id)

/-- No room for another ASYNC node (R291). -/
def noRoom (s : State) (e : Queue) (n : Node) : Bool := n.async && decide (maxAsyncs ≤ (liveAsyncs s e).length)

/-! ## KERNEL (R293) and COPY (R294) -/

/-- The launch that a KERNEL node states. -/
def nodeLaunch (n : Node) : LaunchArgs :=
  { image := n.a, param := n.c, ind := n.ind, countArg := n.b, seed := BitVec.ofNat 32 n.d, scope := n.scope, cwaddr := n.e
    cwval := BitVec.ofNat 32 n.f, depth := 0 }

def kernelNode (s : State) (pkg ctx q : Nat) : Option State :=
  walk s pkg ctx q 1 (fun e n =>
    if noRoom s e n then some (goWait s pkg ctx q e.cur .room)
    else if n.e ≠ 0 ∧ (routeOf s pkg ctx n.e).isNone = true then some (drainQueue s pkg ctx q 2)
    else
      let k : Inst :=
        { newInst s.nextId pkg ctx (epochOf s pkg ctx) (.node q e.cur) false (nodeLaunch n) with prio := e.effprio, since := s.tick }
      some (started { s with insts := s.insts ++ [k], nextId := s.nextId + 1 } pkg ctx q k.id n))

def execKernelNode (pkg ctx q : Nat) (s : State) : Host.Outcome State Fault Refusal := ifEnabled (kernelNode s pkg ctx q)

/-- The binding of a node's SCOPE: ROOT means the package (R289). -/
def Node.bind (n : Node) : Nat := if n.scope = 15 then 7 else 5

/-- The copy operation of a node. -/
def nodeCopyOp (s : State) (pkg ctx q cur : Nat) (n : Node) : Eng :=
  { id := s.nextId, gid := 0, ctx := ctx, pkg := pkg, core := 0, kind := .nodeCopy n.b n.a n.c q cur, scope := n.scope
    physScope := n.bind, abid := none, reads := [], written := [], parked := [], poison := [], ct := 0, status := none
    tail := false, holders := [], epoch := ctxEpoch s pkg ctx }

def copyNode (s : State) (pkg ctx q : Nat) : Option State :=
  walk s pkg ctx q 2 (fun e n =>
    if noRoom s e n then some (goWait s pkg ctx q e.cur .room)
    else if (inOneRange s pkg ctx n.a n.c && inOneRange s pkg ctx n.b n.c) = false then some (drainQueue s pkg ctx q 2)
    else if n.c = 0 then some (goOn s pkg ctx q n.next)
    else
      let o := nodeCopyOp s pkg ctx q e.cur n
      some (started { s with engs := s.engs ++ [o], nextId := s.nextId + 1 } pkg ctx q o.id n))

def execCopyNode (pkg ctx q : Nat) (s : State) : Host.Outcome State Fault Refusal := ifEnabled (copyNode s pkg ctx q)

/-! ## WAITCUE, COND, WHILE and SETCUE (R288, R292) -/

/-- A SETCUE that only sets: it reads nothing, so that poison does not meet it. -/
def Node.sets (n : Node) : Bool := n.kind == 4 && n.cmp == 0

/-- Read a node's cue word at its home, and go on with it. -/
def withCue (s : State) (pkg ctx q : Nat) (n : Node) (k : Nat → State) : Option State :=
  match meetPages s (.node q) pkg ctx kindGraph noGid n.a 4 with
  | .go =>
    let r := readUnits16 s pkg ctx n.a 4
    some (if r.2 && !n.sets then graphUncorr s pkg ctx n.a else k (leNat r.1))
  | .waits s => some (pageHold s pkg ctx q)
  | .held => some (pageHold s pkg ctx q)
  | .denied | .unrouted => some (drainQueue s pkg ctx q 2)

def waitcueNode (s : State) (pkg ctx q : Nat) : Option State :=
  walk s pkg ctx q 3 (fun _ n => withCue s pkg ctx q n (fun w =>
    if cueHolds n.cmp w n.val then goOn s pkg ctx q n.next
    else goWait s pkg ctx q n.next (.cue n.a n.val n.cmp false)))

def execWaitcueNode (pkg ctx q : Nat) (s : State) : Host.Outcome State Fault Refusal := ifEnabled (waitcueNode s pkg ctx q)

def condNode (s : State) (pkg ctx q : Nat) : Option State :=
  walk s pkg ctx q 5 (fun _ n => withCue s pkg ctx q n (fun w =>
    goOn s pkg ctx q (if cueHolds n.cmp w n.val then n.next else n.c)))

def execCondNode (pkg ctx q : Nat) (s : State) : Host.Outcome State Fault Refusal := ifEnabled (condNode s pkg ctx q)

def whileNode (s : State) (pkg ctx q : Nat) : Option State :=
  walk s pkg ctx q 6 (fun _ n => withCue s pkg ctx q n (fun w =>
    goOn s pkg ctx q (if cueHolds n.cmp w n.val then n.c else n.next)))

def execWhileNode (pkg ctx q : Nat) (s : State) : Host.Outcome State Fault Refusal := ifEnabled (whileNode s pkg ctx q)

/-- The device's own write of bytes of one line as a release: its completion time with the scope's skew holds the
queue's next node (R153, R291). -/
def releaseWrite (s : State) (pkg ctx q va bind : Nat) (bs : List Byte) : State :=
  let ct := match routeOf s pkg ctx va with
    | some e => writeCt s pkg e.home ctx (lineOf va)
    | none => 0
  noteQueue (writeHome s pkg ctx va bs) pkg ctx q (fun e => { e with ctHold := ct + skewOf bind })

def setcueNode (s : State) (pkg ctx q : Nat) : Option State :=
  walk s pkg ctx q 4 (fun _ n =>
    if lineHeld s pkg ctx n.a then none
    else withCue s pkg ctx q n (fun w =>
      let v := if n.cmp = 0 then n.val else (w + n.val) % 2 ^ 32
      goOn (releaseWrite s pkg ctx q n.a n.bind (toLE 4 v)) pkg ctx q n.next))

def execSetcueNode (pkg ctx q : Nat) (s : State) : Host.Outcome State Fault Refusal := ifEnabled (setcueNode s pkg ctx q)

/-! ## JOIN (R291) and END (R299) -/

def joinNode (s : State) (pkg ctx q : Nat) : Option State :=
  walk s pkg ctx q 7 (fun e n =>
    some (if asyncsOver s pkg e then goOn s pkg ctx q n.next else goWait s pkg ctx q e.cur .join))

def execJoinNode (pkg ctx q : Nat) (s : State) : Host.Outcome State Fault Refusal := ifEnabled (joinNode s pkg ctx q)

/-- The run is done: its interrupt is sent, and the queue is ARMED where runs are pending, else IDLE (R296). -/
def endRun (s : State) (pkg ctx q : Nat) (n : Node) : State :=
  let s : State := endPageWait s (.done q) pkg ctx
  let s : State := if n.irq then s.mapPkg pkg (fun p => { p with irqs := p.irqs ++ [n.vec] }) else s
  setQueue s pkg ctx q (fun e =>
    { e with atNode := false, doneNow := false, asyncs := [], cur := 0, waited := s.tick, since := s.tick
             state := if e.pending then .armed else .idle })

/-- The DONE write, where there is one (R299, R447). -/
def endDone (s : State) (pkg ctx q : Nat) (n : Node) : Option State :=
  match queue? s pkg ctx q with
  | none => none
  | some e =>
    if e.done = 0 then some (endRun s pkg ctx q n)
    else
      match meetPages s (.done q) pkg ctx kindGraph noGid e.done 4 with
      | .go =>
        if lineHeld s pkg ctx e.done then none
        else some (endRun (releaseWrite s pkg ctx q e.done 7 (toLE 4 e.runs)) pkg ctx q n)
      | .waits s => some (pageHold s pkg ctx q)
      | .held => some (pageHold s pkg ctx q)
      | .denied | .unrouted => some (drainQueue s pkg ctx q 2)

def endNode (s : State) (pkg ctx q : Nat) : Option State :=
  walk s pkg ctx q 0 (fun e n =>
    if asyncsOver s pkg e = false then some (goWait s pkg ctx q e.cur .last)
    else
      endDone (if e.doneNow then s else setQueue s pkg ctx q (fun e => { e with runs := (e.runs + 1) % 2 ^ 32, doneNow := true }))
        pkg ctx q n)

def execEndNode (pkg ctx q : Nat) (s : State) : Host.Outcome State Fault Refusal := ifEnabled (endNode s pkg ctx q)

/-! ## EFFPRIO_AGE (R297) -/

/-- The effective level that a queue's waiting has brought it to: its own while it is ARMED, its unplaced launches'
otherwise. -/
def agedPrio (s : State) (pkg ctx : Nat) (e : Queue) : Nat :=
  if e.state = .armed then e.prio - (s.tick - e.since) / 1000000
  else
    (s.insts.filter (fun k => k.pkg == pkg && k.ctx == ctx && k.placed.isEmpty
        && (match k.launcher with | .node q _ => q == e.num | .group _ _ _ => false))).foldl
      (fun n k => min n (k.effprio s.tick)) e.prio

/-- A full millisecond more has passed: EFFPRIO falls by one. -/
def effprioAge (s : State) (pkg ctx q : Nat) : Option State :=
  match queue? s pkg ctx q with
  | none => none
  | some e =>
    if ctxRuns s pkg ctx && e.exists_ && decide (agedPrio s pkg ctx e < e.effprio) then
      some (setQueue s pkg ctx q (fun e => { e with effprio := e.effprio - 1 }))
    else none

def execEffprioAge (pkg ctx q : Nat) (s : State) : Host.Outcome State Fault Refusal := ifEnabled (effprioAge s pkg ctx q)

end Sys2Proof.Machine
end

