-- ==== Sys2Proof/Machine/CtxEvents.lean ====
section
/-! DEFINITION. The life of contexts: the commands of CTX_CMD (R270 to R279, R284, R352), faults as they reach a package (R280 to R283, R421), and their keys and measurements (R275, R276). -/

namespace Sys2Proof.Machine

open Sys2Proof

/-! ## CTX_CMD (R272, R424) -/

def CtxState.code : CtxState → Nat
  | .created => 1
  | .measured => 2
  | .keyed => 3
  | .resident => 4
  | .running => 5
  | .descheduled => 6
  | .faulted => 7
  | .tornDown => 8

/-- The management interface answers: F0 is ON (R424). -/
def mgmtOn (p : Pkg) : Bool := (p.fields.getD 0 { }).state == .on

/-- Bring-up is complete, and no field has failed since (R423, R424). -/
def Pkg.ready (p : Pkg) : Bool := p.stage == 5 && !p.broken

/-- STATE of CTX_STAT for a context. -/
def stateOfCtx (s : State) (pkg ctx : Nat) : Nat :=
  match s.ctx? pkg ctx with
  | some c => c.state.code
  | none => 0

/-- A command ends with a RESULT.  STATE and RESULT are latched here (log entry 93). -/
def endCtxCmd (s : State) (pkg ctx result : Nat) : State :=
  s.mapPkg pkg (fun p => { p with ctxCmd := none, ctxResult := result, ctxStatState := stateOfCtx s pkg ctx })

/-- A write of CTX_CMD for the package and context of the move: dropped while a command runs, RESULT 1 before
READY. -/
def ctxCommand (s : State) (pkg : Nat) (ctx : Nat) (body : Pkg → Option State) : Option State :=
  match s.pkg? pkg with
  | none => none
  | some p =>
    if mgmtOn p = false then none
    else if p.ctxCmd.isSome then some (s.mapPkg pkg (fun p => { p with ctxDrop := true }))
    else if p.ready = false then some (endCtxCmd s pkg ctx 1)
    else body p

/-- A command on a context in one of some states; RESULT 1 in any other. -/
def onCtx (s : State) (ok : CtxState → Bool) (body : Pkg → Ctx → Option State) : Option State :=
  let pkg := s.focus.1
  let ctx := s.focus.2
  ctxCommand s pkg ctx (fun p =>
    match s.ctx? pkg ctx with
    | none => some (endCtxCmd s pkg ctx 1)
    | some c => if ok c.state then body p c else some (endCtxCmd s pkg ctx 1))

/-- CTX_CMD_BAD: an OP that R272 does not assign. -/
def ctxCmdBad (s : State) (pkg op ctx : Nat) : Option State :=
  if op % 16 = 0 ∨ 8 < op % 16 then ctxCommand s pkg ctx (fun _ => some (endCtxCmd s pkg ctx 5)) else none

def execCtxCmdBad (pkg op ctx : Nat) (s : State) : Host.Outcome State Fault Refusal := ifEnabled (ctxCmdBad s pkg op ctx)

/-! ## CREATE (R271, R273) -/

/-- One placement table entry (R140). -/
def ptEntry (b : List Byte) : PtEntry :=
  let w := leAt b 0 8
  { valid := w % 2 == 1, mh := w / 2 % 2 == 1, log2size := w / 2 ^ 2 % 2 ^ 6, hostvis := w / 2 ^ 8 % 2 == 1, home := w / 2 ^ 16 % 2 ^ 7
    log2n := w / 2 ^ 24 % 2 ^ 4, listbase := w / 2 ^ 32 % 2 ^ 10, base := leAt b 8 8 % 2 ^ 26, raw := leNat (b.take 16) }

/-- The placement table and the pseudo-channel list, as the host pool holds them now. -/
def tableBytes (s : State) (pkg a : Nat) : List Byte := readPool s pkg a 8192
def listBytes (s : State) (pkg a : Nat) : List Byte := readPool s pkg a 2048
def placeTable (b : List Byte) : List PtEntry := (List.range 512).map (fun i => ptEntry ((b.drop (16 * i)).take 16))
def pchList (b : List Byte) : List Nat := (List.range 1024).map (fun i => leAt b (2 * i) 2)

/-- The SPAN bytes of a CCB up to SPANM1. -/
def ccbSpan (b : List Byte) : List Nat := (List.range (leAt b 0x18 1 + 1)).map (fun j => leAt b (0x80 + j) 1)

/-- A byte of a CCB that R271 does not assign is not zero. -/
def ccbStray (b : List Byte) : Bool :=
  let any (lo hi : Nat) : Bool := ((b.drop lo).take (hi - lo)).any (· != 0)
  any 0x39 0x40 || any 0x58 0x80 || any 0x100 0x1000 || leAt b 0x16 2 != 0

/-- The checks of R273 on a CCB as read. -/
def ccbBad (s : State) (pkg : Nat) (b : List Byte) : Bool :=
  let q (o : Nat) : Nat := leAt b o 8
  let span := ccbSpan b
  let m1 := leAt b 0x18 1
  let idx := leAt b 0x19 1
  ccbStray b || q 0 % 16 != 0 || q 8 % 16 != 0 || !rangeInHostPool s pkg (q 0) 8192 || !rangeInHostPool s pkg (q 8) 2048
    || decide (127 < m1) || (List.range 6).any (fun f => decide (112 < leAt b (0x1A + f) 1))
    || q 0x20 % 4096 != 0 || q 0x30 % 4096 != 0 || q 0x28 == 0 || q 0x28 % 4096 != 0
    || decide (leAt b 0x38 1 < 10) || decide (20 < leAt b 0x38 1) || q 0x40 % 64 != 0 || q 0x48 % 64 != 0 || q 0x50 % 64 != 0
    || decide (m1 < idx) || leAt b (0x80 + idx) 1 != pkg || span.any (fun x => decide (127 < x)) || decide (¬ span.Nodup)
    || ((b.drop (0x80 + m1 + 1)).take (127 - m1)).any (· != 0)

/-- The epoch that a number's next context begins with (R274). -/
def nextEpoch (s : State) (pkg ctx : Nat) : Nat :=
  match s.ctx? pkg ctx with
  | some c => c.epoch
  | none => 0

/-- The context that a good CCB describes (R271, R352). -/
def newCtx (s : State) (pkg num addr : Nat) (b : List Byte) : Ctx :=
  let q (o : Nat) : Nat := leAt b o 8
  { pkg := pkg, num := num, state := .created, before := .created, epoch := nextEpoch s pkg num, ccb := b, ccbAddr := addr
    ptaddr := q 0, pcladdr := q 8, keypol := leAt b 0x10 4, lease := leAt b 0x14 2, spanm1 := leAt b 0x18 1, spidx := leAt b 0x19 1
    allow := (List.range 6).map (fun f => leAt b (0x1A + f) 1), grbase := q 0x20, grsize := q 0x28, wrbase := q 0x30
    wrlog2 := leAt b 0x38 1, fraddr := q 0x40, fqaddr := q 0x48, qtaddr := q 0x50, span := ccbSpan b
    pt := placeTable (tableBytes s pkg (q 0)), pcl := (pchList (listBytes s pkg (q 8))).map (· % 2 ^ 10), digest := [], key := [], xfer := []
    iv := [], last := 0, slots := List.replicate 64 { }, queues := (List.range 64).map (fun i => { num := i }), wings := []
    fqWait := [], peer := none }

/-- CREATE, for the number of the move; one in use is RESULT 1 (log entry 137). -/
def create (s : State) : Option State :=
  let pkg := s.focus.1
  let num := s.focus.2 % 2048
  ctxCommand s pkg num (fun p =>
    let free := match s.ctx? pkg num with | some c => c.state == .tornDown | none => true
    if free = false then some (endCtxCmd s pkg num 1)
    else if p.ctxArg % 4096 ≠ 0 ∨ rangeInHostPool s pkg p.ctxArg 4096 = false then some (endCtxCmd s pkg num 3)
    else
      let b := readPool s pkg p.ctxArg 4096
      if ccbBad s pkg b then some (endCtxCmd s pkg num 3)
      else
        let c := newCtx s pkg num p.ctxArg b
        let s : State := { s with ctxs := s.ctxs.filter (fun o => !(o.pkg == pkg && o.num == num)) ++ [c] }
        some (endCtxCmd s pkg num 0))

def execCreate (s : State) : Host.Outcome State Fault Refusal := ifEnabled (create s)

/-! ## MEASURE (R140, R141, R273, R275) -/

/-- Reserved bits of a placement table entry. -/
def PtEntry.reserved (e : PtEntry) : Bool :=
  let b (p n : Nat) : Bool := e.raw / 2 ^ p % 2 ^ n != 0
  b 9 7 || b 23 1 || b 28 4 || b 42 22 || b 90 38

/-- The set of a valid entry, as the list names it. -/
def PtEntry.set (e : PtEntry) (pcl : List Nat) : List Nat := (pcl.drop e.listbase).take e.n

/-- First byte and end of a range, within 56 bits. -/
def PtEntry.lo (e : PtEntry) : Nat := e.base * 2 ^ 30
def PtEntry.hi (e : PtEntry) : Nat := e.lo + 2 ^ e.log2size

/-- A valid entry breaks R140, R141 or R275. -/
def PtEntry.bad (e : PtEntry) (pcl span : List Nat) : Bool :=
  decide (e.log2size < 30) || decide (55 < e.log2size) || decide (9 < e.log2n) || e.lo % 2 ^ e.log2size != 0
    || decide (1024 < e.listbase + e.n) || !span.contains e.home || decide (¬ (e.set pcl).Nodup) || (e.set pcl).any (fun k => decide (768 ≤ k))

/-- No two of some ranges overlap. -/
def apart : List PtEntry → Bool
  | [] => true
  | e :: t => t.all (fun o => decide (e.hi ≤ o.lo) || decide (o.hi ≤ e.lo)) && apart t

/-- The tables break R275. -/
def tablesBad (pt : List PtEntry) (pcl span : List Nat) : Bool :=
  let v := pt.filter (·.valid)
  pt.any (·.reserved) || pcl.any (fun w => decide (2 ^ 10 ≤ w)) || v.any (fun e => e.bad pcl span) || !apart v

/-- A context's table routes n bytes from va on, whole: ranges begin at multiples of 1 GiB. -/
def routesWhole (c : Ctx) (va n : Nat) : Bool :=
  decide (n ≤ 2 ^ 56) && decide (va + n ≤ 2 ^ 64)
    && (List.range (n / 2 ^ 30 + 2)).all (fun i =>
      let a := if i = 0 then va else (va / 2 ^ 30 + i) * 2 ^ 30
      decide (va + n ≤ a) || (c.route a).isSome)

/-- What a context's own structures take (R273). -/
def ownRanges (c : Ctx) : List (Nat × Nat) :=
  [(c.grbase, c.grsize), (c.wrbase, 256 * 2 ^ c.wrlog2), (c.fraddr, 128), (c.fqaddr, 64 + 64 * 2 ^ 16), (c.qtaddr, 4096)]

/-- The CCB bytes that MEASURE hashes: the per-package fields as zero. -/
def measuredCcb (b : List Byte) : List Byte :=
  (List.range 256).map (fun i => if i = 0x19 ∨ (0x20 ≤ i ∧ i < 0x39) ∨ (0x40 ≤ i ∧ i < 0x58) then 0 else b.getD i 0)

/-- List entries that belong to a set homed on a package, in list order, a number named twice twice (log entry 138). -/
def namedHere (pkg : Nat) (pt : List PtEntry) (pcl : List Nat) : List Nat :=
  ((List.range 1024).filter (fun i =>
    pt.any (fun e => e.valid && e.home == pkg && decide (e.listbase ≤ i) && decide (i < e.listbase + e.n)))).map (fun i => pcl.getD i 0)

/-- The digest of R275. -/
def ctxDigest (c : Ctx) (tb lb : List Byte) (pt : List PtEntry) (pcl : List Nat) : List Byte :=
  sha384 (measuredCcb c.ccb ++ tb ++ lb ++ (namedHere c.pkg pt pcl).flatMap (Config.repairTables c.pkg) ++ Config.certDigest c.pkg)

/-- MEASURE. -/
def measure (s : State) : Option State :=
  onCtx s (· == .created) (fun _ c =>
    let tb := tableBytes s c.pkg c.ptaddr
    let lb := listBytes s c.pkg c.pcladdr
    let pt := placeTable tb
    let pcl := pchList lb
    let c' : Ctx := { c with pt := pt, pcl := pcl }
    if 2 ^ 3 ≤ c.keypol ∨ tablesBad pt pcl c.span = true ∨ (ownRanges c).any (fun r => !routesWhole c' r.1 r.2) = true then
      some (endCtxCmd s c.pkg c.num 3)
    else
      let d := ctxDigest c tb lb pt pcl
      some (endCtxCmd (s.mapCtx c.pkg c.num (fun c => { c with state := .measured, pt := pt, pcl := pcl, digest := d })) c.pkg c.num 0))

def execMeasure (s : State) : Host.Outcome State Fault Refusal := ifEnabled (measure s)

/-! ## ADMIT and RUN (R270, R274, R277, R279, R298, R336) -/

/-- Groups of a context on a package that are resident or saved there. -/
def ctxGroups (s : State) (pkg ctx : Nat) : List Group := s.groups.filter (fun g => g.ctx == ctx && g.pkg == pkg)

/-- Bytes of the context's largest save on a package (R336). -/
def largestSave (s : State) (pkg ctx : Nat) : Nat :=
  let gs := ctxGroups s pkg ctx
  let ids := distinctNats (gs.map (·.inst))
  let sum (l : List Nat) : Nat := l.foldl (· + ·) 0
  sum (gs.map (fun g => match s.inst? g.inst with | some k => groupRecLen k.regs | none => 0))
    + sum (ids.map (fun i =>
        match s.inst? i with
        | none => 0
        | some k =>
          let mine := gs.filter (fun g => g.inst == i)
          let here := distinctNats ((mine.filter (fun g => g.coreRec.isNone)).map (·.core))
          let saved := distinctNats (mine.filterMap (·.coreRec))
          coreRecLen k.ashrows * (here.length + saved.length) + k.csize))

/-- Most contexts resident on a package at a time. -/
def residentSlots : Nat := 256

/-- A context holds a resident slot: it is RESIDENT or RUNNING, or will be after its CLEAR (R274, R284). -/
def Ctx.resides (c : Ctx) : Bool :=
  let on (st : CtxState) : Bool := st == .resident || st == .running
  on c.state || (c.state == .faulted && on c.before)

/-- Resident slots taken on a package. -/
def residentCount (s : State) (pkg : Nat) : Nat := (s.ctxs.filter (fun c => c.pkg == pkg && c.resides)).length

/-- A command under way on a package. -/
def cmdUnderWay (s : State) (pkg op ctx : Nat) : Bool :=
  match s.pkg? pkg with
  | some p => p.ctxCmd == some { op := op, ctx := ctx }
  | none => false

/-- A command is under way. -/
def beginCmd (s : State) (pkg op ctx : Nat) : State := s.mapPkg pkg (fun p => { p with ctxCmd := some { op := op, ctx := ctx } })

/-- A command under way goes on until it can complete. -/
def settle (s : State) (pkg ctx : Nat) (done : Bool) (next : CtxState) : State :=
  if done then endCtxCmd (s.mapCtx pkg ctx (fun c => { c with state := next })) pkg ctx 0 else s

/-- The ring's requests are replayed in order of arrival (R279), as far as the first that waits at its unit; a FATAL one
faults the context. -/
def replayWings (s : State) (pkg ctx : Nat) : Nat → State
  | 0 => s
  | n + 1 =>
    match s.ctx? pkg ctx with
    | none => s
    | some c =>
      match c.wings with
      | [] => s
      | id :: t =>
        let next (s : State) : State := s.mapCtx pkg ctx (fun c => { c with wings := t, wrHead := (c.wrHead + 1) % 2 ^ c.wrlog2 })
        match s.rop? id with
        | none => replayWings (next s) pkg ctx n
        | some r => if ropHeld s r then s else replayWings (runGranule (next s) r pkg) pkg ctx n

/-- Bytes of the record that EVICT writes: the 64 slots with their images, the 64 queues, and LAST (log entry 112). -/
def keptLen (c : Ctx) : Nat := 64 * 16 + c.slots.foldl (fun n t => n + t.len) 0 + 64 * 64 + 8

/-- EVICT's record of the slots and queues (R278, R298; log entry 112). -/
def keepSlots (s : State) (c : Ctx) : Saved :=
  putRecord s c.pkg c.num (keptLen c) [] (fun r s => s.mapCtx c.pkg c.num (fun c => { c with kept := some r }))

/-- ADMIT's restore of them: a record that memory no longer holds as it was written, its page not mapped among this,
faults the context (R336; log entry 68). -/
def restoreSlots (s : State) (c : Ctx) : State :=
  match c.kept with
  | none => s
  | some r =>
    match readRecord s c.pkg c.num r with
    | .intact => s.mapCtx c.pkg c.num (fun c => { c with kept := none })
    | .altered => raiseUncorr s c.pkg c.num 0xFFFFFFFF (c.grbase + r.off)
    | .waits => s
    | .dropped home => loseRecord s r home

/-- The ring is replayed, and once it is empty the context is RESIDENT. -/
def admitReplays (s : State) (pkg ctx : Nat) : State :=
  match s.ctx? pkg ctx with
  | none => s
  | some c =>
    let s : State := replayWings s pkg ctx c.wings.length
    if cmdUnderWay s pkg 3 ctx = true ∧ (s.ctx? pkg ctx).any (·.wings.isEmpty) = true then settle s pkg ctx true .resident else s

/-- ADMIT goes on: the slots are restored, and then the ring is replayed. -/
def admitGoesOn (s : State) (pkg ctx : Nat) : State :=
  match s.ctx? pkg ctx with
  | none => s
  | some c =>
    let s : State := restoreSlots s c
    match s.ctx? pkg ctx with
    | some c => if c.kept.isNone ∧ cmdUnderWay s pkg 3 ctx = true then admitReplays s pkg ctx else s
    | none => s

/-- ADMIT: the slots are restored, and the ring is replayed before the command completes; a fault ends it with RESULT 6.  RESULT 2 is judged before RESULT 4 (log entry 113). -/
def admitContext (s : State) : Option State :=
  onCtx s (fun st => st == .keyed || st == .descheduled) (fun _ c =>
    if residentSlots ≤ residentCount s c.pkg then some (endCtxCmd s c.pkg c.num 2)
    else if c.grsize < largestSave s c.pkg c.num then some (endCtxCmd s c.pkg c.num 4)
    else some (admitGoesOn (beginCmd s c.pkg 3 c.num) c.pkg c.num))

def execAdmit (s : State) : Host.Outcome State Fault Refusal := ifEnabled (admitContext s)

/-- While a context is stopped, its queues and its launches keep the ticks they have aged (R298); the same exchange
begins and ends it. -/
def turnAges (s : State) (pkg ctx : Nat) : State :=
  let s : State := s.mapCtx pkg ctx (fun c => { c with queues := c.queues.map (fun q => { q with since := s.tick - q.since }) })
  { s with insts := s.insts.map (fun k => if k.ctx = ctx ∧ k.pkg = pkg then { k with since := s.tick - k.since } else k) }

/-- Take every queue table entry that is to be taken (R286). -/
def takeQueues (s : State) (pkg ctx : Nat) : State := (List.range 64).foldl (fun s q => (queueTake s pkg ctx q).getD s) s

/-- RUN; when the context first enters RUNNING, its queue table entries are taken. -/
def run (s : State) : Option State :=
  onCtx s (· == .resident) (fun _ c =>
    if c.grsize < largestSave s c.pkg c.num then some (endCtxCmd s c.pkg c.num 4)
    else
      let s : State := turnAges s c.pkg c.num
      some (takeQueues (endCtxCmd (s.mapCtx c.pkg c.num (fun c => { c with state := .running })) c.pkg c.num 0) c.pkg c.num))

def execRun (s : State) : Host.Outcome State Fault Refusal := ifEnabled (run s)

/-! ## STOP and EVICT (R277, R278) -/

/-- Every group of a context on a package is saved. -/
def allSaved (s : State) (pkg ctx : Nat) : Bool := (ctxGroups s pkg ctx).all (fun g => g.state == .saved)

/-- A node under way stands still: it keeps what has been read of it, and its prompter is free for other contexts'
queues (R298). -/
def pauseQueues (s : State) (pkg ctx : Nat) : State :=
  s.mapCtx pkg ctx (fun c => { c with queues := c.queues.map (fun q => if q.atNode then { q with atNode := false, kept := true } else q) })

/-- STOP: dispatch ends, and the groups are saved by their own steps (GROUP_SAVE); once the last is saved the command
completes. -/
def stop (s : State) : Option State :=
  onCtx s (· == .running) (fun _ c =>
    let s : State := beginCmd (pauseQueues (turnAges s c.pkg c.num) c.pkg c.num) c.pkg 5 c.num
    some (settle s c.pkg c.num (allSaved s c.pkg c.num) .resident))

def execStop (s : State) : Host.Outcome State Fault Refusal := ifEnabled (stop s)

/-- No engine operation of a context runs on a package. -/
def enginesDone (s : State) (pkg ctx : Nat) : Bool := !s.engs.any (fun e => e.ctx == ctx && e.pkg == pkg)

/-- EVICT completes once the slots and queues are in the green room, and the resident slot is free; while a page of it is
missing or a line pinned it waits, and where nothing is free the context faults (R277, R278). -/
def evictDone (s : State) (c : Ctx) : State :=
  match keepSlots s c with
  | .ok s => settle s c.pkg c.num true .descheduled
  | .full t pkg ctx => raiseCtxFault t pkg ctx { cause := 0x22, pkg := pkg }
  | .waits => s

/-- EVICT: it waits for the engine operations; a definition that a unit executes for the context finishes within the step
that begins it. -/
def evict (s : State) : Option State :=
  onCtx s (· == .resident) (fun _ c =>
    let s : State := beginCmd s c.pkg 6 c.num
    some (if enginesDone s c.pkg c.num then evictDone s c else s))

def execEvict (s : State) : Host.Outcome State Fault Refusal := ifEnabled (evict s)

/-- A command that is under way on a package goes on, but on a module that is unusable (R272, R423). -/
def cmdGoesOn (s : State) (p : Pkg) : State :=
  match p.ctxCmd, s.ctx? p.num ((p.ctxCmd.map (·.ctx)).getD 0) with
  | some m, some c =>
    if p.broken then s
    else
      match m.op with
      | 3 => admitGoesOn s p.num m.ctx
      | 5 => settle s p.num m.ctx (allSaved s p.num m.ctx) .resident
      | 6 => if enginesDone s p.num m.ctx then evictDone s c else s
      | _ => s
  | _, _ => s

/-! ## CLEAR and TEARDOWN (R274, R283, R284, R377, R395) -/

/-- The near-memory sessions of a context on a package end (R377); packets of its old epoch are dropped and counted
where they arrive (R283). -/
def dropSessions (s : State) (pkg ctx : Nat) : State :=
  { s with sessions := s.sessions.filter (fun n => !(n.ctx == ctx && n.pkg == pkg)) }

/-- CLEAR. -/
def clearCtx (s : State) : Option State :=
  onCtx s (· == .faulted) (fun _ c =>
    let s : State := dropSessions s c.pkg c.num
    let s : State := s.mapCtx c.pkg c.num (fun c =>
      { c with state := if c.before = .running then .resident else c.before, epoch := (c.epoch + 1) % 256 })
    some (endCtxCmd s c.pkg c.num 0))

def execClear (s : State) : Host.Outcome State Fault Refusal := ifEnabled (clearCtx s)

/-- Pages of a context homed on a package go, and every access, operation and launch or queue that waits for one there is
discarded, those of an UNMAPPED page too (R395). -/
def dropPages (s : State) (pkg ctx : Nat) : State :=
  let here (p va : Nat) : Bool := homeOf s p ctx va == pkg
  let waits (c p : Nat) (l : List LaneAcc) : Bool := c == ctx && l.any (fun a => a.parked && here p a.va)
  { s with
    loads := s.loads.filter (fun l => !waits l.ctx l.pkg l.lanes), writes := s.writes.filter (fun w => !waits w.ctx w.pkg w.lanes)
    steps := s.steps.filter (fun t => !(t.ctx == ctx && t.parked.any (fun l => here t.pkg (vaFull (128 * l)))))
    engs := s.engs.filter (fun e => !(e.ctx == ctx && e.parked.any (here e.pkg)))
    pageWaits := s.pageWaits.filter (fun w => !(w.ctx == ctx && here w.pkg (vaFull w.va)))
    pages := s.pages.filter (fun p => !(p.ctx == ctx && p.pkg == pkg))
    guests := s.guests.filter (fun g => !(g.ctx == ctx && g.pkg == pkg)) }

/-- The number is free; the epoch stays for its next context. -/
def Ctx.tornDown (c : Ctx) : Ctx :=
  { c with state := .tornDown, epoch := (c.epoch + 1) % 256, key := [], xfer := [], iv := [], last := 0
           slots := c.slots.map (fun t => { gen := t.gen }), queues := [], wings := [], wrHead := 0, fqWait := [], fqPut := none, kept := none, peer := none }

/-- TEARDOWN. -/
def teardown (s : State) : Option State :=
  onCtx s (· != .tornDown) (fun _ c =>
    let s : State := dropPages (dropSessions (discardWork s c.pkg c.num) c.pkg c.num) c.pkg c.num
    some (endCtxCmd (s.mapCtx c.pkg c.num Ctx.tornDown) c.pkg c.num 0))

def execTeardown (s : State) : Host.Outcome State Fault Refusal := ifEnabled (teardown s)

/-! ## Faults (R23, R280 to R283, R421) -/

/-- CONTEXT_FAULT: an uncorrectable error in the context's state, or in an array that all contexts share.  An error of its
data in memory is met by the access that reads it, and poisons what that reads (R23). -/
def contextFault (s : State) (pkg ctx : Nat) (up : Upset) : Option State :=
  match s.ctx? pkg ctx with
  | none => none
  | some c =>
    if c.canFault = false then none
    else
      match up with
      | .none | .correctable | .correctableL2 | .hbmUnit | .l2Dirty => none
      | .sharedArray => some (deviceFault s pkg)
      | .coreArray | .translation => some (raiseUncorr s pkg ctx 0xFFFFFFFF 0)

def execContextFault (pkg ctx : Nat) (up : Upset) (s : State) : Host.Outcome State Fault Refusal := ifEnabled (contextFault s pkg ctx up)

/-- PEER: a fault of another package of the span reaches this one. -/
def peerFault (s : State) : Option State :=
  let pkg := s.focus.1
  let ctx := s.focus.2
  match s.ctx? pkg ctx with
  | none => none
  | some c =>
    match c.peer with
    | none => none
    | some (raiser, t) => some ((enterFaulted s pkg ctx { cause := 0x23, pkg := raiser, tick := t }).mapCtx pkg ctx (fun c => { c with peer := none }))

def execPeer (s : State) : Host.Outcome State Fault Refusal := ifEnabled (peerFault s)

/-- Ticks after which waiting traffic to an unreachable package is given up. -/
def unreachTicks : Nat := 2 ^ 17

/-- The tick since which a package has no way to another one. -/
def unreachSince (p : Pkg) (n : Nat) : Nat := ((p.unreach.find? (fun x => x.1 == n)).map (·.2)).getD 0

/-- The homes of some lanes' addresses. -/
def bound (s : State) (pkg ctx : Nat) (ls : List LaneAcc) (target : Nat) : Bool :=
  ls.any (fun a => match routeOf s pkg ctx a.va with | some e => e.home == target && !a.performed | none => false)

/-- A response to a package for some lanes waits at a home of theirs. -/
def answerWaits (s : State) (target ctx home : Nat) (ls : List LaneAcc) : Bool :=
  ls.any (fun a => a.performed && !a.near && homeOf s target ctx a.va == home)

/-- What waits on a package for its way to another is dropped: requests and writes of the device's own that go there, and
responses of its homes to what was issued there. -/
def dropBound (s : State) (pkg target : Nat) : State :=
  let out (p ctx : Nat) (ls : List LaneAcc) : Bool := (p == pkg && bound s pkg ctx ls target) || (p == target && answerWaits s target ctx pkg ls)
  let l := s.loads.filter (fun l => out l.pkg l.ctx l.lanes)
  let w := s.writes.filter (fun w => out w.pkg w.ctx w.lanes)
  let r := s.rops.filter (fun r =>
    (r.pkg == pkg && r.phase == .sent && ropHome s r == target) || (r.phase == .acked && r.home == pkg && r.issuers.any (fun i => i.pkg == target)))
  let h := s.heldWrites.filter (fun w => w.pkg == pkg && homeOf s pkg w.ctx w.va == target)
  let s' : State := s.mapPkg pkg (fun p => { p with dropped := p.dropped + l.length + w.length + r.length + h.length })
  { s' with loads := s.loads.filter (fun x => !l.any (fun y => y.id == x.id))
            writes := s.writes.filter (fun x => !w.any (fun y => y.id == x.id))
            rops := s.rops.filterMap (fun x =>
              if r.any (fun y => y.id == x.id) then
                (if x.phase = .acked ∧ x.issuers.any (fun i => i.pkg != target) = true then
                  some { x with issuers := x.issuers.filter (fun i => i.pkg != target) } else none)
              else some x)
            heldWrites := s.heldWrites.filter (fun x => !h.contains x) }

/-- PACKAGE_UNREACHABLE: every context of the package whose span holds the target faults, here now and on the rest of
its span, but for the target, as PEER faults reach them. -/
def packageUnreachable (s : State) (pkg target : Nat) : Option State :=
  match s.pkg? pkg with
  | none => none
  | some p =>
    if routeUp s pkg target = true ∨ s.tick < unreachSince p target + unreachTicks then none
    else
      let cs := s.ctxs.filter (fun c => c.pkg == pkg && c.span.contains target && c.canFault)
      let s : State := dropBound s pkg target
      some (cs.foldl (fun s c =>
        let s : State := enterFaulted s pkg c.num { cause := 0x23, pkg := target, tick := homeNow s pkg }
        { s with ctxs := s.ctxs.map (fun d =>
            if d.num = c.num ∧ d.pkg ≠ pkg ∧ d.pkg ≠ target ∧ c.span.contains d.pkg ∧ d.canFault = true ∧ d.peer = none then
              { d with peer := some (target, homeNow s pkg) } else d) }) s)

def execPackageUnreachable (pkg target : Nat) (s : State) : Host.Outcome State Fault Refusal := ifEnabled (packageUnreachable s pkg target)

/-! ## GET_CTXMEAS and KEY (R276, R408, R416) -/

/-- Something the module answers to its host. -/
def answer (s : State) (pkg : Nat) (o : HostOut) : State := s.mapPkg pkg (fun p => { p with out := p.out ++ [o] })

/-- The answer to GET_CTXMEAS, signed. -/
def ctxMeasBytes (c : Option Ctx) (pkg ctx : Nat) (nonce : List Byte) : List Byte :=
  let st := match c with | some c => c.state.code | none => 0
  let d := match c with | some c => c.digest | none => []
  let m := toLE 4 ctx ++ toLE 4 st ++ d ++ nonce
  m ++ Config.sign pkg m

/-- GET_CTXMEAS: answered inside the secured session, for a nonce of 32 bytes. -/
def getCtxmeas (s : State) (pkg ctx : Nat) (nonce : List Byte) : Option State :=
  match s.pkg? pkg with
  | none => none
  | some p =>
    if p.rate = 0 ∨ p.broken = true then none
    else if p.sess = false ∨ nonce.length ≠ 32 then some (answer s pkg .error)
    else some (answer s pkg (.bytes (ctxMeasBytes (s.ctx? pkg ctx) pkg ctx nonce)))

def execGetCtxmeas (pkg ctx : Nat) (nonce : List Byte) (s : State) : Host.Outcome State Fault Refusal := ifEnabled (getCtxmeas s pkg ctx nonce)

/-- KEYPOL.XFER. -/
def Ctx.xferOn (c : Ctx) : Bool := c.keypol % 2 == 1

/-- A KEY message that the device accepts. -/
def keyGood (p : Pkg) (c : Ctx) (digest key xfer iv : List Byte) : Bool :=
  p.sess && (p.tdisp == .locked || p.tdisp == .run) && c.state == .measured && decide (digest = c.digest) && key.length == 64
    && (if c.xferOn then xfer.length == 32 && iv.length == 4 else true)

/-- KEY. -/
def keyMsg (s : State) (pkg ctx : Nat) (digest key xfer iv : List Byte) : Option State :=
  match s.pkg? pkg with
  | none => none
  | some p =>
    if p.rate = 0 ∨ p.broken = true then none
    else
      match s.ctx? pkg ctx with
      | none => some (answer s pkg .error)
      | some c =>
        if keyGood p c digest key xfer iv then
          some (answer (s.mapCtx pkg ctx (fun c =>
            { c with state := .keyed, key := key, xfer := if c.xferOn then xfer else [], iv := if c.xferOn then iv else [], last := 0 })) pkg .ok)
        else some (answer s pkg .error)

def execKey (pkg ctx : Nat) (digest key xfer iv : List Byte) (s : State) : Host.Outcome State Fault Refusal :=
  ifEnabled (keyMsg s pkg ctx digest key xfer iv)

end Sys2Proof.Machine
end

