-- ==== Sys2Proof/Machine/PageEvents.lean ====
section
/-! DEFINITION. Pages: the commands of PG_CMD (R392 to R397, R401, R402), migration (R403, R404), and the posting of fault records (R399). -/

namespace Sys2Proof.Machine

open Sys2Proof

/-! ## PG_CMD and its block (R397, R424) -/

/-- A command ends with a RESULT. -/
def endPgCmd (s : State) (pkg result : Nat) : State := s.mapPkg pkg (fun p => { p with pgCmd := none, pgResult := result })

/-- A write of PG_CMD: dropped while a command runs, RESULT 1 before READY. -/
def pgCommand (s : State) (pkg : Nat) (body : Pkg → Option State) : Option State :=
  match s.pkg? pkg with
  | none => none
  | some p =>
    if mgmtOn p = false then none
    else if p.pgCmd.isSome then some (s.mapPkg pkg (fun p => { p with pgDrop := true }))
    else if p.ready = false then some (endPgCmd s pkg 1)
    else body p

/-- PG_CMD_BAD: an OP that R397 does not assign. -/
def pgCmdBad (s : State) (pkg op : Nat) : Option State :=
  if op % 16 = 0 ∨ 5 < op % 16 then pgCommand s pkg (fun _ => some (endPgCmd s pkg 5)) else none

def execPgCmdBad (pkg op : Nat) (s : State) : Host.Outcome State Fault Refusal := ifEnabled (pgCmdBad s pkg op)

/-- A page command block. -/
structure PgBlock where
  ctx : Nat
  count : Nat
  va : Nat
  list : Nat
  deriving DecidableEq, Repr

/-- The block's own checks: a nonzero reserved field, COUNT, VA. -/
def pgBlockBad (b : List Byte) : Bool :=
  decide (2 ^ 11 ≤ leAt b 0 4) || decide (2 ^ 10 ≤ leAt b 4 4) || ((b.drop 0x18).take 40).any (· != 0)
    || leAt b 4 4 == 0 || decide (512 < leAt b 4 4) || leAt b 8 8 % 2 ^ 21 != 0

def pgBlock (b : List Byte) : PgBlock := { ctx := leAt b 0 4, count := leAt b 4 4, va := leAt b 8 8, list := leAt b 0x10 8 }

/-- The pages of a block, as addresses of their first bytes within 56 bits. -/
def PgBlock.pages (b : PgBlock) : List Nat := (List.range b.count).map (fun i => pageVa b.va + 2 ^ 21 * i)

/-- The pages run past the end of the range that holds the first. -/
def PgBlock.pastEnd (b : PgBlock) (e : PtEntry) : Bool := decide (e.hi < va56 b.va + 2 ^ 21 * b.count)

/-- MAP and MIGRATE name frames. -/
def pgLists (op : Nat) : Bool := op == 1 || op == 3

/-- LIST is refused by itself: misaligned where frames are named, nonzero elsewhere. -/
def listBad (op : Nat) (b : PgBlock) : Bool := if pgLists op then b.list % 4 != 0 else b.list != 0

/-- The words of LIST do not lie in the host pool. -/
def listOutside (s : State) (pkg op : Nat) (b : PgBlock) (n : Nat) : Bool :=
  pgLists op && !rangeInHostPool s pkg b.list (4 * b.count * n)

/-- The frames that a block names, by page and list entry. -/
def listFrames (s : State) (pkg : Nat) (b : PgBlock) (n : Nat) : List (List Nat) :=
  (List.range b.count).map (fun p => (List.range n).map (fun j => leNat (readPool s pkg (b.list + 4 * (p * n + j)) 4)))

/-- State of a page. -/
def pageState (s : State) (ctx pkg va : Nat) : PageState :=
  match s.page? ctx pkg va with
  | some p => p.state
  | none => .unmapped

/-- A state in which a command acts on a page (R395). -/
def pgState (op : Nat) (st : PageState) : Bool :=
  match op, st with
  | 1, .unmapped => true
  | 2, .mapped | 2, .retired => true
  | 3, .mapped | 3, .poisoned => true
  | 4, .mapped | 4, .poisoned => true
  | 5, .unmapped | 5, .retired => true
  | _, _ => false

/-- The pseudo-channel of list entry j of a range. -/
def framePch (c : Ctx) (e : PtEntry) (j : Nat) : Nat := c.pcl.getD (e.listbase + j) 0

/-- The 4 KiB units of a frame. -/
def unitsOf (f n : Nat) : List Nat := (List.range (512 / n)).map (f + ·)

/-- Units of a pseudo-channel that CCBs of live contexts take (R412). -/
def ccbUnits (s : State) (pkg pch : Nat) : List Nat :=
  (s.ctxs.filter (fun c => c.pkg == pkg && c.state != .tornDown && c.ccbAddr / 2 ^ 30 == pch)).map (fun c => c.ccbAddr % 2 ^ 30 / 4096)

/-- The state without a page of a context homed on a package. -/
def withoutPage (s : State) (ctx pkg va : Nat) : State := { s with pages := s.pages.filter (fun q => !(q.ctx == ctx && q.pkg == pkg && q.va == va)) }

/-- A frame for a page of a context breaks R393, or is withdrawn, or another page holds it or is migrating to it. -/
def frameBad (s : State) (p : Pkg) (ctx va pch f n : Nat) : Bool :=
  f % (512 / n) != 0 || decide (p.frames < f + 512 / n)
    || (frameRuns (withoutPage s ctx p.num va) p.num pch).any (runsMeet (f, 512 / n))
    || p.withdrawn.any (fun x => x.1 == pch && runsMeet (f, 512 / n) (x.2, 1))
    || (ccbUnits s p.num pch).any (fun u => runsMeet (f, 512 / n) (u, 1))

/-- RESULT 3, for the frames that a block names for some pages. -/
def framesBad (s : State) (p : Pkg) (c : Ctx) (e : PtEntry) (vas : List Nat) (fs : List (List Nat)) : Bool :=
  let named (l : List Nat) : List (Nat × Nat) := (List.range l.length).map (fun j => (framePch c e j, l.getD j 0))
  (vas.zip fs).any (fun x => (named x.2).any (fun y => frameBad s p c.num x.1 y.1 y.2 e.n)) || decide (¬ (fs.flatMap named).Nodup)

/-- What a command acts on once its checks have passed. -/
structure PgWork where
  c : Ctx
  e : PtEntry
  pages : List (Nat × List Nat)    -- address and new frames
  deriving DecidableEq, Repr

/-- The checks of R397 in their order: a RESULT, or the work. -/
def pgCheck (s : State) (p : Pkg) (op : Nat) : Nat ⊕ PgWork :=
  if p.pgArg % 64 ≠ 0 ∨ rangeInHostPool s p.num p.pgArg 64 = false then .inl 4
  else
    let bs := readPool s p.num p.pgArg 64
    let b := pgBlock bs
    if pgBlockBad bs = true ∨ listBad op b = true then .inl 4
    else
      match (s.ctx? p.num b.ctx).bind (fun c => if c.state = .tornDown then none else (c.route b.va).map (fun e => (c, e))) with
      | none => .inl 2
      | some (c, e) =>
        if b.pastEnd e = true ∨ listOutside s p.num op b e.n = true then .inl 4
        else if e.home ≠ p.num then .inl 2
        else if b.pages.any (fun va => !pgState op (pageState s c.num p.num va)) then .inl 1
        else
          let fs := if pgLists op then listFrames s p.num b e.n else []
          if framesBad s p c e b.pages fs then .inl 3
          else .inr { c := c, e := e, pages := (List.range b.count).map (fun i => (pageVa b.va + 2 ^ 21 * i, fs.getD i [])) }

/-- A lease on a line of a page has not expired: the command completes after it (R394). -/
def pageLeased (s : State) (pkg ctx va : Nat) : Bool :=
  s.leases.any (fun x => x.1 == ctx && pageVa (128 * x.2.1) == va && decide (homeNow s pkg < x.2.2))

/-- No lease holds one of a command's pages. -/
def unleased (w : PgWork) (s : State) : Bool := w.pages.all (fun p => !pageLeased s w.c.pkg w.c.num p.1)

/-- A page command: its checks, then its work on each of its pages at one tick. -/
def pgWork (s : State) (op : Nat) (body : PgWork → State → State) : Option State :=
  let pkg := s.focus.1
  pgCommand s pkg (fun p =>
    match pgCheck s p op with
    | .inl r => some (endPgCmd s pkg r)
    | .inr w => some (endPgCmd (body w s) pkg 0))

/-- The work of a command that waits; none where its context is gone. -/
def cmdWork (s : State) (pkg : Nat) (m : PgCmd) : Option PgWork :=
  match s.ctx? pkg m.ctx with
  | none => none
  | some c => (c.route (vaFull (m.pages.headD 0))).map (fun e => { c := c, e := e, pages := m.pages.map (fun va => (va, [])) })

/-- The command that waits on a package has nothing left to wait for: its operation and its work; on a module that is
unusable it waits on (R423). -/
def waitOver (s : State) (p : Pkg) : Option (Nat × PgWork) :=
  match p.pgCmd with
  | none => none
  | some m => if p.broken then none else (cmdWork s p.num m).bind (fun w => if unleased w s then some (m.op, w) else none)

/-- A page command that waits, BUSY, until no lease holds one of its pages (R394), and then does its work at one tick. -/
def pgWait (s : State) (op : Nat) (body : PgWork → State → State) : Option State :=
  let pkg := s.focus.1
  pgCommand s pkg (fun p =>
    match pgCheck s p op with
    | .inl r => some (endPgCmd s pkg r)
    | .inr w =>
      if unleased w s then some (endPgCmd (body w s) pkg 0)
      else some (s.mapPkg pkg (fun p => { p with pgCmd := some { op := op, ctx := w.c.num, pages := w.pages.map (·.1) } })))

/-- Replace a page's entry. -/
def setPage (s : State) (p : Page) : State :=
  { s with pages := p :: s.pages.filter (fun q => !(q.ctx == p.ctx && q.pkg == p.pkg && q.va == p.va)) }

/-! ## Waiters (R400 to R402) -/

/-- An address lies on a page. -/
def on (va a : Nat) : Bool := pageVa a == va

/-- A page is MAPPED: every access parked on it replays (R401), jump tables' fetches by their JMPT issuing again; waits of
operations, launches and queues for it are over. -/
def replay (s : State) (ctx va : Nat) : State :=
  let free (a : LaneAcc) : LaneAcc := if a.parked && !a.failed && on va a.va then { a with parked := false, replay := true, atIssue := [] } else a
  let mine (c : Nat) (ls : List LaneAcc) : Bool := c == ctx && ls.any (fun a => a.parked && on va a.va)
  let gids := distinctNats ((s.loads.filter (fun l => mine l.ctx l.lanes)).map (·.gid) ++ (s.writes.filter (fun w => mine w.ctx w.lanes)).map (·.gid))
  let s : State := { s with
    loads := (s.loads.filter (fun l => !(l.kind == 8 && mine l.ctx l.lanes))).map (fun l => if l.ctx = ctx then { l with lanes := l.lanes.map free } else l)
    writes := s.writes.map (fun w => if w.ctx = ctx then { w with lanes := w.lanes.map free } else w)
    steps := s.steps.map (fun t => if t.ctx = ctx then { t with parked := t.parked.filter (fun l => !on va (128 * l)) } else t)
    engs := s.engs.map (fun e => if e.ctx = ctx then { e with parked := e.parked.filter (fun a => !on va a) } else e)
    pageWaits := s.pageWaits.filter (fun w => !(w.ctx == ctx && w.va == va && !w.denied && !w.lost)) }
  gids.foldl unpark s

/-- A lane that waits parked on a page. -/
def LaneAcc.parkedOn (a : LaneAcc) (va : Nat) : Bool := a.parked && !a.failed && on va a.va

/-- DENY ends the lanes that are parked on a page; the others of their access go on. -/
def denyLanes (va : Nat) (ls : List LaneAcc) : List LaneAcc :=
  ls.map (fun a => if a.parkedOn va then { a with parked := false, failed := true } else a)

/-- The trap of a denied access, at its lowest faulting lane; a split traps once, for the first of its accesses. -/
def trapDenied (acc : State × List (Nat × Nat)) (gid sp : Nat) (bad : List LaneAcc) (place : TrapAt) : State × List (Nat × Nat) :=
  if acc.2.contains (gid, sp) then acc
  else
    match lowestLane bad with
    | some (lane, va) => (denyTrap acc.1 gid sp lane va place, (gid, sp) :: acc.2)
    | none => acc

/-- A denied access ends here where nothing more of it is under way, and its group goes on. -/
def endDeny (acc : State × List (Nat × Nat)) (gid id : Nat) : State × List (Nat × Nat) :=
  (unpark ((loadDeliver acc.1 id).getD acc.1) gid, acc.2)

/-- One parked load that DENY ends in some lanes, and the splits that have trapped so far; in an open FENCES window the trap
comes with its close, and an access traps once. -/
def denyLoad (va : Nat) (acc : State × List (Nat × Nat)) (l : Load) : State × List (Nat × Nat) :=
  let bad := l.lanes.filter (·.parkedOn va)
  let sp := issuingSplit acc.1 l.gid l.holders bad
  let inWindow := l.windowed && (((acc.1.group? l.gid).bind (fun g => g.split? sp)).bind (·.window)).isSome
  let acc := (acc.1.mapLoad l.id (fun l => { l with lanes := denyLanes va l.lanes }), acc.2)
  endDeny (if inWindow || anyFailed l.lanes then acc else trapDenied acc l.gid sp bad l.place) l.gid l.id

/-- The same of a write: its other lanes keep what they did, and go on. -/
def denyWrite (va : Nat) (acc : State × List (Nat × Nat)) (w : Write) : State × List (Nat × Nat) :=
  let bad := w.lanes.filter (·.parkedOn va)
  let sp := issuingSplit acc.1 w.gid w.holders bad
  let acc := (acc.1.mapWrite w.id (fun w => { w with lanes := denyLanes va w.lanes }), acc.2)
  endDeny (if anyFailed w.lanes then acc else trapDenied acc w.gid sp bad w.place) w.gid w.id

/-- The accesses parked on a page, by the order of their issue. -/
def parkedOn (s : State) (ctx va : Nat) : List (Nat × (Load ⊕ Write)) :=
  let hit (c : Nat) (ls : List LaneAcc) : Bool := c == ctx && ls.any (·.parkedOn va)
  let ls : List (Nat × (Load ⊕ Write)) := (s.loads.filter (fun l => hit l.ctx l.lanes)).map (fun l => (l.id, Sum.inl l))
  let ws : List (Nat × (Load ⊕ Write)) := (s.writes.filter (fun w => hit w.ctx w.lanes)).map (fun w => (w.id, Sum.inr w))
  (ls ++ ws).mergeSort (fun a b => decide (a.1 ≤ b.1))

/-- A matrix step or engine operation that waits there faults its context; a COPY node's copy drains its queue. -/
def denyOps (s : State) (ctx va : Nat) : State :=
  let st := s.steps.find? (fun t => t.ctx == ctx && t.parked.any (fun l => on va (128 * l)))
  let en := s.engs.filter (fun e => e.ctx == ctx && e.parked.any (on va))
  let fault (pkg core a : Nat) (s : State) : State := raiseCtxFault s pkg ctx { cause := cADDR, pkg := pkg, core := core, addr := a }
  let s : State := match st with
    | some t => fault t.pkg t.core (vaFull (128 * ((t.parked.find? (fun l => on va (128 * l))).getD 0))) s
    | none => s
  en.foldl (fun s e =>
    match e.kind with
    | .nodeCopy _ _ _ q node => failNode (s.dropEng e.id) e.pkg ctx q e.id node 2
    | _ => fault e.pkg e.core ((e.parked.find? (on va)).getD 0) s) s

/-- DENY on one page, with the splits that the command has trapped so far (R402, R447). -/
def denyPage (ctx : Nat) (acc : State × List (Nat × Nat)) (va : Nat) : State × List (Nat × Nat) :=
  let acc := (parkedOn acc.1 ctx va).foldl (fun acc x =>
    match x.2 with
    | .inl l => denyLoad va acc l
    | .inr w => denyWrite va acc w) acc
  let s : State := denyOps acc.1 ctx va
  ({ s with pageWaits := s.pageWaits.map (fun w => if w.ctx = ctx ∧ w.va = va ∧ w.lost = false then { w with denied := true } else w) }, acc.2)

/-! ## MAP, UNMAP, RETIRE, DENY (R395) -/

/-- Error counts of a page's frames start afresh (R24). -/
def clearCounts (s : State) (pkg : Nat) (c : Ctx) (e : PtEntry) (fs : List Nat) : State :=
  let hit (u : Nat) : Bool := (List.range e.n).any (fun j =>
    let lo := physKey pkg (framePch c e j) (4096 * fs.getD j 0)
    decide (lo ≤ 32 * u) && decide (32 * u < lo + 2 ^ 21 / e.n))
  { s with eccCount := s.eccCount.filter (fun x => !hit x.1) }

/-- MAP. -/
def mapPages (w : PgWork) (s : State) : State :=
  w.pages.foldl (fun s p =>
    let s : State := clearCounts s w.c.pkg w.c w.e p.2
    replay (setPage s { ctx := w.c.num, pkg := w.c.pkg, va := p.1, state := .mapped, frames := p.2, newFrames := [], since := 0, bad := none })
      w.c.num p.1) s

def execMap (s : State) : Host.Outcome State Fault Refusal := ifEnabled (pgWork s 1 mapPages)

/-- UNMAP. -/
def unmapPages (w : PgWork) (s : State) : State :=
  { s with pages := s.pages.filter (fun q => !(q.ctx == w.c.num && q.pkg == w.c.pkg && w.pages.any (fun p => p.1 == q.va)))
           guests := s.guests.filter (fun g => !(g.ctx == w.c.num && w.pages.any (fun p => on p.1 (128 * g.line)))) }

def execUnmap (s : State) : Host.Outcome State Fault Refusal := ifEnabled (pgWait s 2 unmapPages)

/-- A frame is withdrawn (R396). -/
def withdraw (s : State) (pkg : Nat) (c : Ctx) (e : PtEntry) (fs : List Nat) (j : Nat) : State :=
  s.mapPkg pkg (fun p => { p with withdrawn := p.withdrawn ++ (unitsOf (fs.getD j 0) e.n).map (fun u => (framePch c e j, u)) })

/-- RETIRE. -/
def retirePages (w : PgWork) (s : State) : State :=
  w.pages.foldl (fun s p =>
    match s.page? w.c.num w.c.pkg p.1 with
    | none => s
    | some q =>
      let s : State := (List.range w.e.n).foldl (fun s j => withdraw s w.c.pkg w.c w.e q.frames j) s
      setPage { s with guests := s.guests.filter (fun g => !(g.ctx == w.c.num && on p.1 (128 * g.line))) }
        { q with state := .retired, frames := [], newFrames := [], bad := none }) s

def execRetire (s : State) : Host.Outcome State Fault Refusal := ifEnabled (pgWait s 4 retirePages)

/-- A page command that waits does its work once no lease holds one of its pages. -/
def pageGoesOn (s : State) (p : Pkg) : State :=
  match waitOver s p with
  | some (2, w) => endPgCmd (unmapPages w s) p.num 0
  | some (4, w) => endPgCmd (retirePages w s) p.num 0
  | _ => s

/-- The commands that are under way go on of themselves (R272, R394). -/
def settleCmds (s : State) : State :=
  s.pkgs.foldl (fun s p =>
    let s : State := if p.ctxCmd.isSome then cmdGoesOn s p else s
    if p.pgCmd.isSome then pageGoesOn s p else s) s

/-- DENY. -/
def denyPages (w : PgWork) (s : State) : State := ((w.pages.map (·.1)).foldl (denyPage w.c.num) (s, [])).1

def execDeny (s : State) : Host.Outcome State Fault Refusal := ifEnabled (pgWork s 5 denyPages)

/-! ## MIGRATE and MIGRATION_SWITCH (R403, R404) -/

/-- MIGRATE: the copies are made until the switch, and no access can tell them from the old frames. -/
def migratePages (w : PgWork) (s : State) : State :=
  w.pages.foldl (fun s p =>
    match s.page? w.c.num w.c.pkg p.1 with
    | none => s
    | some q => setPage s { q with state := .migrating, newFrames := p.2, since := s.tick }) s

def execMigrate (s : State) : Host.Outcome State Fault Refusal := ifEnabled (pgWork s 3 migratePages)

/-- A number of one run of n from a moved to the run from b. -/
def shifted (a b n x : Nat) : Option Nat := if a ≤ x ∧ x < a + n then some (b + (x - a)) else none

/-- A number outside the run of n from b. -/
def outside (b n x : Nat) : Bool := decide (x < b) || decide (b + n ≤ x)

/-- n bytes at physical a copied to b, with their ciphertext's keys and tweaks and their poison; both are aligned to a
line. -/
def copyFrame (s : State) (a b n : Nat) : State :=
  let cells := s.mem.filterMap (fun c => (shifted a b n c.1).map (fun x => (x, c.2)))
  let seals := s.seals.filterMap (fun x => (shifted (a / 128) (b / 128) (n / 128) x.1).map (fun l => (l, x.2)))
  let poison := s.poison.filterMap (shifted (a / 32) (b / 32) (n / 32))
  { s with
    mem := cells.foldl (fun m c => Memory.write m c.1 c.2) (s.mem.filter (fun c => outside b n c.1))
    seals := seals ++ s.seals.filter (fun x => outside (b / 128) (n / 128) x.1)
    poison := poison ++ s.poison.filter (outside (b / 32) (n / 32)) }

/-- Copy every frame of a page to its new one. -/
def copyFrames (s : State) (pkg : Nat) (c : Ctx) (e : PtEntry) (p : Page) : State :=
  (List.range e.n).foldl (fun s j =>
    let k (f : Nat) : Nat := physKey pkg (framePch c e j) (4096 * f)
    copyFrame s (k (p.frames.getD j 0)) (k (p.newFrames.getD j 0)) (2 ^ 21 / e.n)) s

/-- Held requests start in their order of arrival, each as far as nothing else holds it (R404). -/
def startHeld (s : State) : State :=
  s.cuu.foldl (fun s q =>
    (match q with
     | .rop id => ropGranule s id
     | .nm id => nmExecute s id
     | .eng id =>
       match s.eng? id with
       | some e => (match e.kind with | .rowpub _ _ _ => performEngWrite s id (unitNo 0 0) .none | _ => redgoExecute s id)
       | none => none).getD s) s

/-- MIGRATION_SWITCH: the entries switch, and what its units have held starts.  The frame that took the page to POISONED is
withdrawn, but where it is the new one too. -/
def migrationSwitch (s : State) (pkg ctx va : Nat) : Option State :=
  match s.page? ctx pkg va, s.ctx? pkg ctx with
  | some p, some c =>
    match c.route (vaFull va) with
    | none => none
    | some e =>
      if p.state ≠ .migrating ∨ s.tick < p.since + switchTicks ∨ pageLeased s pkg ctx va = true then none
      else
        let s : State := clearCounts (copyFrames s pkg c e p) pkg c e p.newFrames
        let s : State := match p.bad with
          | some j => if p.newFrames.getD j 0 = p.frames.getD j 0 then s else withdraw s pkg c e p.frames j
          | none => s
        some (startHeld (setPage s { p with state := .mapped, frames := p.newFrames, newFrames := [], bad := none }))
  | _, _ => none

def execMigrationSwitch (pkg ctx va : Nat) (s : State) : Host.Outcome State Fault Refusal := ifEnabled (migrationSwitch s pkg ctx va)

/-! ## FAULT_RECORD_POST (R399) -/

/-- The 64 bytes of a record. -/
def recordBytes (r : FaultRec) : List Byte :=
  toLE 4 (r.kind + 2 ^ 4 * r.cause + 2 ^ 7 * (if r.noreplay then 1 else 0)) ++ toLE 4 r.gid.toNat ++ toLE 8 r.addr ++ toLE 4 r.pch ++ toLE 4 0
    ++ toLE 12 r.lanes.toNat ++ toLE 4 0 ++ toLE 8 r.tick ++ List.replicate 16 0

/-- The header of a fault queue: LOG2, IRQEN, VEC, PUT and GET, where it is good. -/
structure FqHdr where
  log2 : Nat
  irqen : Bool
  vec : Nat
  put : Nat
  get : Nat
  deriving DecidableEq, Repr

def fqHdr (b : List Byte) : Option FqHdr :=
  let w := leAt b 0 4
  let h : FqHdr := { log2 := w % 32, irqen := w / 32 % 2 == 1, vec := w / 64 % 64, put := leAt b 4 4, get := leAt b 8 4 }
  if h.log2 < 4 ∨ 16 < h.log2 ∨ 2 ^ 12 ≤ w ∨ ((b.drop 12).take 52).any (· != 0) = true
      ∨ 2 ^ h.log2 < (h.put + 2 ^ 32 - h.get) % 2 ^ 32 then none
  else some h

/-- A range of the fault queue that the device can write now: its page is MAPPED or POISONED, and no line of it is
pinned (R168). -/
def fqReach (s : State) (c : Ctx) (va n : Nat) : Bool :=
  spanStands s c.pkg c.num va n && linkedNow s c.pkg c.num va && linkedNow s c.pkg c.num (va + n - 1) && !spanHeld s c.pkg c.num va n

/-- The header of a context's fault queue as memory holds it, where it is reachable and good. -/
def goodHdr (s : State) (c : Ctx) : Option FqHdr :=
  if fqReach s c c.fqaddr 64 then fqHdr (readUnits16 s c.pkg c.num c.fqaddr 64).1 else none

/-- Home time from which PUT may be written, as a release at SYSTEM, after a record at va (R158, R399). -/
def putTime (s : State) (c : Ctx) (va : Nat) : Nat := writeCt s c.pkg (homeOf s c.pkg c.num va) c.num (lineOf va) + skewOf 7

/-- The oldest record that waits is written to its slot, where the queue has room. -/
def postRecord (s : State) (c : Ctx) (h : FqHdr) (r : FaultRec) : Option State :=
  let slot := c.fqaddr + 64 + 64 * (h.put % 2 ^ h.log2)
  if (h.put + 2 ^ 32 - h.get) % 2 ^ 32 = 2 ^ h.log2 ∨ fqReach s c slot 64 = false then none
  else
    let t := putTime s c slot
    some ((writeSpan s c.pkg c.num slot (recordBytes r)).mapCtx c.pkg c.num (fun c => { c with fqPut := some t }))

/-- PUT follows once the record's write has completed at SYSTEM, and then the interrupt. -/
def postPut (s : State) (c : Ctx) (h : FqHdr) (t : Nat) : Option State :=
  if homeNow s c.pkg < t then none
  else
    let s : State := writeSpan s c.pkg c.num (c.fqaddr + 4) (toLE 4 ((h.put + 1) % 2 ^ 32))
    let s : State := if h.irqen then s.mapPkg c.pkg (fun p => { p with irqs := p.irqs ++ [h.vec] }) else s
    some (s.mapCtx c.pkg c.num (fun c => { c with fqWait := c.fqWait.drop 1, fqPut := none }))

/-- FAULT_RECORD_POST: the oldest record that waits, and then PUT. -/
def recordPost (s : State) : Option State :=
  match s.ctx? s.focus.1 s.focus.2 with
  | none => none
  | some c =>
    match c.fqWait, goodHdr s c, c.fqPut with
    | r :: _, some h, none => postRecord s c h r
    | _ :: _, some h, some t => postPut s c h t
    | _, _, _ => none

def execFaultRecordPost (s : State) : Host.Outcome State Fault Refusal := ifEnabled (recordPost s)

end Sys2Proof.Machine
end

