-- ==== Sys2Proof/Machine/LinkEvents.lean ====
section
/-! DEFINITION. The links: SPDM and TDISP (R407 to R409), host accesses through the windows (R412, R413), and Clekai ports (R418 to R421). -/

namespace Sys2Proof.Machine

open Sys2Proof

/-! ## SPDM (R409) -/

/-- A request over DOE reaches the responder while the PCIe link is up and the module is usable; its answer. -/
def doe (s : State) (pkg : Nat) (body : Pkg → State) : Option State :=
  match s.pkg? pkg with
  | some p => if p.rate = 0 ∨ p.broken = true then none else some (body p)
  | none => none

/-- How far a requester has come: VERSION, CAPABILITIES, ALGORITHMS. -/
def SpdmStage.num : SpdmStage → Nat
  | .start => 0
  | .version => 1
  | .capabilities => 2
  | .algorithms => 3

def getVersion (s : State) : Option State :=
  doe s s.focus.1 (fun p => answer (s.mapPkg p.num (fun p => { p with spdm := .version })) p.num .ok)
def execGetVersion (s : State) : Host.Outcome State Fault Refusal := ifEnabled (getVersion s)

def getCapabilities (s : State) : Option State :=
  doe s s.focus.1 (fun p =>
    if p.spdm = .version then answer (s.mapPkg p.num (fun p => { p with spdm := .capabilities })) p.num .ok else answer s p.num .error)
def execGetCapabilities (s : State) : Host.Outcome State Fault Refusal := ifEnabled (getCapabilities s)

def negotiateAlgorithms (s : State) : Option State :=
  doe s s.focus.1 (fun p =>
    if p.spdm = .capabilities then answer (s.mapPkg p.num (fun p => { p with spdm := .algorithms })) p.num .ok else answer s p.num .error)
def execNegotiateAlgorithms (s : State) : Host.Outcome State Fault Refusal := ifEnabled (negotiateAlgorithms s)

/-- A request that follows the negotiation: its answer, or an error. -/
def negotiated (s : State) (pkg : Nat) (o : HostOut) : Option State :=
  doe s pkg (fun p => if p.spdm = .algorithms then answer s pkg o else answer s pkg .error)

def getDigests (s : State) : Option State := negotiated s s.focus.1 (.bytes (Config.certDigest s.focus.1))
def execGetDigests (s : State) : Host.Outcome State Fault Refusal := ifEnabled (getDigests s)

def getCertificate (s : State) : Option State := negotiated s s.focus.1 (.bytes (Config.certChain s.focus.1))
def execGetCertificate (s : State) : Host.Outcome State Fault Refusal := ifEnabled (getCertificate s)

def challenge (s : State) (pkg : Nat) (nonce : List Byte) : Option State :=
  negotiated s pkg (.bytes (Config.certDigest pkg ++ nonce ++ Config.sign pkg (Config.certDigest pkg ++ nonce)))
def execChallenge (pkg : Nat) (nonce : List Byte) (s : State) : Host.Outcome State Fault Refusal := ifEnabled (challenge s pkg nonce)

/-- What the responder measures of the module: the certificate digest, signed. -/
def getMeasurements (s : State) : Option State := negotiated s s.focus.1 (.bytes (Config.certDigest s.focus.1 ++ Config.sign s.focus.1 (Config.certDigest s.focus.1)))
def execGetMeasurements (s : State) : Host.Outcome State Fault Refusal := ifEnabled (getMeasurements s)

/-- TDISP in ERROR where it was past CONFIG_UNLOCKED (R408). -/
def Pkg.fallTdisp (p : Pkg) : Pkg := if p.tdisp = .locked ∨ p.tdisp = .run then { p with tdisp := .error } else p

/-- The secured session is over (R408, R409). -/
def Pkg.endSess (p : Pkg) : Pkg := if p.sess then { p.fallTdisp with sess := false, kex := false } else { p with kex := false }

/-- TDISP falls to ERROR from a state past CONFIG_UNLOCKED: every CPYG of the package that has not begun ends with LINKSTATE
(R408). -/
def fallCpygs (s : State) (pkg : Nat) : State :=
  match s.pkg? pkg with
  | none => s
  | some p =>
    if p.tdisp = .locked ∨ p.tdisp = .run then
      { s with engs := s.engs.map (fun e =>
          match e.kind with
          | .cpyg _ _ _ _ _ => if e.pkg = pkg ∧ e.tail = false then { e with fell := true } else e
          | _ => e) }
    else s

/-- The end of a package's session, if it has one. -/
def dropSess (s : State) (p : Pkg) : State := (if p.sess then fallCpygs s p.num else s).mapPkg p.num Pkg.endSess

/-- KEY_EXCHANGE: an earlier session ends. -/
def keyExchange (s : State) : Option State :=
  doe s s.focus.1 (fun p =>
    if p.spdm = .algorithms then answer ((dropSess s p).mapPkg p.num (fun p => { p with kex := true })) p.num .ok else answer s p.num .error)
def execKeyExchange (s : State) : Host.Outcome State Fault Refusal := ifEnabled (keyExchange s)

/-- FINISH: the session is open. -/
def finishSess (s : State) : Option State :=
  doe s s.focus.1 (fun p =>
    if p.kex then answer (s.mapPkg p.num (fun p => { p with sess := true, kex := false })) p.num .ok else answer s p.num .error)
def execFinish (s : State) : Host.Outcome State Fault Refusal := ifEnabled (finishSess s)

def endSession (s : State) : Option State :=
  doe s s.focus.1 (fun p => if p.sess then answer (dropSess s p) p.num .ok else answer s p.num .error)
def execEndSession (s : State) : Host.Outcome State Fault Refusal := ifEnabled (endSession s)

/-! ## IDE and TDISP (R407, R408) -/

/-- IDE_KM: a stream's keys are programmed inside the session; a stream that the host has configured counts. -/
def ideKm (s : State) (pkg stream : Nat) (secure : Bool) : Option State :=
  if 5 ≤ stream then none
  else
    doe s pkg (fun p =>
      if p.sess && p.flit then
        answer (s.mapPkg pkg (fun p =>
          { p with ideConf := p.ideConf ||| BitVec.ofNat 5 (2 ^ stream)
                   idesec := if secure then p.idesec ||| BitVec.ofNat 5 (2 ^ stream) else p.idesec &&& ~~~(BitVec.ofNat 5 (2 ^ stream)) })) pkg .ok
      else answer s pkg .error)
def execIdeKm (pkg stream : Nat) (secure : Bool) (s : State) : Host.Outcome State Fault Refusal := ifEnabled (ideKm s pkg stream secure)

/-- The streams that count are Secure: the link stream, and every one that the host has configured. -/
def Pkg.streamsSecure (p : Pkg) : Bool := (p.ideConf ||| 1) &&& p.idesec == p.ideConf ||| 1

def lockInterface (s : State) : Option State :=
  doe s s.focus.1 (fun p =>
    if p.tdisp = .unlocked ∧ p.sess = true ∧ p.flit = true ∧ p.streamsSecure = true then
      answer (s.mapPkg p.num (fun p => { p with tdisp := .locked })) p.num .ok
    else answer s p.num .error)
def execLockInterfaceRequest (s : State) : Host.Outcome State Fault Refusal := ifEnabled (lockInterface s)

def startInterface (s : State) : Option State :=
  doe s s.focus.1 (fun p =>
    if p.tdisp = .locked then answer (s.mapPkg p.num (fun p => { p with tdisp := .run })) p.num .ok else answer s p.num .error)
def execStartInterfaceRequest (s : State) : Host.Outcome State Fault Refusal := ifEnabled (startInterface s)

def stopInterface (s : State) : Option State :=
  doe s s.focus.1 (fun p => answer (s.mapPkg p.num (fun p => { p with tdisp := .unlocked, idesec := 0 })) p.num .ok)
def execStopInterfaceRequest (s : State) : Host.Outcome State Fault Refusal := ifEnabled (stopInterface s)

/-- TDISP_ERROR; a link-down and a session's end have their own effect too: no IDE stream outlives the link (R407). -/
def tdispError (s : State) (pkg : Nat) (cause : TdispCause) : Option State :=
  match s.pkg? pkg with
  | none => none
  | some p =>
    let past := p.tdisp == .locked || p.tdisp == .run
    match cause with
    | .configChange | .ideFailure => if past then some ((fallCpygs s pkg).mapPkg pkg Pkg.fallTdisp) else none
    | .sessionEnd => if p.sess then some (dropSess s p) else none
    | .linkDown =>
      if p.rate = 0 then none
      else some ((fallCpygs s pkg).mapPkg pkg (fun p => { p.fallTdisp with rate := 0, width := 0, flit := false, idesec := 0 }))
def execTdispError (pkg : Nat) (cause : TdispCause) (s : State) : Host.Outcome State Fault Refusal := ifEnabled (tdispError s pkg cause)

/-! ## Host windows (R412, R413) -/

/-- Where a host access goes: a virtual address of a context, or a device physical address. -/
inductive HostPlace where
  | ctx (c : Ctx) (va : Nat)
  | pool (a : Nat)
  deriving DecidableEq, Repr

/-- A request may reach a context's memory in the link's state (R413). -/
def tlpTrusted (p : Pkg) (t : Tlp) : Bool :=
  p.tdisp != .run || (t.t && (match t.stream with | some i => decide (i < 5) && p.idesec.getLsbD i | none => false))

/-- A context that a window reaches. -/
def hostCtxOk (c : Ctx) : Bool := c.state == .keyed || c.state == .resident || c.state == .running || c.state == .descheduled

/-- The judgement against the Unsupported Request conditions: where a good access goes. -/
def hostJudge (s : State) (p : Pkg) (win off n : Nat) (t : Tlp) : Option HostPlace :=
  let w := p.hwins.getD win { }
  if 16 ≤ win ∨ w.en = false ∨ n = 0 ∨ 2 ^ 30 < off + n then none
  else
    let a := w.base + off
    if w.mode then (if rangeInHostPool s p.num a n then some (.pool a) else none)
    else
      match s.ctx? p.num w.ctx with
      | none => none
      | some c =>
        if hostCtxOk c && tlpTrusted p t && spanRouted s p.num c.num a n && spanReachable s p.num c.num a n then some (.ctx c a) else none

/-- The key policy lets the host read an address in plaintext (R275, R413). -/
def hostMayRead (c : Ctx) (va : Nat) : Bool :=
  c.keypol / 2 % 2 == 1 || (match c.route va with | some e => e.hostvis | none => false)

/-- The link is up, and the access has a way to its home and back. -/
def hostNow (s : State) (p : Pkg) (pl : HostPlace) : Bool :=
  p.rate != 0 &&
    match pl with
    | .ctx c va => linkedBoth s p.num c.num va
    | .pool _ => true

/-- The home of an access takes packets of another epoch of its context: it drops the access and counts it (R283). -/
def hostStale (s : State) (p : Pkg) : HostPlace → Option Nat
  | .ctx c va => if staleAt s p.num c.num c.epoch va then some (homeOf s p.num c.num va) else none
  | .pool _ => none

/-- A host access that is judged good, or the Unsupported Request; one that its home drops gets no answer (log entry 111). -/
def hostAccess (s : State) (pkg win off n : Nat) (t : Tlp) (body : Pkg → HostPlace → Option State) : Option State :=
  match s.pkg? pkg with
  | none => none
  | some p =>
    if p.rate = 0 ∨ p.broken = true then none
    else
      match hostJudge s p win off n t with
      | none => some (answer s pkg .unsupportedRequest)
      | some pl =>
        if hostNow s p pl = false then none
        else
          match hostStale s p pl with
          | some home => some (dropPacket s home)
          | none => body p pl

/-- A place holds poison (R24). -/
def hostPoisoned (s : State) (pkg n : Nat) : HostPlace → Bool
  | .ctx c va => (readUnits16 s pkg c.num va n).2
  | .pool a => poisonedAt s (2 ^ 40 * pkg + a) n

/-- What a poisoned place reads as: free values of the answers given so far and the byte (log entry 111). -/
def poisonBytes (s : State) (pkg n : Nat) : List Byte :=
  let k := match s.pkg? pkg with | some p => p.out.length | none => 0
  (List.range n).map (fun i => BitVec.ofNat 8 (Config.undefWord s.choiceCtr (2 ^ 32 * k + i)).toNat)

/-- The bytes at a place. -/
def hostBytes (s : State) (pkg n : Nat) (pl : HostPlace) : List Byte :=
  if hostPoisoned s pkg n pl then poisonBytes s pkg n
  else
    match pl with
    | .ctx c va => (readUnits16 s pkg c.num va n).1
    | .pool a => readPool s pkg a n

/-- Write bytes at a place, line by line. -/
def hostPut (s : State) (pkg : Nat) (bs : List Byte) : HostPlace → State
  | .ctx c va => (linePieces va bs (bs.length + 1)).foldl (fun s p => writeHome s pkg c.num p.1 p.2) s
  | .pool a => (linePieces a bs (bs.length + 1)).foldl (fun s p => writePhys s deviceKey 0 (2 ^ 40 * pkg + p.1) p.2) s

/-- A line that a matrix step holds pinned keeps a host write waiting (R168). -/
def hostPinned (s : State) (pkg n : Nat) : HostPlace → Bool
  | .ctx c va => (runLines (va, n)).any (fun l => lineHeld s pkg c.num (vaFull (128 * l)))
  | .pool _ => false

/-- HOST_READ. -/
def hostRead (s : State) (pkg win off len : Nat) (t : Tlp) : Option State :=
  hostAccess s pkg win off len t (fun _ pl =>
    let allowed := match pl with | .ctx c va => hostMayRead c va | .pool _ => true
    some (answer s pkg (if allowed then .bytes (hostBytes s pkg len pl) else .completerAbort)))
def execHostRead (pkg win off len : Nat) (tlp : Tlp) (s : State) : Host.Outcome State Fault Refusal := ifEnabled (hostRead s pkg win off len tlp)

/-- HOST_WRITE: posted, so a refused one is dropped whole. -/
def hostWrite (s : State) (pkg win off : Nat) (bs : List Byte) (t : Tlp) : Option State :=
  hostAccess s pkg win off bs.length t (fun _ pl => if hostPinned s pkg bs.length pl then none else some (hostPut s pkg bs pl))
def execHostWrite (pkg win off : Nat) (bytes : List Byte) (tlp : Tlp) (s : State) : Host.Outcome State Fault Refusal :=
  ifEnabled (hostWrite s pkg win off bytes tlp)

/-- What a PCIe AtomicOp leaves of the old value. -/
def hostAtomicNew (kind : HostAtomic) (old operand compare n : Nat) : Nat :=
  match kind with
  | .fetchAdd => (old + operand) % 2 ^ (8 * n)
  | .swap => operand % 2 ^ (8 * n)
  | .cas => if old = compare % 2 ^ (8 * n) then operand % 2 ^ (8 * n) else old

/-- HOST_ATOMICOP: read and written at one instant of its line's home order; the old value returns. -/
def hostAtomic (s : State) (pkg win off n : Nat) (kind : HostAtomic) (operand compare : Nat) (t : Tlp) : Option State :=
  if n ≠ 4 ∧ n ≠ 8 then none
  else
    match s.pkg? pkg with
    | none => none
    | some p =>
      if p.rate = 0 ∨ p.broken = true then none
      else if off % n ≠ 0 then some (answer s pkg .malformed)
      else
        hostAccess s pkg win off n t (fun _ pl =>
          if hostPinned s pkg n pl then none
          else
            let old := hostBytes s pkg n pl
            some (answer (hostPut s pkg (toLE n (hostAtomicNew kind (leNat old) operand compare n)) pl) pkg (.bytes old)))
def execHostAtomicop (pkg win off width : Nat) (kind : HostAtomic) (operand compare : DWord) (tlp : Tlp) (s : State) :
    Host.Outcome State Fault Refusal := ifEnabled (hostAtomic s pkg win off width kind operand.toNat compare.toNat tlp)

/-! ## Clekai (R418 to R421) -/

/-- A change of a package's ports or routes: packages that it no longer reaches are unreachable from now on. -/
def noteRoutes (before s : State) (pkg : Nat) : State :=
  s.mapPkg pkg (fun p => { p with unreach := (List.range 128).filterMap (fun n =>
    if routeUp s pkg n then none
    else if routeUp before pkg n then some (n, s.tick)
    else p.unreach.find? (fun x => x.1 == n)) })

/-- One port of a package. -/
def setPort (s : State) (pkg port : Nat) (f : Port → Port) : State :=
  noteRoutes s (s.mapPkg pkg (fun p => { p with ports := modAt p.ports port f })) pkg

/-- A write of CLK_CMD: ignored before READY. -/
def clkCommand (s : State) (pkg port : Nat) (body : Port → State) : Option State :=
  match s.pkg? pkg with
  | none => none
  | some p =>
    if mgmtOn p = false ∨ 64 ≤ port then none
    else if p.ready = false then some s
    else some (body (p.ports.getD port { }))

/-- TRAIN. -/
def train (s : State) (pkg port : Nat) : Option State :=
  clkCommand s pkg port (fun q =>
    match q.state with
    | .down | .degraded | .failed => setPort s pkg port (fun q => { q with state := .training, lanes := 0, reason := 0, fails := [] })
    | .training | .up => s)
def execTrain (pkg port : Nat) (s : State) : Host.Outcome State Fault Refusal := ifEnabled (train s pkg port)

/-- DISABLE: as a loss of every lane. -/
def disable (s : State) (pkg port : Nat) : Option State :=
  clkCommand s pkg port (fun _ => setPort s pkg port (fun q => { q with state := .down, lanes := 0, reason := 4 }))
def execDisable (pkg port : Nat) (s : State) : Host.Outcome State Fault Refusal := ifEnabled (disable s pkg port)

/-- A port in training. -/
def trainingPort (s : State) (pkg port : Nat) : Option (Pkg × Port) :=
  match s.pkg? pkg with
  | none => none
  | some p => if port < 64 ∧ (p.ports.getD port { }).state = .training then some (p, p.ports.getD port { }) else none

/-- Ticks within which three failed attempts fail a port. -/
def trainTicks : Nat := 100000000

/-- A partner that is a package of the domain brings that package's own CLK_DOMAIN to the identity exchange. -/
def ownDomain (s : State) (p : Pkg) (peer domain : Nat) : Bool :=
  match s.pkg? peer with
  | some q => q.num == p.num || q.clkDomain == domain
  | none => true

/-- What the identity exchange and the lanes make of a port (R419): REASON 2 where the domains differ, 3 where the partner
reports this package's number, and else UP, or DEGRADED on one lane or at 224 Gb/s. -/
def trainedPort (p : Pkg) (lanes : Nat) (slow : Bool) (peer pp domain : Nat) (q : Port) : Port :=
  if domain ≠ p.clkDomain then { q with state := .failed, lanes := 0, reason := 2 }
  else if peer = p.num then { q with state := .failed, lanes := 0, reason := 3 }
  else { q with state := if lanes = 2 ∧ slow = false then .up else .degraded, lanes := lanes, peerPkg := peer, peerPort := pp, reason := 0 }

/-- The last three attempts of a port have failed within 100 ms. -/
def Port.failedOut (q : Port) : Bool :=
  match q.fails with
  | [a, _, c] => decide (a ≤ c + trainTicks)
  | _ => false

/-- PORT_TRAINED: an attempt ends, while no three have failed within 100 ms. -/
def portTrained (s : State) (pkg port : Nat) (r : TrainResult) : Option State :=
  match trainingPort s pkg port with
  | none => none
  | some (p, q) =>
    if q.failedOut then none
    else
      match r with
      | .linked lanes slow peer pp domain =>
        if lanes = 0 ∨ 2 < lanes ∨ 128 ≤ peer ∨ 64 ≤ pp ∨ ownDomain s p peer domain = false then none
        else some (setPort s pkg port (trainedPort p lanes slow peer pp domain))
      | .attemptFailed => some (setPort s pkg port (fun q => { q with fails := (s.tick :: q.fails).take 3 }))
def execPortTrained (pkg port : Nat) (result : TrainResult) (s : State) : Host.Outcome State Fault Refusal :=
  ifEnabled (portTrained s pkg port result)

/-- PORT_TRAIN_TIMEOUT. -/
def portTimeout (s : State) (pkg port : Nat) : Option State :=
  match trainingPort s pkg port with
  | none => none
  | some (_, q) =>
    if q.failedOut then some (setPort s pkg port (fun q => { q with state := .failed, lanes := 0, reason := 1 })) else none
def execPortTrainTimeout (pkg port : Nat) (s : State) : Host.Outcome State Fault Refusal := ifEnabled (portTimeout s pkg port)

/-- LANE_LOST: how many lanes a port that carries traffic loses; with the last one it fails, as it does after 16
replays of one flit. -/
def laneLost (s : State) (pkg port lanes : Nat) : Option State :=
  match s.pkg? pkg with
  | none => none
  | some p =>
    let q := p.ports.getD port { }
    if 64 ≤ port ∨ q.usable = false ∨ lanes = 0 then none
    else if lanes < q.lanes then some (setPort s pkg port (fun q => { q with state := .degraded, lanes := q.lanes - lanes }))
    else some (setPort s pkg port (fun q => { q with state := .failed, lanes := 0, reason := 4 }))
def execLaneLost (pkg port lanes : Nat) (s : State) : Host.Outcome State Fault Refusal := ifEnabled (laneLost s pkg port lanes)

/-- FLIT_REPLAY: a flit that FEC corrects, or that is replayed. -/
def flitReplay (s : State) (pkg port : Nat) (corrected : Bool) : Option State :=
  match s.pkg? pkg with
  | none => none
  | some p =>
    if 64 ≤ port ∨ (p.ports.getD port { }).usable = false then none
    else some (s.mapPkg pkg (fun p => { p with ports := modAt p.ports port (fun q =>
      if corrected then { q with corr := min 65535 (q.corr + 1) } else { q with replay := min 65535 (q.replay + 1) }) }))
def execFlitReplay (pkg port : Nat) (corrected : Bool) (s : State) : Host.Outcome State Fault Refusal := ifEnabled (flitReplay s pkg port corrected)

end Sys2Proof.Machine
end

