-- ==== Sys2Proof/Machine/FieldEvents.lean ====
section
/-! DEFINITION. Fields, power and bring-up (R422 to R432), and the host's writes to management registers (R5, R272, R397, R411, R412, R420). -/

namespace Sys2Proof.Machine

open Sys2Proof

/-! ## Module reset (R5, R329, R396, R422 to R424) -/

/-- A package after module reset: its fuses and its clock stay, and from now on it has no route to another package.  The timebase goes on (log entry 89). -/
def resetPkg (tick : Nat) (p : Pkg) : Pkg :=
  { num := p.num, skew := p.skew, fields := p.fields.map (fun f => { qmap := f.qmap, skew := f.skew })
    unreach := ((List.range 128).filter (· != p.num)).map (fun n => (n, tick)) }

/-- An instance launched on a package that is gone: nothing of it but its groups on other packages is left, which hold their
cores until a fault or TEARDOWN takes them there. -/
def orphanInst (s : State) (n : Nat) (k : Inst) : Option Inst :=
  if k.pkg ≠ n then some k
  else if s.groups.any (fun g => g.inst == k.id && g.pkg != n) then some { k with state := .complete }
  else none

/-- What a package holds or has under way is gone; its memory keeps its ciphertext. -/
def clearPkg (s : State) (n : Nat) : State :=
  { s with
    ctxs := s.ctxs.filter (fun c => c.pkg != n), groups := s.groups.filter (fun g => g.pkg != n)
    insts := s.insts.filterMap (orphanInst s n), cores := s.cores.filter (fun c => c.pkg != n)
    coreRecs := s.coreRecs.filter (fun r => r.core.pkg != n), pages := s.pages.filter (fun p => p.pkg != n)
    pageWaits := s.pageWaits.filter (fun w => w.pkg != n), sessions := s.sessions.filter (fun x => x.pkg != n)
    loads := s.loads.filter (fun l => l.pkg != n), writes := s.writes.filter (fun w => w.pkg != n)
    rops := s.rops.filter (fun r => r.pkg != n && (r.phase == .acked || ropHome s r != n))
    nms := s.nms.filter (fun x => x.pkg != n), steps := s.steps.filter (fun t => t.pkg != n)
    engs := s.engs.filter (fun e => e.pkg != n), defOps := s.defOps.filter (fun o => o.pkg != n)
    guests := s.guests.filter (fun g => g.pkg != n) }

/-- MODULE_RESET of the move's package; its other reset values are State.reset's. -/
def moduleReset (s : State) : Option State :=
  let pkg := s.focus.1
  match s.pkg? pkg with
  | none => none
  | some _ => some ((clearPkg s pkg).mapPkg pkg (resetPkg s.tick))
def execModuleReset (s : State) : Host.Outcome State Fault Refusal := ifEnabled (moduleReset s)

/-! ## Fields (R423, R424) -/

/-- The fields that a field waits for in stage 1: those that the stage names before it (R424; log entry 109). -/
def precedes : Nat → List Nat
  | 0 => []
  | 1 | 3 => [0]
  | 4 => [0, 1, 3]
  | _ => [0, 1, 3, 4]

/-- The field that one ramps together with. -/
def together : Nat → Option Nat
  | 1 => some 3
  | 3 => some 1
  | 2 => some 5
  | 5 => some 2
  | _ => none

/-- State of a field. -/
def fieldState (p : Pkg) (f : Nat) : FieldState := (p.fields.getD f { }).state

/-- FIELD_RAMP: with F0's, stage 1 has begun. -/
def fieldRamp (s : State) (pkg fld : Nat) : Option State :=
  match s.pkg? pkg with
  | none => none
  | some p =>
    if 6 ≤ fld ∨ p.failed = true ∨ p.broken = true ∨ fieldState p fld ≠ .off ∨ (precedes fld).any (fun g => fieldState p g != .on) = true
        ∨ 1 < p.stage then none
    else
      some ((s.mapPkg pkg (fun p => { p with stage := 1 })).mapField pkg fld (fun f => { f with state := .ramp, rampStart := s.tick }))
def execFieldRamp (pkg fld : Nat) (s : State) : Host.Outcome State Fault Refusal := ifEnabled (fieldRamp s pkg fld)

/-- Ticks that a field may spend in RAMP. -/
def rampTicks : Nat := 2000000

/-- FIELD_ON: a field that ramps together with another is ON once that one has begun too; with the last field, stage 1 is
complete. -/
def fieldOn (s : State) (pkg fld : Nat) : Option State :=
  match s.pkg? pkg with
  | none => none
  | some p =>
    let f := p.fields.getD fld { }
    if 6 ≤ fld ∨ p.failed = true ∨ p.broken = true ∨ f.state ≠ .ramp ∨ f.rampStart + rampTicks < s.tick
        ∨ (together fld).any (fun g => fieldState p g == .off) = true then none
    else
      let s : State := s.mapField pkg fld (fun f => { f with state := .on })
      some (s.mapPkg pkg (fun p => if p.fields.all (fun f => f.state == .on) then { p with stage := 2 } else p))
def execFieldOn (pkg fld : Nat) (s : State) : Host.Outcome State Fault Refusal := ifEnabled (fieldOn s pkg fld)

/-- FIELD_RAMP_TIMEOUT: a check has failed, or 2 ms have passed. -/
def fieldTimeout (s : State) (pkg fld : Nat) : Option State :=
  match s.pkg? pkg with
  | none => none
  | some p =>
    if 6 ≤ fld ∨ fieldState p fld ≠ .ramp then none
    else some ((s.mapField pkg fld (fun f => { f with state := .failed })).mapPkg pkg (fun p => { p with failed := true, failStage := p.stage }))
def execFieldRampTimeout (pkg fld : Nat) (s : State) : Host.Outcome State Fault Refusal := ifEnabled (fieldTimeout s pkg fld)

/-- OVERCURRENT: a device fault. -/
def overcurrent (s : State) (pkg fld : Nat) : Option State :=
  match s.pkg? pkg with
  | none => none
  | some p =>
    if 6 ≤ fld ∨ fieldState p fld ≠ .on then none
    else some (deviceFault (s.mapField pkg fld (fun f => { f with state := .failed })) pkg)
def execOvercurrent (pkg fld : Nat) (s : State) : Host.Outcome State Fault Refusal := ifEnabled (overcurrent s pkg fld)

/-! ## Stages 2 to 4 (R422, R424) -/

/-- A stage completes: the next one is reached. -/
def stageDone (s : State) (pkg n : Nat) (f : Pkg → Pkg) : Option State :=
  match s.pkg? pkg with
  | none => none
  | some p => if p.failed = false ∧ p.broken = false ∧ p.stage = n then some (s.mapPkg pkg (fun p => { f p with stage := n + 1 })) else none

/-- A stage from the second to the fourth fails: bring-up stops (R425). -/
def stageFail (s : State) (pkg : Nat) : Option State :=
  match s.pkg? pkg with
  | none => none
  | some p =>
    if p.failed = false ∧ 2 ≤ p.stage ∧ p.stage ≤ 4 then some (s.mapPkg pkg (fun p => { p with failed := true, failStage := p.stage }))
    else none

/-- BASE_DIE_LINK_TRAINING: all eleven links. -/
def bdTrained (s : State) : Option State :=
  if (s.pkg? s.focus.1).any (fun p => p.bdLinks.any (· == .failed)) then none
  else stageDone s s.focus.1 2 (fun p => { p with bdLinks := List.replicate 11 .up })
def execBaseDieLinkTraining (s : State) : Host.Outcome State Fault Refusal := ifEnabled (bdTrained s)

/-- HBM_TRAINING: every pseudo-channel passes. -/
def hbmTrained (s : State) : Option State := stageDone s s.focus.1 3 id
def execHbmTraining (s : State) : Host.Outcome State Fault Refusal := ifEnabled (hbmTrained s)

/-- Rates and widths of R407 and R410; non-flit mode up to 32 GT/s. -/
def pcieGood (rate width : Nat) (flit : Bool) : Bool :=
  decide (1 ≤ rate) && decide (rate ≤ 6) && decide (width ≤ 2) && (flit || decide (rate ≤ 5))

/-- PCIE_LINK_TRAINING: stage 4 of bring-up, or the link coming up again after a link-down. -/
def pcieTrained (s : State) (pkg rate width : Nat) (flit : Bool) : Option State :=
  let link (p : Pkg) : Pkg := { p with rate := rate, width := width, flit := flit }
  if pcieGood rate width flit = false then none
  else
    match s.pkg? pkg with
    | none => none
    | some p =>
      if p.stage = 5 then (if p.rate = 0 ∧ p.broken = false then some (s.mapPkg pkg link) else none)
      else stageDone s pkg 4 link
def execPcieLinkTraining (pkg rate width : Nat) (flit : Bool) (s : State) : Host.Outcome State Fault Refusal :=
  ifEnabled (pcieTrained s pkg rate width flit)

/-! ## The current budget arbiter (R428 to R430) -/

/-- Cores of a field that hold groups. -/
def busyCores (s : State) (pkg fld : Nat) : Nat :=
  (distinct ((s.groups.filter (fun g => g.pkg == pkg && g.state != .saved && fieldOf g.core == fld)).map (·.core))).length

/-- A grant that R429 allows a field, in units of 0.1 A. -/
def grantGood (s : State) (pkg fld g : Nat) : Bool := decide (g ≤ 4300) && decide (40 + 6 * busyCores s pkg fld ≤ g)

/-- THR after a microsecond with a draw (R430). -/
def nextThr (f : Field) (draw : Nat) : Nat :=
  if f.grant < draw then min 7 (f.thr + 1) else if 10 * draw < 9 * f.grant then f.thr - 1 else f.thr

/-- The limits that CBA_LIMIT sets, in mW: values outside their ranges act as the nearer bound (R432). -/
def Pkg.sustLimit (p : Pkg) : Nat := 1000 * max 1000 (min 2800 p.sust)
def Pkg.peakLimit (p : Pkg) : Nat := 1000 * max (p.sustLimit / 1000) (min 3100 p.peak)

/-- Power of a package whose fields draw some currents, in units of 0.1 A at 0.75 V, in mW. -/
def Pkg.power (p : Pkg) (currents : List Nat) : Nat := 1000 * p.rest + 75 * currents.foldl (· + ·) 0

/-- Ticks of the grants that found the package above SUST, of those microseconds that fall in the 100 ms which end with the
microsecond after a tick. -/
def Pkg.overTicks (p : Pkg) (tick : Nat) : List Nat := p.overs.filter (fun t => decide (tick + 1000 < t + 100000000))

/-- The fields' currents keep the package, the microsecond just measured noted, within its limits for the next one: the average
over the millisecond that it ends, 10 ms above SUST in 100 ms, and the peak (R429). -/
def limitsKept (p : Pkg) (tick : Nat) (grants : List Nat) : Bool :=
  let next := p.power grants
  decide (next + p.draws.foldl (· + ·) 0 ≤ (p.draws.length + 1) * p.sustLimit) && decide (next ≤ p.peakLimit)
    && (decide (next ≤ p.sustLimit) || decide ((p.overTicks tick).length < 10000))

/-- The least share of every field. -/
def leastGrants (s : State) (pkg : Nat) : List Nat := (List.range 6).map (fun f => 40 + 6 * busyCores s pkg f)

/-- The draw of the stacks, the SerDes and the remainder changes: it leaves room for the fields' least shares (log entry
124). -/
def restDraw (s : State) (pkg watts : Nat) : Option State :=
  match s.pkg? pkg with
  | none => none
  | some p =>
    if ({ p with rest := watts } : Pkg).power (leastGrants s pkg) ≤ p.sustLimit then some (s.mapPkg pkg (fun p => { p with rest := watts }))
    else none

/-- Microseconds that a grant at a tick ends: those since the one before it. -/
def Pkg.overdue (p : Pkg) (tick : Nat) : Nat := (tick - p.cbaNext) / 1000 + 1

/-- What a grant keeps of the microseconds that it ends. -/
def Pkg.noteDraw (p : Pkg) (tick : Nat) (draws : List Nat) : Pkg :=
  let n := min 100000 (p.overdue tick)
  let ends := (List.range n).map (fun i => p.cbaNext + 1000 * (p.overdue tick - 1 - i))
  { p with draws := (List.replicate (min 999 n) (p.power draws) ++ p.draws).take 999
           overs := { p with overs := (if p.sustLimit < p.power draws then ends else []) ++ p.overs : Pkg }.overTicks tick }

/-- CBA_GRANT: each field's measured draw since the last one, and the grant it has for the next microsecond, within the limits; where no grants
keep them, as after a write that lowers them, the fields have their least shares (log entry 124). -/
def cbaGrant (s : State) (pkg : Nat) (draws grants : List Nat) : Option State :=
  match s.pkg? pkg with
  | none => none
  | some p =>
    if draws.length ≠ 6 ∨ grants.length ≠ 6 ∨ s.tick < p.cbaNext ∨ (List.range 6).any (fun f => !grantGood s pkg f (grants.getD f 0)) = true
        ∨ (limitsKept (p.noteDraw s.tick draws) s.tick grants = false ∧ grants ≠ leastGrants s pkg) then none
    else
      some (s.mapPkg pkg (fun p =>
        { p.noteDraw s.tick draws with
          cbaNext := p.cbaNext + 1000 * p.overdue s.tick
          fields := (List.range 6).map (fun i =>
            let f := p.fields.getD i { }
            { f with thr := nextThr f (draws.getD i 0), grant := grants.getD i 0 }) }))
def execCbaGrant (pkg : Nat) (draws grants : List Nat) (s : State) : Host.Outcome State Fault Refusal := ifEnabled (cbaGrant s pkg draws grants)

/-! ## REGISTER_WRITE (R5, R272, R397, R411, R412, R420, R432) -/

/-- A value of n bytes written into a register of 8 bytes, at its offset or at its upper half. -/
def put8 (old half n v : Nat) : Nat :=
  if n = 8 then v % 2 ^ 64
  else if half = 0 then old / 2 ^ 32 * 2 ^ 32 + v % 2 ^ 32
  else old % 2 ^ 32 + v % 2 ^ 32 * 2 ^ 32

/-- HWIN_CTL as a number, and back. -/
def HWin.ctl (w : HWin) : Nat := (if w.en then 1 else 0) + (if w.mode then 2 else 0) + 4 * w.ctx
def HWin.setCtl (w : HWin) (v : Nat) : HWin := { w with en := v % 2 == 1, mode := v / 2 % 2 == 1, ctx := v / 4 % 2048 }

/-- An access that a register takes: 8 bytes at its offset, or 4 at either half; 4 bytes for a 4-byte register. -/
def takes8 (base off n : Nat) : Bool := (n == 8 && off == base) || (n == 4 && (off == base || off == base + 4))

/-- DROP is W1C. -/
def w1c (drop : Bool) (v : Nat) : Bool := drop && v / 2 % 2 == 0

/-- One of a run of registers of 8 bytes, each b bytes after the one before: its number. -/
def inRun (base step count off : Nat) : Option Nat :=
  if base ≤ off ∧ (off - base) / step < count then some ((off - base) / step) else none

/-- The same, for an offset that is a register's own. -/
def regIn (base step count off : Nat) : Option Nat := if (off - base) % step = 0 then inRun base step count off else none

/-- A write to a management register that has no row of its own; other offsets, and RO registers, ignore it. -/
def regWrite (p : Pkg) (off n v : Nat) : Pkg :=
  let half := off % 8 / 4
  if off = 0x10 then (if n = 4 then { p with sust := v % 2 ^ 16, peak := v / 2 ^ 16 % 2 ^ 16 } else p)
  else if takes8 0x1000 off n then { p with ctxArg := put8 p.ctxArg half n v }
  else if off = 0x100C then (if n = 4 then { p with ctxDrop := w1c p.ctxDrop v } else p)
  else if takes8 0x1100 off n then { p with pgArg := put8 p.pgArg half n v }
  else if off = 0x110C then (if n = 4 then { p with pgDrop := w1c p.pgDrop v } else p)
  else if takes8 0x2000 off n then { p with clkDomain := put8 p.clkDomain half n v }
  else
    match inRun 0x2400 8 128 off with
    | some i => if takes8 (0x2400 + 8 * i) off n then { p with routes := modAt p.routes i (fun r => BitVec.ofNat 64 (put8 r.toNat half n v)) } else p
    | none =>
      match inRun 0x3000 16 16 off with
      | some i =>
        if takes8 (0x3000 + 16 * i) off n then { p with hwins := modAt p.hwins i (fun w => w.setCtl (put8 w.ctl half n v)) }
        else if takes8 (0x3008 + 16 * i) off n then
          { p with hwins := modAt p.hwins i (fun w => { w with base := put8 w.base half n v / 2 ^ 30 * 2 ^ 30 }) }
        else p
      | none => p

/-- Code of a field's state, of a port's and of TDISP's (R408, R410, R420, R425). -/
def FieldState.code : FieldState → Nat
  | .off => 0
  | .ramp => 1
  | .on => 2
  | .failed => 3
def PortState.code : PortState → Nat
  | .down => 0
  | .training => 1
  | .up => 2
  | .degraded => 3
  | .failed => 4
def Tdisp.code : Tdisp → Nat
  | .unlocked => 0
  | .locked => 1
  | .run => 2
  | .error => 3

def bit (b : Bool) (n : Nat) : Nat := if b then 2 ^ n else 0

/-- The 4-byte register at an offset (R5, R411): its layout is that of R21, R272, R330, R397, R410, R420, R425 and R432;
WO registers and other offsets read as zero. -/
def regRead4 (p : Pkg) (off : Nat) : Nat :=
  if off = 0 then
    p.stage + bit p.failed 3 + (List.range 6).foldl (fun n f => n + (fieldState p f).code * 2 ^ (2 * f + 4)) 0 + p.failStage * 2 ^ 16
  else if off = 0x10 then p.sust + 2 ^ 16 * p.peak
  else if off = 0x20 then p.rate + 2 ^ 3 * p.width + bit p.flit 5 + 2 ^ 6 * p.tdisp.code + 2 ^ 8 * p.idesec.toNat + bit p.sess 13
  else if off = 0x100C then bit p.ctxCmd.isSome 0 + bit p.ctxDrop 1 + 2 ^ 4 * p.ctxStatState + 2 ^ 8 * p.ctxResult
  else if off = 0x110C then bit p.pgCmd.isSome 0 + bit p.pgDrop 1 + 2 ^ 8 * p.pgResult
  else if off = 0x1110 then p.frames
  else
    match regIn 0x100 4 6 off, regIn 0x140 4 6 off, regIn 0x2100 4 64 off, regIn 0x2200 4 64 off with
    | some f, _, _, _ => (p.fields.getD f { }).qmap.toNat
    | _, some f, _, _ => (p.fields.getD f { }).stale
    | _, _, some i, _ =>
      let q := p.ports.getD i { }
      q.state.code + 2 ^ 3 * q.lanes + 2 ^ 5 * q.peerPkg + 2 ^ 12 * q.peerPort + 2 ^ 18 * q.reason
    | _, _, _, some i => (p.ports.getD i { }).corr + 2 ^ 16 * (p.ports.getD i { }).replay
    | _, _, _, _ => 0

/-- The 8-byte register at an offset, where one is there (R272, R397, R411, R412, R420). -/
def regRead8 (p : Pkg) (off : Nat) : Option Nat :=
  if off = 0x1000 then some p.ctxArg
  else if off = 0x1100 then some p.pgArg
  else if off = 0x2000 then some p.clkDomain
  else
    match regIn 0x2400 8 128 off, regIn 0x3000 8 32 off with
    | some i, _ => some (p.routes.getD i 0).toNat
    | _, some i => some (if i % 2 = 0 then (p.hwins.getD (i / 2) { }).ctl else (p.hwins.getD (i / 2) { }).base)
    | _, _ => none

/-- What the register at an offset reads as: whole, or for the upper half of one of 8 bytes that half. -/
def regRead (p : Pkg) (off : Nat) : Nat :=
  match regRead8 p off, (if off % 8 = 4 then regRead8 p (off - 4) else none) with
  | some v, _ => v
  | none, some v => v / 2 ^ 32
  | none, none => regRead4 p off

/-- A write of a register whose commands have rows of their own: CTX_CMD, PG_CMD, and CLK_CMD but for its OP 0 and 3, which
are ignored (R420); a write of another width is ignored (log entry 100). -/
def hasRow (off n v : Nat) : Bool := n == 4 && (off == 0x1008 || off == 0x1108 || (off == 0x2008 && (v / 64 % 4 == 1 || v / 64 % 4 == 2)))

/-- REGISTER_WRITE. -/
def registerWrite (s : State) (pkg off n v : Nat) : Option State :=
  match s.pkg? pkg with
  | none => none
  | some p =>
    if mgmtOn p = false ∨ 2 ^ 26 ≤ off ∨ hasRow off n v = true then none
    else some (noteRoutes s (s.mapPkg pkg (fun p => regWrite p off n v)) pkg)
def execRegisterWrite (pkg off width value : Nat) (s : State) : Host.Outcome State Fault Refusal := ifEnabled (registerWrite s pkg off width value)

end Sys2Proof.Machine
end

