-- ==== Sys2Proof/Machine/Dispatch.lean ====
section
/-! DEFINITION. One arm per instruction and per step of the device: the direct call of its meaning. -/

namespace Sys2Proof.Machine

open Sys2Proof

/-- What an instruction does for the issuing split, or a step of the device for its agent. -/
def exec (i : Instr) (s : State) : Host.Outcome State Fault Refusal :=
  match i with
  | .iadd w => Sys2Proof.Machine.execIadd w s
  | .iaddI w => Sys2Proof.Machine.execIaddI w s
  | .isub w => Sys2Proof.Machine.execIsub w s
  | .isubI w => Sys2Proof.Machine.execIsubI w s
  | .imul w => Sys2Proof.Machine.execImul w s
  | .imulI w => Sys2Proof.Machine.execImulI w s
  | .imulh w => Sys2Proof.Machine.execImulh w s
  | .imad w => Sys2Proof.Machine.execImad w s
  | .iabs w => Sys2Proof.Machine.execIabs w s
  | .ineg w => Sys2Proof.Machine.execIneg w s
  | .imin w => Sys2Proof.Machine.execImin w s
  | .iminI w => Sys2Proof.Machine.execIminI w s
  | .imax w => Sys2Proof.Machine.execImax w s
  | .imaxI w => Sys2Proof.Machine.execImaxI w s
  | .and_ w => Sys2Proof.Machine.execAnd w s
  | .andI w => Sys2Proof.Machine.execAndI w s
  | .or_ w => Sys2Proof.Machine.execOr w s
  | .orI w => Sys2Proof.Machine.execOrI w s
  | .xor_ w => Sys2Proof.Machine.execXor w s
  | .xorI w => Sys2Proof.Machine.execXorI w s
  | .andn w => Sys2Proof.Machine.execAndn w s
  | .andnI w => Sys2Proof.Machine.execAndnI w s
  | .not_ w => Sys2Proof.Machine.execNot w s
  | .shl w => Sys2Proof.Machine.execShl w s
  | .shlI w => Sys2Proof.Machine.execShlI w s
  | .shr w => Sys2Proof.Machine.execShr w s
  | .shrI w => Sys2Proof.Machine.execShrI w s
  | .sar w => Sys2Proof.Machine.execSar w s
  | .sarI w => Sys2Proof.Machine.execSarI w s
  | .rol w => Sys2Proof.Machine.execRol w s
  | .rolI w => Sys2Proof.Machine.execRolI w s
  | .popc w => Sys2Proof.Machine.execPopc w s
  | .clz w => Sys2Proof.Machine.execClz w s
  | .ctz w => Sys2Proof.Machine.execCtz w s
  | .brev w => Sys2Proof.Machine.execBrev w s
  | .bfx w => Sys2Proof.Machine.execBfx w s
  | .bfxI w => Sys2Proof.Machine.execBfxI w s
  | .bfi w => Sys2Proof.Machine.execBfi w s
  | .sel w => Sys2Proof.Machine.execSel w s
  | .icmp w => Sys2Proof.Machine.execIcmp w s
  | .icmpI w => Sys2Proof.Machine.execIcmpI w s
  | .lea w => Sys2Proof.Machine.execLea w s
  | .leaI w => Sys2Proof.Machine.execLeaI w s
  | .mov w => Sys2Proof.Machine.execMov w s
  | .movi w => Sys2Proof.Machine.execMovi w s
  | .fadd w => Sys2Proof.Machine.execFadd w s
  | .faddI w => Sys2Proof.Machine.execFaddI w s
  | .fsub w => Sys2Proof.Machine.execFsub w s
  | .fsubI w => Sys2Proof.Machine.execFsubI w s
  | .fmul w => Sys2Proof.Machine.execFmul w s
  | .fmulI w => Sys2Proof.Machine.execFmulI w s
  | .ffma w => Sys2Proof.Machine.execFfma w s
  | .fmin w => Sys2Proof.Machine.execFmin w s
  | .fminI w => Sys2Proof.Machine.execFminI w s
  | .fmax w => Sys2Proof.Machine.execFmax w s
  | .fmaxI w => Sys2Proof.Machine.execFmaxI w s
  | .fcmp w => Sys2Proof.Machine.execFcmp w s
  | .fcmpI w => Sys2Proof.Machine.execFcmpI w s
  | .fclass w => Sys2Proof.Machine.execFclass w s
  | .frnd w => Sys2Proof.Machine.execFrnd w s
  | .dadd w => Sys2Proof.Machine.execDadd w s
  | .dmul w => Sys2Proof.Machine.execDmul w s
  | .dfma w => Sys2Proof.Machine.execDfma w s
  | .dmin w => Sys2Proof.Machine.execDmin w s
  | .dmax w => Sys2Proof.Machine.execDmax w s
  | .dcmp w => Sys2Proof.Machine.execDcmp w s
  | .badd2 w => Sys2Proof.Machine.execBadd2 w s
  | .bmul2 w => Sys2Proof.Machine.execBmul2 w s
  | .bfma2 w => Sys2Proof.Machine.execBfma2 w s
  | .fcvt dst w => Sys2Proof.Machine.execFcvt dst w s
  | .rcp w => Sys2Proof.Machine.execRcp w s
  | .rsq w => Sys2Proof.Machine.execRsq w s
  | .sqrt w => Sys2Proof.Machine.execSqrt w s
  | .fdiv w => Sys2Proof.Machine.execFdiv w s
  | .exp2 w => Sys2Proof.Machine.execExp2 w s
  | .log2 w => Sys2Proof.Machine.execLog2 w s
  | .exp w => Sys2Proof.Machine.execExp w s
  | .log w => Sys2Proof.Machine.execLog w s
  | .sin w => Sys2Proof.Machine.execSin w s
  | .cos w => Sys2Proof.Machine.execCos w s
  | .tanh w => Sys2Proof.Machine.execTanh w s
  | .shfl w => Sys2Proof.Machine.execShfl w s
  | .shflI w => Sys2Proof.Machine.execShflI w s
  | .vote w => Sys2Proof.Machine.execVote w s
  | .lred w => Sys2Proof.Machine.execLred w s
  | .lscan w => Sys2Proof.Machine.execLscan w s
  | .pand w => Sys2Proof.Machine.execPand w s
  | .por w => Sys2Proof.Machine.execPor w s
  | .pnot w => Sys2Proof.Machine.execPnot w s
  | .pcnt w => Sys2Proof.Machine.execPcnt w s
  | .ld ty w => Sys2Proof.Machine.execLd ty w s
  | .ldc w => Sys2Proof.Machine.execLdc w s
  | .pref w => Sys2Proof.Machine.execPref w s
  | .fence w => Sys2Proof.Machine.execFence w s
  | .fences w => Sys2Proof.Machine.execFences w s
  | .lda w => Sys2Proof.Machine.execLda w s
  | .sta w => Sys2Proof.Machine.execSta w s
  | .st ty w => Sys2Proof.Machine.execSt ty w s
  | .tiledef w => Sys2Proof.Machine.execTiledef w s
  | .tilerel w => Sys2Proof.Machine.execTilerel w s
  | .atom op w => Sys2Proof.Machine.execAtom op w s
  | .red op w => Sys2Proof.Machine.execRed op w s
  | .bra w => Sys2Proof.Machine.execBra w s
  | .brx w => Sys2Proof.Machine.execBrx w s
  | .jmpt w => Sys2Proof.Machine.execJmpt w s
  | .call w => Sys2Proof.Machine.execCall w s
  | .calli w => Sys2Proof.Machine.execCalli w s
  | .ret w => Sys2Proof.Machine.execRet w s
  | .exit w => Sys2Proof.Machine.execExit w s
  | .rte w => Sys2Proof.Machine.execRte w s
  | .rgn w => Sys2Proof.Machine.execRgn w s
  | .trap w => Sys2Proof.Machine.execTrap w s
  | .nop w => Sys2Proof.Machine.execNop w s
  | .waitt w => Sys2Proof.Machine.execWaitt w s
  | .waittD w => Sys2Proof.Machine.execWaittD w s
  | .yield w => Sys2Proof.Machine.execYield w s
  | .srd w => Sys2Proof.Machine.execSrd w s
  | .swr w => Sys2Proof.Machine.execSwr w s
  | .clkTb w => Sys2Proof.Machine.execClkTb w s
  | .clkCyc w => Sys2Proof.Machine.execClkCyc w s
  | .mma w => Sys2Proof.Machine.execMma w s
  | .mmas w => Sys2Proof.Machine.execMmas w s
  | .mcommit w => Sys2Proof.Machine.execMcommit w s
  | .mwait w => Sys2Proof.Machine.execMwait w s
  | .mzero w => Sys2Proof.Machine.execMzero w s
  | .mst w => Sys2Proof.Machine.execMst w s
  | .cpy w => Sys2Proof.Machine.execCpy w s
  | .cpy2d w => Sys2Proof.Machine.execCpy2d w s
  | .tld w => Sys2Proof.Machine.execTld w s
  | .tst w => Sys2Proof.Machine.execTst w s
  | .gath w => Sys2Proof.Machine.execGath w s
  | .scat w => Sys2Proof.Machine.execScat w s
  | .rowpub w => Sys2Proof.Machine.execRowpub w s
  | .ewait w => Sys2Proof.Machine.execEwait w s
  | .coll w => Sys2Proof.Machine.execColl w s
  | .cpyg w => Sys2Proof.Machine.execCpyg w s
  | .bar w => Sys2Proof.Machine.execBar w s
  | .bara w => Sys2Proof.Machine.execBara w s
  | .barw w => Sys2Proof.Machine.execBarw w s
  | .abinit w => Sys2Proof.Machine.execAbinit w s
  | .abarr w => Sys2Proof.Machine.execAbarr w s
  | .abwait w => Sys2Proof.Machine.execAbwait w s
  | .abort w => Sys2Proof.Machine.execAbort w s
  | .abchk w => Sys2Proof.Machine.execAbchk w s
  | .treeid w => Sys2Proof.Machine.execTreeid w s
  | .loophd w => Sys2Proof.Machine.execLoophd w s
  | .idone w => Sys2Proof.Machine.execIdone w s
  | .iput w => Sys2Proof.Machine.execIput w s
  | .launch w => Sys2Proof.Machine.execLaunch w s
  | .launchi w => Sys2Proof.Machine.execLaunchi w s
  | .garm w => Sys2Proof.Machine.execGarm w s
  | .cuew w => Sys2Proof.Machine.execCuew w s
  | .ropld w => Sys2Proof.Machine.execRopld w s
  | .ropdrop w => Sys2Proof.Machine.execRopdrop w s
  | .rop w => Sys2Proof.Machine.execRop w s
  | .ropr w => Sys2Proof.Machine.execRopr w s
  | .mpush w => Sys2Proof.Machine.execMpush w s
  | .melse w => Sys2Proof.Machine.execMelse w s
  | .mpop w => Sys2Proof.Machine.execMpop w s
  | .nmmodeOn w => Sys2Proof.Machine.execNmmodeOn w s
  | .nmmodeOff w => Sys2Proof.Machine.execNmmodeOff w s
  | .nmbc w => Sys2Proof.Machine.execNmbc w s
  | .nmzero w => Sys2Proof.Machine.execNmzero w s
  | .nmmac w => Sys2Proof.Machine.execNmmac w s
  | .nmrd w => Sys2Proof.Machine.execNmrd w s
  | .redgo w => Sys2Proof.Machine.execRedgo w s
  | .pghint w => Sys2Proof.Machine.execPghint w s
  | .clauseFetch gid split up => Sys2Proof.Machine.execClauseFetch gid split up s
  | .splitHoldEnd gid split => Sys2Proof.Machine.execSplitHoldEnd gid split s
  | .activeSetEnter gid => Sys2Proof.Machine.execActiveSetEnter gid s
  | .activeSetLeave gid => Sys2Proof.Machine.execActiveSetLeave gid s
  | .swapTimeout gid => Sys2Proof.Machine.execSwapTimeout gid s
  | .waitto gid split => Sys2Proof.Machine.execWaitto gid split s
  | .waittExpire gid split => Sys2Proof.Machine.execWaittExpire gid split s
  | .fenceComplete gid split => Sys2Proof.Machine.execFenceComplete gid split s
  | .fencesWindowClose gid split => Sys2Proof.Machine.execFencesWindowClose gid split s
  | .fencesRollback gid split => Sys2Proof.Machine.execFencesRollback gid split s
  | .loadPerform ref src up => Sys2Proof.Machine.execLoadPerform ref src up s
  | .guestCopyFill pkg ctx line lease => Sys2Proof.Machine.execGuestCopyFill pkg ctx line lease s
  | .guestCopyExpire pkg ctx line => Sys2Proof.Machine.execGuestCopyExpire pkg ctx line s
  | .l1PrefetchFill pkg core line => Sys2Proof.Machine.execL1PrefetchFill pkg core line s
  | .loadDeliver op => Sys2Proof.Machine.execLoadDeliver op s
  | .writePerform ref up => Sys2Proof.Machine.execWritePerform ref up s
  | .atomicExecute op lane => Sys2Proof.Machine.execAtomicExecute op lane s
  | .ctReturn op => Sys2Proof.Machine.execCtReturn op s
  | .matrixStepComplete step => Sys2Proof.Machine.execMatrixStepComplete step s
  | .engineOpComplete op => Sys2Proof.Machine.execEngineOpComplete op s
  | .redgoExecute op => Sys2Proof.Machine.execRedgoExecute op s
  | .redgoFlagWrite op => Sys2Proof.Machine.execRedgoFlagWrite op s
  | .baseDieLinkFail pkg link => Sys2Proof.Machine.execBaseDieLinkFail pkg link s
  | .ropGranule op => Sys2Proof.Machine.execRopGranule op s
  | .ropCombine earlier later => Sys2Proof.Machine.execRopCombine earlier later s
  | .ropAck op => Sys2Proof.Machine.execRopAck op s
  | .wingsAppend op => Sys2Proof.Machine.execWingsAppend op s
  | .nmCommandExecute op => Sys2Proof.Machine.execNmCommandExecute op s
  | .nmSessionTimeout pkg pch => Sys2Proof.Machine.execNmSessionTimeout pkg pch s
  | .definitionLoaded op => Sys2Proof.Machine.execDefinitionLoaded op s
  | .definitionDropped op => Sys2Proof.Machine.execDefinitionDropped op s
  | .groupPlace inst rank pkg core => Sys2Proof.Machine.execGroupPlace inst rank pkg core s
  | .groupRetire gid => Sys2Proof.Machine.execGroupRetire gid s
  | .groupSave gid => Sys2Proof.Machine.execGroupSave gid s
  | .groupRestore gid core => Sys2Proof.Machine.execGroupRestore gid core s
  | .nodeMove inst level node core => Sys2Proof.Machine.execNodeMove inst level node core s
  | .launchVerify inst area => Sys2Proof.Machine.execLaunchVerify inst area s
  | .instanceComplete inst => Sys2Proof.Machine.execInstanceComplete inst s
  | .queueEntryTake pkg ctx q => Sys2Proof.Machine.execQueueEntryTake pkg ctx q s
  | .watcherNotify pkg ctx q => Sys2Proof.Machine.execWatcherNotify pkg ctx q s
  | .prompterChoose pkg ctx q => Sys2Proof.Machine.execPrompterChoose pkg ctx q s
  | .kernelNode pkg ctx q => Sys2Proof.Machine.execKernelNode pkg ctx q s
  | .copyNode pkg ctx q => Sys2Proof.Machine.execCopyNode pkg ctx q s
  | .waitcueNode pkg ctx q => Sys2Proof.Machine.execWaitcueNode pkg ctx q s
  | .setcueNode pkg ctx q => Sys2Proof.Machine.execSetcueNode pkg ctx q s
  | .condNode pkg ctx q => Sys2Proof.Machine.execCondNode pkg ctx q s
  | .whileNode pkg ctx q => Sys2Proof.Machine.execWhileNode pkg ctx q s
  | .joinNode pkg ctx q => Sys2Proof.Machine.execJoinNode pkg ctx q s
  | .endNode pkg ctx q => Sys2Proof.Machine.execEndNode pkg ctx q s
  | .effprioAge pkg ctx q => Sys2Proof.Machine.execEffprioAge pkg ctx q s
  | .ctxCmdBad pkg op ctx => Sys2Proof.Machine.execCtxCmdBad pkg op ctx s
  | .contextFault pkg ctx up => Sys2Proof.Machine.execContextFault pkg ctx up s
  | .packageUnreachable pkg target => Sys2Proof.Machine.execPackageUnreachable pkg target s
  | .key pkg ctx digest key xfer iv => Sys2Proof.Machine.execKey pkg ctx digest key xfer iv s
  | .getCtxmeas pkg ctx nonce => Sys2Proof.Machine.execGetCtxmeas pkg ctx nonce s
  | .challenge pkg nonce => Sys2Proof.Machine.execChallenge pkg nonce s
  | .tdispError pkg cause => Sys2Proof.Machine.execTdispError pkg cause s
  | .hostRead pkg win off len tlp => Sys2Proof.Machine.execHostRead pkg win off len tlp s
  | .hostWrite pkg win off bytes tlp => Sys2Proof.Machine.execHostWrite pkg win off bytes tlp s
  | .hostAtomicop pkg win off width kind operand compare tlp => Sys2Proof.Machine.execHostAtomicop pkg win off width kind operand compare tlp s
  | .cpygExecute op => Sys2Proof.Machine.execCpygExecute op s
  | .pgCmdBad pkg op => Sys2Proof.Machine.execPgCmdBad pkg op s
  | .migrationSwitch pkg ctx va => Sys2Proof.Machine.execMigrationSwitch pkg ctx va s
  | .train pkg port => Sys2Proof.Machine.execTrain pkg port s
  | .disable pkg port => Sys2Proof.Machine.execDisable pkg port s
  | .portTrained pkg port result => Sys2Proof.Machine.execPortTrained pkg port result s
  | .portTrainTimeout pkg port => Sys2Proof.Machine.execPortTrainTimeout pkg port s
  | .laneLost pkg port lanes => Sys2Proof.Machine.execLaneLost pkg port lanes s
  | .flitReplay pkg port corrected => Sys2Proof.Machine.execFlitReplay pkg port corrected s
  | .fieldRamp pkg fld => Sys2Proof.Machine.execFieldRamp pkg fld s
  | .fieldOn pkg fld => Sys2Proof.Machine.execFieldOn pkg fld s
  | .fieldRampTimeout pkg fld => Sys2Proof.Machine.execFieldRampTimeout pkg fld s
  | .overcurrent pkg fld => Sys2Proof.Machine.execOvercurrent pkg fld s
  | .pcieLinkTraining pkg rate width flit => Sys2Proof.Machine.execPcieLinkTraining pkg rate width flit s
  | .cbaGrant pkg draws grants => Sys2Proof.Machine.execCbaGrant pkg draws grants s
  | .registerWrite pkg off width value => Sys2Proof.Machine.execRegisterWrite pkg off width value s
  | .unassignedOpcode w => Sys2Proof.Machine.execUnassignedOpcode w s
  | .ideKm pkg stream secure => Sys2Proof.Machine.execIdeKm pkg stream secure s
  | .getVersion => Sys2Proof.Machine.execGetVersion s
  | .getCapabilities => Sys2Proof.Machine.execGetCapabilities s
  | .negotiateAlgorithms => Sys2Proof.Machine.execNegotiateAlgorithms s
  | .getDigests => Sys2Proof.Machine.execGetDigests s
  | .getCertificate => Sys2Proof.Machine.execGetCertificate s
  | .getMeasurements => Sys2Proof.Machine.execGetMeasurements s
  | .keyExchange => Sys2Proof.Machine.execKeyExchange s
  | .finish => Sys2Proof.Machine.execFinish s
  | .endSession => Sys2Proof.Machine.execEndSession s
  | .lockInterfaceRequest => Sys2Proof.Machine.execLockInterfaceRequest s
  | .startInterfaceRequest => Sys2Proof.Machine.execStartInterfaceRequest s
  | .stopInterfaceRequest => Sys2Proof.Machine.execStopInterfaceRequest s
  | .map => Sys2Proof.Machine.execMap s
  | .unmap => Sys2Proof.Machine.execUnmap s
  | .migrate => Sys2Proof.Machine.execMigrate s
  | .retire => Sys2Proof.Machine.execRetire s
  | .deny => Sys2Proof.Machine.execDeny s
  | .moduleReset => Sys2Proof.Machine.execModuleReset s
  | .baseDieLinkTraining => Sys2Proof.Machine.execBaseDieLinkTraining s
  | .hbmTraining => Sys2Proof.Machine.execHbmTraining s
  | .create => Sys2Proof.Machine.execCreate s
  | .measure => Sys2Proof.Machine.execMeasure s
  | .admitCtx => Sys2Proof.Machine.execAdmit s
  | .run => Sys2Proof.Machine.execRun s
  | .stop => Sys2Proof.Machine.execStop s
  | .evict => Sys2Proof.Machine.execEvict s
  | .clear => Sys2Proof.Machine.execClear s
  | .teardown => Sys2Proof.Machine.execTeardown s
  | .peer => Sys2Proof.Machine.execPeer s
  | .faultRecordPost => Sys2Proof.Machine.execFaultRecordPost s

end Sys2Proof.Machine
end

