-- ==== Sys2Proof/Machine/Move.lean ====
section
/-! DEFINITION. One move of an agent: the time that passes before it, with the waits that count it (R120), the word an issuing split stands at, and the move that free values choose (log entry 3). -/

namespace Sys2Proof.Machine

open Sys2Proof

/-! ## Time (R4, R120, R203, R318) -/

/-- An instruction blocked in place would block again: its wait stands. -/
def blockStands (s : State) (gid : Nat) (sp : Split) : Bool :=
  match issueWord s gid sp.id with
  | none => false
  | some w =>
    match exec (decode w) { s with cur := some (gid, sp.id) } with
    | .next t =>
      match (t.group? gid).bind (fun g => g.split? sp.id) with
      | some q => q.wait.isSome && q.hdr == sp.hdr && q.idx == sp.idx && q.clause == sp.clause
      | none => false
    | _ => false

/-- A wait at the clause boundary stands: its barrier is open, or its clause still waits; that of a held split does not
(R203). -/
def boundaryStands (s : State) (x : Iss) : Bool :=
  !heldBack s x.g x.k x.sp &&
    match x.sp.bar with
    | some b => (endBoundaryWait s x b).isNone
    | none =>
      match fetchClause s x with
      | .ok h ws => (boundaryWait s x h ws).isSome
      | _ => false

/-- The wait of a split goes on, and no translation fault holds what it is for (R120, R400). -/
def waitStands (s : State) (g : Group) (sp : Split) : Bool :=
  match sp.wait, s.inst? g.inst with
  | some w, some k =>
    !waitHeld s g k sp w && (if w.boundary then boundaryStands s { g := g, sp := sp, k := k } else blockStands s g.id sp)
  | _, _ => false

/-- A group's share of some cycles: its waits that stand count them, and so does the readiness of a RESIDENT group. -/
def passGroup (before after : State) (dc : Nat) (g : Group) : Group :=
  let g' : Group := if g.counting then { g with splits := g.splits.map (fun sp => if waitStands after g sp then sp.countWait dc else sp) } else g
  if g.state = .resident then { g' with readyCyc := if groupReady before g then g.readyCyc + dc else 0 } else g'

/-- Time passes (R4, R120, R216, R318): dt ticks, and in each field the cycles of its own clock. -/
def passTime (s : State) (dt dc : Nat) (slow : List (Nat × Nat × Nat)) : State :=
  let t := passClocks s dt dc slow
  { t with groups := t.groups.map (fun g => passGroup s t (clockOf dc slow g.pkg (fieldOf g.core)) g) }

/-- The time of a move passes. -/
def Move.pass (m : Move) (s : State) : State := passTime s m.ticks m.cycles m.slow

/-! ## One move -/

/-- What follows a move in the same step: the device's writes that an unpin or a link lets go (R168, R421), the waits that have
ended (R342, R349), the groups that give up their places (R318), the images of saved objects (R350), and the commands under
way (R272, R394). -/
def settledState (t : State) : State := settleCmds (settleRecs (settleGroups (settleAll (writeHeldOnes t))))

def settled (o : Host.Outcome State Fault Refusal) : Host.Outcome State Fault Refusal :=
  match o with
  | .next t => .next (settledState t)
  | .fault f => .fault f
  | .refused r => .refused r

/-- The split's wait has reached its limit: it takes WAITTO before it issues again (R120). -/
def overWaited (s : State) (gid sp : Nat) : Bool :=
  match s.group? gid with
  | some g =>
    match g.split? sp with
    | some q => (waitDue g q).isSome
    | none => false
  | none => false

/-- One move (log entry 3): its ticks and cycles pass, and its agent acts.  An issuing split runs the word it
stands at, decoded, but takes WAITTO where its wait has reached the limit (R120); where it cannot issue (R317) only the
time passes; a module with a FAILED field is unusable (R423). -/
def runMove (s : State) (m : Move) : Host.Outcome State Fault Refusal :=
  let t := settleCmds (m.pass s)
  match m.act with
  | .idle => .next t
  | .hostFill a bs => .next (fillHost t a bs)
  | .softError p c va kind gid up => settled (ifEnabled (softError t p c va kind gid up))
  | .stageFail p => ifEnabled (stageFail t p)
  | .readAhead i us => ifEnabled (readAhead t i us)
  | .restDraw p w => ifEnabled (restDraw t p w)
  | .event i => settled (exec i { t with cur := none, focus := (m.pkg, m.ctx) })
  | .issue gid sp =>
    match issueWord t gid sp with
    | none => settled (.next t)
    | some w =>
      if groupUnusable t gid then .fault .moduleUnusable
      else if overWaited t gid sp then settled (ifEnabled (waitto t gid sp))
      else if (issuer { t with cur := some (gid, sp) }).isNone then settled (.next t)
      else settled (exec (decode w) { t with cur := some (gid, sp) })

/-- The move that free values choose (log entry 3). -/
def freeMove (n : Nat) : Move :=
  { ticks := (Config.freeTime n).1, cycles := (Config.freeTime n).2, act := Config.freeAct n, pkg := (Config.freeFocus n).1
    ctx := (Config.freeFocus n).2, slow := Config.freeSlow n }

end Sys2Proof.Machine
end

