-- ==== Sys2Proof/Machine/Step.lean ====
section
/-! DEFINITION. One step: the next move of the agenda, and the placing of one instruction for it. -/

namespace Sys2Proof.Machine

open Sys2Proof

/-- One step of the machine: the move at the head of the agenda; with none, a free one, which only lets its
time pass where it is not enabled (log entry 3). -/
def step (s : State) : Host.Outcome State Fault Refusal :=
  match s.agenda with
  | m :: rest => runMove { s with agenda := rest } m
  | [] =>
    let m := freeMove s.choiceCtr
    match runMove s.bumpChoice m with
    | .refused _ => .next (m.pass s.bumpChoice)
    | o => o

/-- s with one instruction, its bits above nbits zero, standing where the very next step fetches it: a bench
group of one split, in a context, an instance and a core of its own, whose clause holds the word (log entry 14). -/
def State.withFetchWord (s : State) (nbits w : Nat) : State := benchState s (BitVec.ofNat 64 (w % 2 ^ nbits))

end Sys2Proof.Machine
end

