-- ==== Sys2Proof/WellFormed.lean ====
section
/-! DEFINITION. Which instructions are well formed: a word's sub-opcode fields hold what R100 to R106 list, and a step of the device names agents that exist (R4, R20, R272, R285, R407, R411, R418). -/

namespace Sys2Proof

/-! ## Numbers of agents -/

/-- Package numbers (R4). -/
def pkgOk (n : Nat) : Bool := decide (n < 128)
/-- Context numbers (R270). -/
def ctxOk (n : Nat) : Bool := decide (n < 2048)
/-- Queue numbers (R285). -/
def queueOk (n : Nat) : Bool := decide (n < 64)
/-- Package core indices (R20). -/
def coreOk (n : Nat) : Bool := decide (n < 672)
/-- Pseudo-channels of a package (R20). -/
def pchOk (n : Nat) : Bool := decide (n < 768)
/-- Clekai ports of a package (R418). -/
def portOk (n : Nat) : Bool := decide (n < 64)
/-- Fields of a package (R20). -/
def fieldOk (n : Nat) : Bool := decide (n < 6)

/-- A lane that exists (R26). -/
def ReadRef.wf : ReadRef → Bool
  | .lane _ l => decide (l < laneCount)
  | .stepLine _ _ | .engUnit _ _ | .defUnit _ _ => true

def WriteRef.wf : WriteRef → Bool
  | .lane _ l => decide (l < laneCount)
  | .engUnit _ _ => true

/-- The opcodes that R100 to R106 assign. -/
def assignedRanges : List (Nat × Nat) :=
  [(0x001, 0x01C), (0x021, 0x023), (0x028, 0x02C), (0x02E, 0x032), (0x037, 0x037), (0x03A, 0x03C), (0x040, 0x048), (0x050, 0x055),
   (0x058, 0x05A), (0x060, 0x062), (0x064, 0x066), (0x068, 0x06E)]
  ++ [(0x080, 0x08A), (0x090, 0x093), (0x098, 0x09B), (0x0B0, 0x0B0), (0x0C0, 0x0DB), (0x0E0, 0x0FB), (0x100, 0x109), (0x110, 0x112),
   (0x118, 0x11A), (0x140, 0x145), (0x150, 0x158), (0x15C, 0x15C)]
  ++ [(0x180, 0x182), (0x184, 0x186), (0x188, 0x189), (0x18C, 0x191), (0x198, 0x199), (0x1C0, 0x1C3), (0x1C8, 0x1CA), (0x1D0, 0x1D4),
   (0x1D8, 0x1D8), (0x1DC, 0x1DC)]

/-- An opcode that R99 does not leave unassigned. -/
def assigned (op : Nat) : Bool := assignedRanges.any (fun r => decide (r.1 ≤ op) && decide (op ≤ r.2))

/-- The checks, constructor by constructor. -/
def wellFormed (i : Instr) : Bool :=
  match i with
  | .iadd _ => true
  | .iaddI _ => true
  | .isub _ => true
  | .isubI _ => true
  | .imul _ => true
  | .imulI _ => true
  | .imulh _ => true
  | .imad _ => true
  | .iabs _ => true
  | .ineg _ => true
  | .imin _ => true
  | .iminI _ => true
  | .imax _ => true
  | .imaxI _ => true
  | .and_ _ => true
  | .andI _ => true
  | .or_ _ => true
  | .orI _ => true
  | .xor_ _ => true
  | .xorI _ => true
  | .andn _ => true
  | .andnI _ => true
  | .not_ _ => true
  | .shl _ => true
  | .shlI _ => true
  | .shr _ => true
  | .shrI _ => true
  | .sar _ => true
  | .sarI _ => true
  | .rol _ => true
  | .rolI _ => true
  | .popc _ => true
  | .clz _ => true
  | .ctz _ => true
  | .brev _ => true
  | .bfx _ => true
  | .bfxI _ => true
  | .bfi _ => true
  | .sel _ => true
  | .icmp _ => true
  | .icmpI _ => true
  | .lea _ => true
  | .leaI _ => true
  | .mov _ => true
  | .movi _ => true
  | .fadd _ => true
  | .faddI _ => true
  | .fsub _ => true
  | .fsubI _ => true
  | .fmul _ => true
  | .fmulI _ => true
  | .ffma _ => true
  | .fmin _ => true
  | .fminI _ => true
  | .fmax _ => true
  | .fmaxI _ => true
  | .fcmp _ => true
  | .fcmpI _ => true
  | .fclass _ => true
  | .frnd _ => true
  | .dadd _ => true
  | .dmul _ => true
  | .dfma _ => true
  | .dmin _ => true
  | .dmax _ => true
  | .dcmp _ => true
  | .badd2 _ => true
  | .bmul2 _ => true
  | .bfma2 _ => true
  | .fcvt dst _ => decide (dst.toNat < 7)
  | .rcp _ => true
  | .rsq _ => true
  | .sqrt _ => true
  | .fdiv _ => true
  | .exp2 _ => true
  | .log2 _ => true
  | .exp _ => true
  | .log _ => true
  | .sin _ => true
  | .cos _ => true
  | .tanh _ => true
  | .shfl _ => true
  | .shflI _ => true
  | .vote _ => true
  | .lred _ => true
  | .lscan _ => true
  | .pand _ => true
  | .por _ => true
  | .pnot _ => true
  | .pcnt _ => true
  | .ld ty _ => decide (ty.toNat < 10)
  | .ldc _ => true
  | .pref _ => true
  | .fence _ => true
  | .fences _ => true
  | .lda _ => true
  | .sta _ => true
  | .st ty _ => decide (ty.toNat < 10)
  | .tiledef _ => true
  | .tilerel _ => true
  | .atom _ _ => true
  | .red op _ => decide (op.toNat < 12)
  | .bra _ => true
  | .brx _ => true
  | .jmpt _ => true
  | .call _ => true
  | .calli _ => true
  | .ret _ => true
  | .exit _ => true
  | .rte _ => true
  | .rgn _ => true
  | .trap _ => true
  | .nop _ => true
  | .waitt w => !w.mod.getLsbD 0
  | .waittD w => w.mod.getLsbD 0
  | .yield _ => true
  | .srd _ => true
  | .swr _ => true
  | .clkTb w => !w.mod.getLsbD 0
  | .clkCyc w => w.mod.getLsbD 0
  | .mma _ => true
  | .mmas _ => true
  | .mcommit _ => true
  | .mwait _ => true
  | .mzero _ => true
  | .mst _ => true
  | .cpy _ => true
  | .cpy2d _ => true
  | .tld _ => true
  | .tst _ => true
  | .gath _ => true
  | .scat _ => true
  | .rowpub _ => true
  | .ewait _ => true
  | .coll _ => true
  | .cpyg _ => true
  | .bar _ => true
  | .bara _ => true
  | .barw _ => true
  | .abinit _ => true
  | .abarr _ => true
  | .abwait _ => true
  | .abort _ => true
  | .abchk _ => true
  | .treeid _ => true
  | .loophd _ => true
  | .idone _ => true
  | .iput _ => true
  | .launch _ => true
  | .launchi _ => true
  | .garm _ => true
  | .cuew _ => true
  | .ropld _ => true
  | .ropdrop _ => true
  | .rop _ => true
  | .ropr _ => true
  | .mpush _ => true
  | .melse _ => true
  | .mpop _ => true
  | .nmmodeOn w => w.mod.getLsbD 0
  | .nmmodeOff w => !w.mod.getLsbD 0
  | .nmbc _ => true
  | .nmzero _ => true
  | .nmmac _ => true
  | .nmrd _ => true
  | .redgo _ => true
  | .pghint _ => true
  | .clauseFetch _ _ _ => true
  | .splitHoldEnd _ _ => true
  | .activeSetEnter _ => true
  | .activeSetLeave _ => true
  | .swapTimeout _ => true
  | .waitto _ _ => true
  | .waittExpire _ _ => true
  | .fenceComplete _ _ => true
  | .fencesWindowClose _ _ => true
  | .fencesRollback _ _ => true
  | .loadPerform ref _ _ => ref.wf
  | .guestCopyFill pkg ctx _ _ => pkgOk pkg && ctxOk ctx
  | .guestCopyExpire pkg ctx _ => pkgOk pkg && ctxOk ctx
  | .l1PrefetchFill pkg core _ => pkgOk pkg && coreOk core
  | .loadDeliver _ => true
  | .writePerform ref _ => ref.wf
  | .atomicExecute _ lane => decide (lane < 96)
  | .ctReturn _ => true
  | .matrixStepComplete _ => true
  | .engineOpComplete _ => true
  | .redgoExecute _ => true
  | .redgoFlagWrite _ => true
  | .baseDieLinkFail pkg link => pkgOk pkg && decide (link < 11)
  | .ropGranule _ => true
  | .ropCombine _ _ => true
  | .ropAck _ => true
  | .wingsAppend _ => true
  | .nmCommandExecute _ => true
  | .nmSessionTimeout pkg pch => pkgOk pkg && pchOk pch
  | .definitionLoaded _ => true
  | .definitionDropped _ => true
  | .groupPlace _ _ pkg core => pkgOk pkg && coreOk core
  | .groupRetire _ => true
  | .groupSave _ => true
  | .groupRestore _ core => coreOk core
  | .nodeMove _ level _ core => decide (level < 14) && coreOk core
  | .launchVerify _ _ => true
  | .instanceComplete _ => true
  | .queueEntryTake pkg ctx q => pkgOk pkg && ctxOk ctx && queueOk q
  | .watcherNotify pkg ctx q => pkgOk pkg && ctxOk ctx && queueOk q
  | .prompterChoose pkg ctx q => pkgOk pkg && ctxOk ctx && queueOk q
  | .kernelNode pkg ctx q => pkgOk pkg && ctxOk ctx && queueOk q
  | .copyNode pkg ctx q => pkgOk pkg && ctxOk ctx && queueOk q
  | .waitcueNode pkg ctx q => pkgOk pkg && ctxOk ctx && queueOk q
  | .setcueNode pkg ctx q => pkgOk pkg && ctxOk ctx && queueOk q
  | .condNode pkg ctx q => pkgOk pkg && ctxOk ctx && queueOk q
  | .whileNode pkg ctx q => pkgOk pkg && ctxOk ctx && queueOk q
  | .joinNode pkg ctx q => pkgOk pkg && ctxOk ctx && queueOk q
  | .endNode pkg ctx q => pkgOk pkg && ctxOk ctx && queueOk q
  | .effprioAge pkg ctx q => pkgOk pkg && ctxOk ctx && queueOk q
  | .ctxCmdBad pkg op ctx => pkgOk pkg && decide (op < 16) && ctxOk ctx
  | .contextFault pkg ctx _ => pkgOk pkg && ctxOk ctx
  | .packageUnreachable pkg target => pkgOk pkg && pkgOk target
  | .key pkg ctx digest _ _ _ => pkgOk pkg && ctxOk ctx && decide (digest.length = 48)
  | .getCtxmeas pkg ctx nonce => pkgOk pkg && ctxOk ctx && decide (nonce.length = 32)
  | .challenge pkg nonce => pkgOk pkg && decide (nonce.length = 32)
  | .tdispError pkg _ => pkgOk pkg
  | .hostRead pkg win _ len _ => pkgOk pkg && decide (win < 16) && decide (0 < len)
  | .hostWrite pkg win _ bytes _ => pkgOk pkg && decide (win < 16) && decide (bytes ≠ [])
  | .hostAtomicop pkg win _ width _ _ _ _ => pkgOk pkg && decide (win < 16) && (width == 4 || width == 8)
  | .cpygExecute _ => true
  | .pgCmdBad pkg op => pkgOk pkg && decide (op < 16)
  | .migrationSwitch pkg ctx _ => pkgOk pkg && ctxOk ctx
  | .train pkg port => pkgOk pkg && portOk port
  | .disable pkg port => pkgOk pkg && portOk port
  | .portTrained pkg port _ => pkgOk pkg && portOk port
  | .portTrainTimeout pkg port => pkgOk pkg && portOk port
  | .laneLost pkg port lanes => pkgOk pkg && portOk port && decide (0 < lanes)
  | .flitReplay pkg port _ => pkgOk pkg && portOk port
  | .fieldRamp pkg fld => pkgOk pkg && fieldOk fld
  | .fieldOn pkg fld => pkgOk pkg && fieldOk fld
  | .fieldRampTimeout pkg fld => pkgOk pkg && fieldOk fld
  | .overcurrent pkg fld => pkgOk pkg && fieldOk fld
  | .pcieLinkTraining pkg rate width _ => pkgOk pkg && decide (rate < 8) && decide (width < 4)
  | .cbaGrant pkg _ _ => pkgOk pkg
  | .registerWrite pkg _ width value => pkgOk pkg && (width == 4 || width == 8) && decide (value < 256 ^ width)
  | .unassignedOpcode w => !assigned (w.toNat / 2 ^ 55)
  | .ideKm pkg stream _ => pkgOk pkg && decide (stream < 5)
  | .getVersion => true
  | .getCapabilities => true
  | .negotiateAlgorithms => true
  | .getDigests => true
  | .getCertificate => true
  | .getMeasurements => true
  | .keyExchange => true
  | .finish => true
  | .endSession => true
  | .lockInterfaceRequest => true
  | .startInterfaceRequest => true
  | .stopInterfaceRequest => true
  | .map => true
  | .unmap => true
  | .migrate => true
  | .retire => true
  | .deny => true
  | .moduleReset => true
  | .baseDieLinkTraining => true
  | .hbmTraining => true
  | .create => true
  | .measure => true
  | .admitCtx => true
  | .run => true
  | .stop => true
  | .evict => true
  | .clear => true
  | .teardown => true
  | .peer => true
  | .faultRecordPost => true

/-- An instruction that a word, or an agent of the device, can stand for. -/
abbrev WellFormed (i : Instr) : Prop := wellFormed i = true

end Sys2Proof
end

