-- ==== Sys2Proof/Safety.lean ====
section
/-! DEFINITION. The terms the statements are written in: when an instruction executes (R97), what a register reads as, what an instruction leaves unchanged, and the invariants of the state. -/

namespace Sys2Proof.Machine

open Sys2Proof

/-! ## When an instruction executes (R97, R113, R117 to R119, R155) -/

/-- The checks of R97 let the issuing split execute an instruction of form f, its acting lanes being act: the word and
its operands are legal, the guard's registers and every source are FULL, no destination is PENDING, some lane acts or
the instruction is a mask write, and no FENCES window holds it. -/
def ready (x : Iss) (f : Form) (act : Mask) : Bool :=
  !windowStalls x f && !f.illop && f.illopd x.k == none && srcEmpty x.g (guardRegs f.g) false == .ready
    && srcsEmpty x.g (f.srcs x.k) == .ready && firstIn x.g (f.dsts x.k) .pending == none
    && act == actMask x f && (act != 0 || maskWrite x f)

/-- The split x issues in s, and the instruction executes in the lanes act. -/
def Runs (s : State) (x : Iss) (f : Form) (act : Mask) : Prop := issuer s = some x ∧ ready x f act = true

/-- After the instruction: n registers from operand d up hold v's words in the acting lanes, and the split stands at
the next word. -/
def wrote (s : State) (x : Iss) (f : Form) (act : Mask) (d n : Nat) (v : Nat → Nat) : State :=
  finish (putWords s x.g.id x.sp.id d act act.lowest v n) x f

/-- The same for a predicate's bits. -/
def wrotePred (s : State) (x : Iss) (f : Form) (act : Mask) (d : Nat) (v : Nat → Bool) : State :=
  finish (putPred s x.g.id x.sp.id d act v) x f

/-- A comparison's result: predicate bits, or words of ones and zeros (R180). -/
def wroteCmp (s : State) (x : Iss) (f : Form) (act : Mask) (word : Bool) (d : Nat) (v : Nat → Bool) : State :=
  if word then wrote s x f act d 1 (fun i => if v i then 0xFFFFFFFF else 0) else wrotePred s x f act d v

/-- The lanes' addresses pass the checks of R220: aligned, routed, and on no locked line. -/
def addrsOk (s : State) (x : Iss) (wm : Nat) (onlyW : Bool) (la : List (Nat × Nat)) : Bool :=
  la.all (fun p => p.2 % wm == 0 && (routeOf s x.g.pkg x.g.ctx p.2).isSome && !rltHit s x.g.pkg x.g.core p.2 onlyW)

/-! ## Operands of the compute instructions, by the operand width of their TYPE -/

/-- A, B and C of an integer instruction as the integers their type reads (R177). -/
def intA (x : Iss) (w : FmtA) (l : Nat) : Int := readInt x (typeOf w.mod) w.a.toNat l
def intB (x : Iss) (w : FmtA) (l : Nat) : Int := readInt x (typeOf w.mod) w.b.toNat l
def intC (x : Iss) (w : FmtA) (l : Nat) : Int := readInt x (typeOf w.mod) w.c.toNat l
/-- A of an I form, and its immediate sign-extended (R91). -/
def intAI (x : Iss) (w : FmtI) (l : Nat) : Int := readInt x (typeOf w.mod) w.a.toNat l
def intImm (w : FmtI) : Int := asInt (typeOf w.mod) (immS (typeOf w.mod) w.imm)

/-- The bit patterns of A, B and C (R178). -/
def patA (x : Iss) (w : FmtA) (l : Nat) : Nat := readNat x (tyWide (typeOf w.mod)) w.a.toNat l
def patB (x : Iss) (w : FmtA) (l : Nat) : Nat := readNat x (tyWide (typeOf w.mod)) w.b.toNat l
def patAI (x : Iss) (w : FmtI) (l : Nat) : Nat := readNat x (tyWide (typeOf w.mod)) w.a.toNat l

/-- An exact integer result: clamped to the type's range with .sat, its low bits stored (R177). -/
def wroteInt (s : State) (x : Iss) (f : Form) (act : Mask) (w : FmtA) (v : Nat → Int) : State :=
  wrote s x f act w.d.toNat (tyRegs (typeOf w.mod)) (fun l => intResult (typeOf w.mod) (w.mod.getLsbD 0) (v l))
def wroteIntI (s : State) (x : Iss) (f : Form) (act : Mask) (w : FmtI) (v : Nat → Int) : State :=
  wrote s x f act w.d.toNat (tyRegs (typeOf w.mod)) (fun l => intResult (typeOf w.mod) (w.mod.getLsbD 0) (v l))

/-- A bit pattern's low bits stored. -/
def wroteBits (s : State) (x : Iss) (f : Form) (act : Mask) (w : FmtA) (v : Nat → Nat) : State :=
  wrote s x f act w.d.toNat (tyRegs (typeOf w.mod)) (fun l => v l % 2 ^ tyBits (typeOf w.mod))
def wroteBitsI (s : State) (x : Iss) (f : Form) (act : Mask) (w : FmtI) (v : Nat → Nat) : State :=
  wrote s x f act w.d.toNat (tyRegs (typeOf w.mod)) (fun l => v l % 2 ^ tyBits (typeOf w.mod))

/-- An FP32 result, rounded in the mode of MOD[2:0] and held to [0, 1] with .sat (R183). -/
def wroteF32 (s : State) (x : Iss) (f : Form) (act : Mask) (w : FmtA) (v : Nat → FVal) : State :=
  wrote s x f act w.d.toNat 1 (fun l => outF32 (rmode (rndOf w.mod) 0) (w.mod.getLsbD 3) (v l))
def wroteF32I (s : State) (x : Iss) (f : Form) (act : Mask) (w : FmtI) (v : Nat → FVal) : State :=
  wrote s x f act w.d.toNat 1 (fun l => outF32 (rmode (rndOf w.mod) 0) (w.mod.getLsbD 3) (v l))

/-! ## Conditions of the other instructions -/

/-- LDC's lanes pass its checks (R224): aligned, inside the constant area, and on no locked line. -/
def constsOk (s : State) (x : Iss) (la : List (Nat × Nat)) : Bool :=
  la.all (fun p => p.2 % 4 == 0 && decide (p.2 < x.k.csize) && !rltHit s x.g.pkg x.g.core (x.k.cbase + p.2) true)

/-- Each lane of the mask goes to its destination, the acting ones as dest says and the rest to the fall-through: d0 the
lowest lane's, others the further distinct ones, in a transfer that neither SPLITOV nor a FENCES window stops (R200, R201). -/
def Sends (x : Iss) (act : Mask) (dest : Nat → Nat) (d0 : Nat) (others : List Nat) : Prop :=
  distinct (x.sp.mask.lanes.map (fun i => if act.getLsbD i then dest i else x.sp.fall)) = d0 :: others
    ∧ x.g.splits.length + others.length ≤ 4 ∧ (x.sp.window = none ∨ others = [])

/-- The state after such a transfer: the issuing split at d0, a new split at each of the others. -/
def sent (s : State) (x : Iss) (act : Mask) (dest : Nat → Nat) (d0 : Nat) (others : List Nat) : State :=
  place s x (fun i => if act.getLsbD i then dest i else x.sp.fall) d0 others

/-- The tile that an operand names may be read: named legally, neither empty nor being filled (R131, R132). -/
def tileReads (s : State) (x : Iss) (n : Nat) : Bool :=
  let t := tileOf s x (tileEntry x n)
  tileLegal x t && t.state != .empty && t.state != .filling

/-- The tile that an operand names may be written: named legally, neither being filled nor drained. -/
def tileWrites (s : State) (x : Iss) (n : Nat) : Bool :=
  let t := tileOf s x (tileEntry x n)
  tileLegal x t && t.state != .filling && t.state != .draining

/-- A matrix operand passes R242 and R243: memory, or a tile of the format that may be read, in the orientation its
format admits, with every element inside. -/
def stepOperandOk (s : State) (x : Iss) (n fmt : Nat) (badOr : Bool) (mx : Nat × Nat) (any : Bool) : Bool :=
  let t := tileOf s x (tileEntry x n)
  !isTile n || (tileReads s x n && t.fmt == fmt && !(isScaled fmt && badOr) && !(any && (decide (t.nrows ≤ mx.1) || decide (t.elems ≤ mx.2))))

/-- The tile entry of an operand, where it is a tile. -/
def operandEntry (x : Iss) (n : Nat) : Option Nat := if isTile n then some (tileEntry x n) else none

/-- Values are multiples of m. -/
def aligned (m : Nat) (l : List Nat) : Bool := l.all (fun v => v % m == 0)

/-- Ranges are canonical and each inside one placement range (R237 step 4). -/
def rangesOk (s : State) (x : Iss) (l : List Range) : Bool := l.all (rangeOk s x)

/-- The addresses that a matrix step reads from memory: alignment and ranges (R237 steps 3 and 4). -/
def stepAligned (x : Iss) (w : FmtA) (d : StepDesc) (c : Nat) : Bool :=
  (isTile w.a.toNat || aligned (classBytes c) [addrVal x w.a.toNat, d.aplace])
    && (isTile w.b.toNat || aligned (classBytes c) [addrVal x w.b.toNat, d.bplace]) && (d.sparse != 1 || d.metaVa % 16 == 0)
def stepRanges (x : Iss) (w : FmtA) (d : StepDesc) (c : Nat) : List Range :=
  (if isTile w.a.toNat then [] else [(addrVal x w.a.toNat, aSpan d (classBytes c))])
    ++ (if isTile w.b.toNat then [] else [(addrVal x w.b.toNat, bSpan d (classBytes c))])
    ++ (if d.sparse = 1 then [(d.metaVa, metaSpan d)] else [])

/-- A matrix step may issue: its descriptor, view, operands, the step limit and the range-lock table admit it (R237,
R240 to R249). -/
def stepOk (s : State) (x : Iss) (w : FmtA) (d : StepDesc) (c : Nat) : Bool :=
  d.illop x w == some c && (viewOf (viewWord x.k w.d.toNat)).type == classType c && stepAligned x w d c
    && rangesOk s x (stepRanges x w d c) && stepOperandOk s x w.a.toNat d.afmt d.aor (aTileMax d c) true
    && stepOperandOk s x w.b.toNat d.bfmt (!d.bor) (bTileMax d) (d.ks != 0)
    && viewJoins s x (viewOf (viewWord x.k w.d.toNat)).regs && decide ((stepsOf s x.g.id).length < 8)
    && rltWait s x (rltEntries 0 (stepRanges x w d c) []) == none

/-- A near-memory command's address lies on its package's own memory-homed single channel (R379). -/
def nmSiteOk (s : State) (x : Iss) (va : Nat) : Bool :=
  match routeOf s x.g.pkg x.g.ctx va with
  | some e => e.mh && e.log2n == 0 && e.home == x.g.pkg
  | none => false

/-- A remote opcode's target passes steps 3 to 6 of R365. -/
def ropSiteOk (s : State) (x : Iss) (va : Nat) (img : DefImage) : Bool :=
  match routeOf s x.g.pkg x.g.ctx va with
  | some e =>
    va % 128 == 0 && (footprint img e.period va).all (fun a => decide (a < 2 ^ 64) && routeOf s x.g.pkg x.g.ctx a == some e)
      && e.mh == defChannel img && (footprint img e.period va).all (fun a => !rltHit s x.g.pkg x.g.core a false)
  | none => false

/-- A launch's words pass checks 2 to 4 of R312. -/
def launchOk (s : State) (x : Iss) (a : LaunchArgs) : Bool :=
  (launchWords a).all (fun p => p.1 % 4 == 0 && (routeOf s x.g.pkg x.g.ctx p.1).isSome && !rltHit s x.g.pkg x.g.core p.1 p.2)

/-- The split holds no wait, no FENCES window and no handler: it is in its kernel's plain code. -/
def plainSplit (x : Iss) : Bool := x.sp.window.isNone && x.sp.bar.isNone && !x.sp.inHandler

/-! ## What a state shows -/

/-- The word that operand register n of a group holds in a lane: a vector's, or a scalar's; none where the group has
no such register. -/
def State.regWord (s : State) (gid n lane : Nat) : Option Word :=
  match s.group? gid with
  | none => none
  | some g => if n < 640 then (g.vregs[n]?).bind (fun v => v.lanes[lane]?) else (g.sregs[n - 640]?).map (fun r => r.val)

/-- Every byte of the device's memory and of host memory reads as before. -/
def sameMemory (s t : State) : Prop :=
  (∀ a, Memory.read t.mem a = Memory.read s.mem a) ∧ (∀ a, Memory.read t.hostMem a = Memory.read s.hostMem a)

/-- Everything but the groups, the instances and the cores is as it was. -/
def sameRest (s t : State) : Prop :=
  sameMemory s t ∧ t.tick = s.tick ∧ t.poison = s.poison ∧ t.order = s.order ∧ t.guests = s.guests ∧ t.pkgs = s.pkgs
    ∧ t.ctxs = s.ctxs ∧ t.pages = s.pages ∧ t.sessions = s.sessions ∧ t.loads = s.loads ∧ t.writes = s.writes ∧ t.rops = s.rops
    ∧ t.nms = s.nms ∧ t.engs = s.engs ∧ t.defOps = s.defOps

/-- Every group but one is as it was. -/
def sameOthers (gid : Nat) (s t : State) : Prop :=
  t.groups.filter (fun g => g.id != gid) = s.groups.filter (fun g => g.id != gid)

/-! ## Invariants of the state -/

/-- Device memory and host memory have their canonical form. -/
def MemCanonical (s : State) : Prop := Memory.wf s.mem = true ∧ Memory.wf s.hostMem = true

end Sys2Proof.Machine
end

