-- ==== Sys2Proof/Certificates/Slice0/Obligations.lean ====
section
/-! DEFINITION. The statements for the provers, each named for what it states. -/

open Sys2Proof Sys2Proof.Machine

/-! ## The compute instructions complete with the results of their rules -/

/-- R177: the exact integer result of IADD, ISUB, IMUL, IMULH, IMAD, IABS, INEG, IMIN and IMAX, and of their I forms,
wrapped or clamped once, in every acting lane. -/
def Obligations.IntegerArithmeticResults : Prop :=
  ∀ (s : State) (x : Iss) (act : Mask) (w : FmtA) (i : FmtI),
    (Runs s x (formIadd w) act → exec (.iadd w) s = .next (wroteInt s x (formIadd w) act w (fun l => intA x w l + intB x w l)))
    ∧ (Runs s x (formIsub w) act → exec (.isub w) s = .next (wroteInt s x (formIsub w) act w (fun l => intA x w l - intB x w l)))
    ∧ (Runs s x (formImul w) act → exec (.imul w) s = .next (wroteInt s x (formImul w) act w (fun l => intA x w l * intB x w l)))
    ∧ (Runs s x (formImulh w) act → exec (.imulh w) s =
        .next (wroteInt s x (formImulh w) act w (fun l => intA x w l * intB x w l / 2 ^ tyBits (typeOf w.mod))))
    ∧ (Runs s x (formImad w) act → exec (.imad w) s =
        .next (wroteInt s x (formImad w) act w (fun l => intA x w l * intB x w l + intC x w l)))
    ∧ (Runs s x (formIabs w) act → exec (.iabs w) s = .next (wroteInt s x (formIabs w) act w (fun l => (intA x w l).natAbs)))
    ∧ (Runs s x (formIneg w) act → exec (.ineg w) s = .next (wroteInt s x (formIneg w) act w (fun l => - intA x w l)))
    ∧ (Runs s x (formImin w) act → exec (.imin w) s = .next (wroteInt s x (formImin w) act w (fun l => min (intA x w l) (intB x w l))))
    ∧ (Runs s x (formImax w) act → exec (.imax w) s = .next (wroteInt s x (formImax w) act w (fun l => max (intA x w l) (intB x w l))))
    ∧ (Runs s x (formIaddI i) act → exec (.iaddI i) s = .next (wroteIntI s x (formIaddI i) act i (fun l => intAI x i l + intImm i)))
    ∧ (Runs s x (formIsubI i) act → exec (.isubI i) s = .next (wroteIntI s x (formIsubI i) act i (fun l => intAI x i l - intImm i)))
    ∧ (Runs s x (formImulI i) act → exec (.imulI i) s = .next (wroteIntI s x (formImulI i) act i (fun l => intAI x i l * intImm i)))
    ∧ (Runs s x (formIminI i) act → exec (.iminI i) s = .next (wroteIntI s x (formIminI i) act i (fun l => min (intAI x i l) (intImm i))))
    ∧ (Runs s x (formImaxI i) act → exec (.imaxI i) s = .next (wroteIntI s x (formImaxI i) act i (fun l => max (intAI x i l) (intImm i))))

/-- R178: the bitwise instructions, the shifts and rotations, and their I forms. -/
def Obligations.LogicalAndShiftResults : Prop :=
  ∀ (s : State) (x : Iss) (act : Mask) (w : FmtA) (i : FmtI),
    (Runs s x (formAnd w) act → exec (.and_ w) s = .next (wroteBits s x (formAnd w) act w (fun l => patA x w l &&& patB x w l)))
    ∧ (Runs s x (formOr w) act → exec (.or_ w) s = .next (wroteBits s x (formOr w) act w (fun l => patA x w l ||| patB x w l)))
    ∧ (Runs s x (formXor w) act → exec (.xor_ w) s = .next (wroteBits s x (formXor w) act w (fun l => patA x w l ^^^ patB x w l)))
    ∧ (Runs s x (formAndn w) act → exec (.andn w) s =
        .next (wroteBits s x (formAndn w) act w (fun l => patA x w l &&& notBits (tyBits (typeOf w.mod)) (patB x w l))))
    ∧ (Runs s x (formNot w) act → exec (.not_ w) s =
        .next (wroteBits s x (formNot w) act w (fun l => notBits (tyBits (typeOf w.mod)) (patA x w l))))
    ∧ (Runs s x (formAndI i) act → exec (.andI i) s = .next (wroteBitsI s x (formAndI i) act i (fun l => patAI x i l &&& i.imm.toNat)))
    ∧ (Runs s x (formOrI i) act → exec (.orI i) s = .next (wroteBitsI s x (formOrI i) act i (fun l => patAI x i l ||| i.imm.toNat)))
    ∧ (Runs s x (formXorI i) act → exec (.xorI i) s = .next (wroteBitsI s x (formXorI i) act i (fun l => patAI x i l ^^^ i.imm.toNat)))
    ∧ (Runs s x (formAndnI i) act → exec (.andnI i) s =
        .next (wroteBitsI s x (formAndnI i) act i (fun l => patAI x i l &&& notBits (tyBits (typeOf i.mod)) i.imm.toNat)))
    ∧ (Runs s x (formShl w) act → exec (.shl w) s = .next (wrote s x (formShl w) act w.d.toNat (tyRegs (typeOf w.mod)) (fun l =>
        shlBits (tyBits (typeOf w.mod)) (patA x w l) ((readWord x w.b.toNat l).toNat % 64))))
    ∧ (Runs s x (formShr w) act → exec (.shr w) s = .next (wrote s x (formShr w) act w.d.toNat (tyRegs (typeOf w.mod)) (fun l =>
        shrBits (tyBits (typeOf w.mod)) (patA x w l) ((readWord x w.b.toNat l).toNat % 64))))
    ∧ (Runs s x (formSar w) act → exec (.sar w) s = .next (wrote s x (formSar w) act w.d.toNat (tyRegs (typeOf w.mod)) (fun l =>
        sarBits (tyBits (typeOf w.mod)) (patA x w l) ((readWord x w.b.toNat l).toNat % 64))))
    ∧ (Runs s x (formRol w) act → exec (.rol w) s = .next (wrote s x (formRol w) act w.d.toNat (tyRegs (typeOf w.mod)) (fun l =>
        rolBits (tyBits (typeOf w.mod)) (patA x w l) ((readWord x w.b.toNat l).toNat % 64))))
    ∧ (Runs s x (formShlI i) act → exec (.shlI i) s = .next (wrote s x (formShlI i) act i.d.toNat (tyRegs (typeOf i.mod)) (fun l =>
        shlBits (tyBits (typeOf i.mod)) (patAI x i l) (i.imm.toNat % 64))))
    ∧ (Runs s x (formShrI i) act → exec (.shrI i) s = .next (wrote s x (formShrI i) act i.d.toNat (tyRegs (typeOf i.mod)) (fun l =>
        shrBits (tyBits (typeOf i.mod)) (patAI x i l) (i.imm.toNat % 64))))
    ∧ (Runs s x (formSarI i) act → exec (.sarI i) s = .next (wrote s x (formSarI i) act i.d.toNat (tyRegs (typeOf i.mod)) (fun l =>
        sarBits (tyBits (typeOf i.mod)) (patAI x i l) (i.imm.toNat % 64))))
    ∧ (Runs s x (formRolI i) act → exec (.rolI i) s = .next (wrote s x (formRolI i) act i.d.toNat (tyRegs (typeOf i.mod)) (fun l =>
        rolBits (tyBits (typeOf i.mod)) (patAI x i l) (i.imm.toNat % 64))))

/-- R178 to R181: the counts, bit reversal, bit fields, SEL, the comparisons, LEA, MOV and MOVI.
Model's choices it rests on: log entry 127. -/
def Obligations.BitFieldSelectMoveResults : Prop :=
  ∀ (s : State) (x : Iss) (act : Mask) (w : FmtA) (i : FmtI) (k : FmtK),
    (Runs s x (formPopc w) act → exec (.popc w) s =
        .next (wrote s x (formPopc w) act w.d.toNat 1 (fun l => popcBits (tyBits (typeOf w.mod)) (patA x w l))))
    ∧ (Runs s x (formClz w) act → exec (.clz w) s =
        .next (wrote s x (formClz w) act w.d.toNat 1 (fun l => clzBits (tyBits (typeOf w.mod)) (patA x w l))))
    ∧ (Runs s x (formCtz w) act → exec (.ctz w) s =
        .next (wrote s x (formCtz w) act w.d.toNat 1 (fun l => ctzBits (tyBits (typeOf w.mod)) (patA x w l))))
    ∧ (Runs s x (formBrev w) act → exec (.brev w) s =
        .next (wroteBits s x (formBrev w) act w (fun l => brevBits (tyBits (typeOf w.mod)) (patA x w l))))
    ∧ (Runs s x (formBfx w) act → exec (.bfx w) s = .next (wrote s x (formBfx w) act w.d.toNat (tyRegs (typeOf w.mod)) (fun l =>
        bfxBits (typeOf w.mod) (patA x w l) (readWord x w.b.toNat l).toNat)))
    ∧ (Runs s x (formBfxI i) act → exec (.bfxI i) s = .next (wrote s x (formBfxI i) act i.d.toNat (tyRegs (typeOf i.mod)) (fun l =>
        bfxBits (typeOf i.mod) (patAI x i l) i.imm.toNat)))
    ∧ (Runs s x (formBfi w) act → exec (.bfi w) s = .next (wrote s x (formBfi w) act w.d.toNat (tyRegs (typeOf w.mod)) (fun l =>
        bfiBits (tyBits (typeOf w.mod)) (patA x w l) (patB x w l) (readWord x w.c.toNat l).toNat)))
    ∧ (Runs s x (formSel w) act → exec (.sel w) s = .next (wrote s x (formSel w) act w.d.toNat (tyRegs (typeOf w.mod)) (fun l =>
        if (if w.mod.getLsbD 0 then predBit x w.c.toNat l else readWord x w.c.toNat l != 0) then patA x w l else patB x w l)))
    ∧ (Runs s x (formIcmp w) act → exec (.icmp w) s = .next (wroteCmp s x (formIcmp w) act (w.mod.getLsbD 4) w.d.toNat (fun l =>
        icmpCond (w.mod.toNat % 8) (intA x w l) (intB x w l))))
    ∧ (Runs s x (formIcmpI i) act → exec (.icmpI i) s = .next (wroteCmp s x (formIcmpI i) act (i.mod.getLsbD 4) i.d.toNat (fun l =>
        icmpCond (i.mod.toNat % 8) (intAI x i l) (intImm i))))
    ∧ (Runs s x (formLea w) act → exec (.lea w) s = .next (wrote s x (formLea w) act w.d.toNat 2 (fun l => wrapInt 2
        ((readPair x w.a.toNat l : Int) + asInt (typeOf w.mod) (readWord x w.b.toNat l).toNat * 2 ^ (w.mod.toNat % 8)))))
    ∧ (Runs s x (formLeaI i) act → exec (.leaI i) s = .next (wrote s x (formLeaI i) act i.d.toNat 2 (fun l => wrapInt 2
        ((readPair x i.a.toNat l : Int) + i.imm.toInt * 2 ^ (i.mod.toNat % 8)))))
    ∧ (Runs s x (formMov w) act → exec (.mov w) s = .next (wroteBits s x (formMov w) act w (fun l => patA x w l)))
    ∧ (Runs s x (formMovi k) act → exec (.movi k) s = .next (wrote s x (formMovi k) act k.d.toNat 1 (fun _ => k.imm.toNat)))

/-- R183 to R187: FP32 arithmetic, minimum and maximum, comparison, class and rounding to an integer. -/
def Obligations.Fp32Results : Prop :=
  ∀ (s : State) (x : Iss) (act : Mask) (w : FmtA) (i : FmtI),
    (Runs s x (formFadd w) act → exec (.fadd w) s = .next (wroteF32 s x (formFadd w) act w (fun l =>
        (fp32At x w.a.toNat l).add (rmode (rndOf w.mod) 0) (fp32At x w.b.toNat l))))
    ∧ (Runs s x (formFsub w) act → exec (.fsub w) s = .next (wroteF32 s x (formFsub w) act w (fun l =>
        (fp32At x w.a.toNat l).add (rmode (rndOf w.mod) 0) (fp32At x w.b.toNat l).neg)))
    ∧ (Runs s x (formFmul w) act → exec (.fmul w) s = .next (wroteF32 s x (formFmul w) act w (fun l =>
        (fp32At x w.a.toNat l).mul (fp32At x w.b.toNat l))))
    ∧ (Runs s x (formFfma w) act → exec (.ffma w) s = .next (wroteF32 s x (formFfma w) act w (fun l =>
        ((fp32At x w.a.toNat l).mul (fp32At x w.b.toNat l)).add (rmode (rndOf w.mod) 0) (fp32At x w.c.toNat l))))
    ∧ (Runs s x (formFaddI i) act → exec (.faddI i) s = .next (wroteF32I s x (formFaddI i) act i (fun l =>
        (fp32At x i.a.toNat l).add (rmode (rndOf i.mod) 0) (fv32 (immF i.imm)))))
    ∧ (Runs s x (formFsubI i) act → exec (.fsubI i) s = .next (wroteF32I s x (formFsubI i) act i (fun l =>
        (fp32At x i.a.toNat l).add (rmode (rndOf i.mod) 0) (fv32 (immF i.imm)).neg)))
    ∧ (Runs s x (formFmulI i) act → exec (.fmulI i) s = .next (wroteF32I s x (formFmulI i) act i (fun l =>
        (fp32At x i.a.toNat l).mul (fv32 (immF i.imm)))))
    ∧ (Runs s x (formFmin w) act → exec (.fmin w) s = .next (wrote s x (formFmin w) act w.d.toNat 1 (fun l =>
        fminmaxBits fp32 false (readWord x w.a.toNat l).toNat (readWord x w.b.toNat l).toNat)))
    ∧ (Runs s x (formFmax w) act → exec (.fmax w) s = .next (wrote s x (formFmax w) act w.d.toNat 1 (fun l =>
        fminmaxBits fp32 true (readWord x w.a.toNat l).toNat (readWord x w.b.toNat l).toNat)))
    ∧ (Runs s x (formFminI i) act → exec (.fminI i) s = .next (wrote s x (formFminI i) act i.d.toNat 1 (fun l =>
        fminmaxBits fp32 false (readWord x i.a.toNat l).toNat (immF i.imm).toNat)))
    ∧ (Runs s x (formFmaxI i) act → exec (.fmaxI i) s = .next (wrote s x (formFmaxI i) act i.d.toNat 1 (fun l =>
        fminmaxBits fp32 true (readWord x i.a.toNat l).toNat (immF i.imm).toNat)))
    ∧ (Runs s x (formFcmp w) act → exec (.fcmp w) s = .next (wroteCmp s x (formFcmp w) act (w.mod.getLsbD 4) w.d.toNat (fun l =>
        fcmpCond (w.mod.toNat / 32) (fp32At x w.a.toNat l) (fp32At x w.b.toNat l))))
    ∧ (Runs s x (formFcmpI i) act → exec (.fcmpI i) s = .next (wroteCmp s x (formFcmpI i) act (i.mod.getLsbD 4) i.d.toNat (fun l =>
        fcmpCond (i.mod.toNat / 32) (fp32At x i.a.toNat l) (fv32 (immF i.imm)))))
    ∧ (Runs s x (formFclass w) act → exec (.fclass w) s = .next (wrote s x (formFclass w) act w.d.toNat 1 (fun l =>
        (fclassWord (readWord x w.a.toNat l)).toNat)))
    ∧ (Runs s x (formFrnd w) act → exec (.frnd w) s = .next (wrote s x (formFrnd w) act w.d.toNat 1 (fun l =>
        frndBits (rmode (rndOf w.mod) 0) (fp32At x w.a.toNat l))))

/-- One element of a BF16 pair's result, rounded in the mode that its lane and its place draw (R60, R188). -/
def bfResult (s : State) (x : Iss) (act : Mask) (w : FmtA) (v : RMode → FVal → FVal → FVal → FVal) (l j : Nat) : Nat :=
  bf16.encode (drawMode s x act (rndOf w.mod) w.d.toNat l j)
    (v (drawMode s x act (rndOf w.mod) w.d.toNat l j) (bfElem (readWord x w.a.toNat l) j) (bfElem (readWord x w.b.toNat l) j)
      (bfElem (readWord x w.c.toNat l) j))

/-- A BF16 pair written, the split's generator advanced where the rounding is stochastic (R60, R188). -/
def wroteBf (s : State) (x : Iss) (f : Form) (act : Mask) (w : FmtA) (v : RMode → FVal → FVal → FVal → FVal) : State :=
  wrote (advanceSt s x act (rndOf w.mod)) x f act w.d.toNat 1 (fun l => bfResult s x act w v l 0 + 2 ^ 16 * bfResult s x act w v l 1)

/-- R183 to R185, R188 to R190: FP64 arithmetic and comparison, BF16 pairs, and conversion.
Model's choices it rests on: log entries 9, 121. -/
def Obligations.Fp64Bf16ConvertResults : Prop :=
  ∀ (s : State) (x : Iss) (act : Mask) (w : FmtA) (dst : BitVec 3),
    (Runs s x (formDadd w) act → exec (.dadd w) s = .next (wrote s x (formDadd w) act w.d.toNat 2 (fun l =>
        fp64.encode (rmode (rndOf w.mod) 0) ((fp64At x w.a.toNat l).add (rmode (rndOf w.mod) 0)
          (if w.mod.getLsbD 3 then (fp64At x w.b.toNat l).neg else fp64At x w.b.toNat l)))))
    ∧ (Runs s x (formDmul w) act → exec (.dmul w) s = .next (wrote s x (formDmul w) act w.d.toNat 2 (fun l =>
        fp64.encode (rmode (rndOf w.mod) 0) ((fp64At x w.a.toNat l).mul (fp64At x w.b.toNat l)))))
    ∧ (Runs s x (formDfma w) act → exec (.dfma w) s = .next (wrote s x (formDfma w) act w.d.toNat 2 (fun l =>
        fp64.encode (rmode (rndOf w.mod) 0)
          (((fp64At x w.a.toNat l).mul (fp64At x w.b.toNat l)).add (rmode (rndOf w.mod) 0) (fp64At x w.c.toNat l)))))
    ∧ (Runs s x (formDmin w) act → exec (.dmin w) s = .next (wrote s x (formDmin w) act w.d.toNat 2 (fun l =>
        fminmaxBits fp64 false (readPair x w.a.toNat l) (readPair x w.b.toNat l))))
    ∧ (Runs s x (formDmax w) act → exec (.dmax w) s = .next (wrote s x (formDmax w) act w.d.toNat 2 (fun l =>
        fminmaxBits fp64 true (readPair x w.a.toNat l) (readPair x w.b.toNat l))))
    ∧ (Runs s x (formDcmp w) act → exec (.dcmp w) s = .next (wroteCmp s x (formDcmp w) act (w.mod.getLsbD 4) w.d.toNat (fun l =>
        fcmpCond (w.mod.toNat / 32) (fp64At x w.a.toNat l) (fp64At x w.b.toNat l))))
    ∧ (Runs s x (formBadd2 w) act → exec (.badd2 w) s = .next (wroteBf s x (formBadd2 w) act w (fun md a b _ => a.add md b)))
    ∧ (Runs s x (formBmul2 w) act → exec (.bmul2 w) s = .next (wroteBf s x (formBmul2 w) act w (fun _ a b _ => a.mul b)))
    ∧ (Runs s x (formBfma2 w) act → exec (.bfma2 w) s = .next (wroteBf s x (formBfma2 w) act w (fun md a b c => (a.mul b).add md c)))
    ∧ (Runs s x (formFcvt dst w) act → exec (.fcvt dst w) s =
        .next (wrote (advanceSt s x act (rndOf w.mod)) x (formFcvt dst w) act w.d.toNat (cvtRegs dst.toNat) (fun l =>
          let md := drawMode s x act (rndOf w.mod) w.d.toNat l
          let src (n : Nat) (j : Nat) : FVal := cvtVal (w.mod.toNat / 32) j (readNat x (cvtRegs (w.mod.toNat / 32) == 2) n l)
          if dst.toNat = 2 then bf16.encode (md 0) (src w.a.toNat 0) + 2 ^ 16 * bf16.encode (md 1) (src w.b.toNat 0)
          else cvtTo dst.toNat (md 0) (src w.a.toNat (if w.mod.getLsbD 3 then 1 else 0)))))

/-- What a special function's result is measured against (R75): the model's reference value, that of a zero operand for SIN, COS and TANH. -/
def sfuReference (op : Nat) (a : Word) : FVal :=
  match fv32 a with
  | .fin neg 0 _ => if op = 0x089 then .fin false 1 0 else .fin neg 0 0
  | .fin neg m e => sfuVal op neg m e
  | v => v

/-- R75 to R77, R191: the special functions complete with sfuBits, and FDIV is correctly rounded.
sfuBits is the value that sfuExact takes from R76 and R77 where it gives one; elsewhere it is within the bound of R75 of the model's reference, or that
reference rounded, or, beyond the largest finite value, that value or infinity; for the five functions of R77 it keeps the order of FP32 values, or
is the rounded reference throughout.
Model's choices it rests on: log entry 7. -/
def Obligations.SpecialFunctionResults : Prop :=
  ∀ (s : State) (x : Iss) (act : Mask) (w : FmtA),
    (Runs s x (formRcp w) act → exec (.rcp w) s = .next (wrote s x (formRcp w) act w.d.toNat 1 (fun l => sfuBits 0x080 (readWord x w.a.toNat l))))
    ∧ (Runs s x (formRsq w) act → exec (.rsq w) s = .next (wrote s x (formRsq w) act w.d.toNat 1 (fun l => sfuBits 0x081 (readWord x w.a.toNat l))))
    ∧ (Runs s x (formSqrt w) act → exec (.sqrt w) s = .next (wrote s x (formSqrt w) act w.d.toNat 1 (fun l => sfuBits 0x082 (readWord x w.a.toNat l))))
    ∧ (Runs s x (formExp2 w) act → exec (.exp2 w) s = .next (wrote s x (formExp2 w) act w.d.toNat 1 (fun l => sfuBits 0x084 (readWord x w.a.toNat l))))
    ∧ (Runs s x (formLog2 w) act → exec (.log2 w) s = .next (wrote s x (formLog2 w) act w.d.toNat 1 (fun l => sfuBits 0x085 (readWord x w.a.toNat l))))
    ∧ (Runs s x (formExp w) act → exec (.exp w) s = .next (wrote s x (formExp w) act w.d.toNat 1 (fun l => sfuBits 0x086 (readWord x w.a.toNat l))))
    ∧ (Runs s x (formLog w) act → exec (.log w) s = .next (wrote s x (formLog w) act w.d.toNat 1 (fun l => sfuBits 0x087 (readWord x w.a.toNat l))))
    ∧ (Runs s x (formSin w) act → exec (.sin w) s = .next (wrote s x (formSin w) act w.d.toNat 1 (fun l => sfuBits 0x088 (readWord x w.a.toNat l))))
    ∧ (Runs s x (formCos w) act → exec (.cos w) s = .next (wrote s x (formCos w) act w.d.toNat 1 (fun l => sfuBits 0x089 (readWord x w.a.toNat l))))
    ∧ (Runs s x (formTanh w) act → exec (.tanh w) s = .next (wrote s x (formTanh w) act w.d.toNat 1 (fun l => sfuBits 0x08A (readWord x w.a.toNat l))))
    ∧ (Runs s x (formFdiv w) act → exec (.fdiv w) s = .next (wrote s x (formFdiv w) act w.d.toNat 1 (fun l =>
        fp32.encode (rmode (rndOf w.mod) 0) ((fp32At x w.a.toNat l).div (fp32At x w.b.toNat l)))))
    ∧ (∀ (op r : Nat) (a : Word), sfuExact op (fv32 a) = some r → sfuBits op a = r)
    ∧ (∀ (op : Nat) (a : Word), sfuExact op (fv32 a) = none →
      sfuBits op a = fp32.encode .rne (sfuReference op a)
        ∨ withinUlps (sfuUlps op) (fv32 (BitVec.ofNat 32 (sfuBits op a))) (sfuReference op a) = true
        ∨ ∃ (neg : Bool) (m : Nat) (e : Int), sfuReference op a = .fin neg m e ∧ cmpMag m e (2 ^ 24 - 1) 104 = .gt
            ∧ (sfuBits op a = fp32.bits neg fp32.maxCode ∨ sfuBits op a = fp32.encode .rne (.inf neg)))
    ∧ (∀ op : Nat, sfuMonotonic op = true → keepsOrder (sfuBits op) ∨ ∀ a : Word, sfuBits op a = sfuOf op (sfuRounded op) a)

/-- R193 to R198: SHFL, VOTE, LRED, LSCAN and the predicate instructions. That LRED makes a lone NaN canonical is the
model's reading of R49 (log entry 114), and that A may be a constant its own (log entry 128). -/
def Obligations.LaneAndPredicateResults : Prop :=
  ∀ (s : State) (x : Iss) (act : Mask) (w : FmtA) (i : FmtI),
    (Runs s x (formShfl w) act → exec (.shfl w) s = .next (wrote s x (formShfl w) act w.d.toNat 1 (fun l =>
        let q := shflPos (w.mod.toNat % 4) (l % segOf w.mod) (readWord x w.b.toNat l).toNat
        let src := l - l % segOf w.mod + q.toNat
        if 0 ≤ q ∧ q < segOf w.mod ∧ x.sp.mask.getLsbD src then (readWord x w.a.toNat src).toNat else (readWord x w.a.toNat l).toNat)))
    ∧ (Runs s x (formShflI i) act → exec (.shflI i) s = .next (wrote s x (formShflI i) act i.d.toNat 1 (fun l =>
        let q := shflPos (i.mod.toNat % 4) (l % segOf i.mod) i.imm.toNat
        let src := l - l % segOf i.mod + q.toNat
        if 0 ≤ q ∧ q < segOf i.mod ∧ x.sp.mask.getLsbD src then (readWord x i.a.toNat src).toNat else (readWord x i.a.toNat l).toNat)))
    ∧ (Runs s x (formVote w) act → exec (.vote w) s = .next (wrote s x (formVote w) act w.d.toNat (if w.mod.toNat % 4 = 3 then 3 else 1)
        (fun _ => voteVal w x act)))
    ∧ (Runs s x (formLred w) act → exec (.lred w) s = .next (wrote s x (formLred w) act w.d.toNat 1 (fun l =>
        lredVal (w.mod.toNat % 16) ((segLanes (segOf w.mod) act l).map (fun j => (readWord x w.a.toNat j).toNat)))))
    ∧ (Runs s x (formLscan w) act → exec (.lscan w) s = .next (wrote s x (formLscan w) act w.d.toNat 1 (fun l =>
        ((segLanes (segOf w.mod) act l).filter (fun j => if w.mod.getLsbD 3 then decide (j < l) else decide (j ≤ l))).foldl
          (fun acc j => laneCombine (w.mod.toNat % 8) acc (readWord x w.a.toNat j).toNat) (laneIdentity (w.mod.toNat % 8)))))
    ∧ (Runs s x (formPand w) act → exec (.pand w) s = .next (wrotePred s x (formPand w) act w.d.toNat (fun l =>
        predBit x w.a.toNat l && (predBit x w.b.toNat l != w.mod.getLsbD 0))))
    ∧ (Runs s x (formPor w) act → exec (.por w) s = .next (wrotePred s x (formPor w) act w.d.toNat (fun l =>
        predBit x w.a.toNat l || (predBit x w.b.toNat l != w.mod.getLsbD 0))))
    ∧ (Runs s x (formPnot w) act → exec (.pnot w) s = .next (wrotePred s x (formPnot w) act w.d.toNat (fun l => !predBit x w.a.toNat l)))
    ∧ (Runs s x (formPcnt w) act → exec (.pcnt w) s = .next (wrote s x (formPcnt w) act w.d.toNat 1 (fun _ =>
        (act.lanes.filter (predBit x w.a.toNat)).length)))

/-! ## Memory instructions -/

/-- R134, R219, R220, R222, R224, R225: LD and LDC issue their accesses and leave their destination PENDING where every lane's address
passes its checks; PREF changes nothing but the split's place.
Model's choices it rests on: log entries 16, 55. -/
def Obligations.LoadsIssue : Prop :=
  ∀ (s : State) (x : Iss) (act : Mask) (ty : BitVec 4) (w : FmtM) (la : List (Nat × Nat)),
    (Runs s x (formLd ty w) act →
      la = laneAddrs x w.ab.toNat w.off.toInt (memWidth ty.toNat) (onceM x w.ab.toNat w.d.toNat) act →
      addrsOk s x (memWidth ty.toNat) true la = true → windowFull x la = false →
        exec (.ld ty w) s = .next (finish (issueLoad s x (.reg w.d.toNat ty.toNat (onceM x w.ab.toNat w.d.toNat)) (memWidth ty.toNat)
          (w.ord.toNat == 0) (if w.ord.toNat = 2 then some w.scope.toNat else none) 0
          ((List.range (memRegs ty.toNat)).map (w.d.toNat + ·)) act la) x (formLd ty w)))
    ∧ (Runs s x (formLdc w) act →
      la = laneAddrs x w.ab.toNat w.off.toInt 4 (onceM x w.ab.toNat w.d.toNat) act → constsOk s x la = true →
        exec (.ldc w) s = .next (finish (issueLoad s x (.const w.d.toNat (onceM x w.ab.toNat w.d.toNat)) 4 true none 0 [w.d.toNat] act
          (la.map (fun p => (p.1, addr64 (x.k.cbase + p.2))))) x (formLdc w)))
    ∧ (Runs s x (formPref w) act → exec (.pref w) s = .next (finish s x (formPref w)))

/-- R145, R158, R219, R223, R226 to R228, R301: ST, ATOM, RED and CUEW issue their writes where every lane's address passes its
checks and a release's fence condition holds; ATOM leaves its destination PENDING.
Model's choices it rests on: log entries 41, 58. -/
def Obligations.StoresAndAtomicsIssue : Prop :=
  ∀ (s : State) (x : Iss) (act : Mask) (k : BitVec 4) (w : FmtM) (la : List (Nat × Nat)),
    (Runs s x (formSt k w) act →
      la = laneAddrs x w.ab.toNat w.off.toInt (memWidth k.toNat) (onceM x w.ab.toNat w.d.toNat) act →
      addrsOk s x (memWidth k.toNat) false la = true → (w.ord.toNat < 8 ∨ fenceReady s x w.scope.toNat = true) →
        exec (.st k w) s = .next (finish (issueWrite (dropGuests (advanceSt s x act (w.ord.toNat % 8)) x.g.pkg x.g.ctx (la.map (·.2))) x none
          .none (memWidth k.toNat) none 1 act (onceM x w.ab.toNat w.d.toNat) (stLanes k w x la) (decide (8 ≤ w.ord.toNat))) x (formSt k w)))
    ∧ (Runs s x (formAtom k w) act →
      la = laneAddrs x w.ab.toNat w.off.toInt (atomWidth k.toNat) (onceM x w.ab.toNat w.d.toNat) act →
      addrsOk s x (atomWidth k.toNat) false la = true → (w.ord.toNat < 2 ∨ fenceReady s x w.scope.toNat = true) →
        exec (.atom k w) s = .next (finish (issueWrite (dropGuests
          (markDirty (setPending s x.g.id ((List.range (atomRet k.toNat)).map (w.d.toNat + ·))) x) x.g.pkg x.g.ctx (la.map (·.2))) x
          (some k.toNat) (.atomReg w.d.toNat (atomRet k.toNat == 2)) (atomWidth k.toNat)
          (if w.ord.toNat % 2 = 1 then some w.scope.toNat else none) 2 act (onceM x w.ab.toNat w.d.toNat)
          (atomLanes k.toNat w.d.toNat x la) (decide (2 ≤ w.ord.toNat))) x (formAtom k w)))
    ∧ (Runs s x (formRed k w) act →
      la = laneAddrs x w.ab.toNat w.off.toInt (atomWidth k.toNat) false act →
      addrsOk s x (atomWidth k.toNat) false la = true → (w.ord = 0 ∨ fenceReady s x w.scope.toNat = true) →
        exec (.red k w) s = .next (finish (issueWrite (dropGuests (markDirty s x) x.g.pkg x.g.ctx (la.map (·.2))) x (some k.toNat) .none
          (atomWidth k.toNat) none 2 act false (atomLanes k.toNat w.d.toNat x la) (w.ord != 0)) x (formRed k w)))
    ∧ (Runs s x (formCuew w) act →
      la = laneAddrs x w.ab.toNat w.off.toInt 4 true act →
      addrsOk s x 4 false la = true → (w.ord = 0 ∨ fenceReady s x w.scope.toNat = true) →
        exec (.cuew w) s = .next (finish (issueWrite (dropGuests (markDirty s x) x.g.pkg x.g.ctx (la.map (·.2))) x (some 0) .none
          4 none 2 act true (atomLanes 0 w.d.toNat x la) (w.ord != 0)) x (formCuew w)))

/-- One memory instruction of the accesses that R220 checks in order: its form, its access size, whether it acts once, and whether a W entry alone
locks it (a load's). -/
def Accesses (x : Iss) (w : FmtM) (i : Instr) (f : Form) (n : Nat) (once onlyW : Bool) : Prop :=
  (∃ ty, i = .ld ty w ∧ f = formLd ty w ∧ n = memWidth ty.toNat ∧ once = onceM x w.ab.toNat w.d.toNat ∧ onlyW = true)
    ∨ (∃ ty, i = .st ty w ∧ f = formSt ty w ∧ n = memWidth ty.toNat ∧ once = onceM x w.ab.toNat w.d.toNat ∧ onlyW = false)
    ∨ (∃ op, i = .atom op w ∧ f = formAtom op w ∧ n = atomWidth op.toNat ∧ once = onceM x w.ab.toNat w.d.toNat ∧ onlyW = false)
    ∨ (∃ op, i = .red op w ∧ f = formRed op w ∧ n = atomWidth op.toNat ∧ once = false ∧ onlyW = false)
    ∨ (i = .cuew w ∧ f = formCuew w ∧ n = 4 ∧ once = true ∧ onlyW = false)

/-- R220, R448: an access of LD, ST, ATOM, RED or CUEW whose lanes do not all pass traps: ALIGN comes before ADDR and ADDR before RLOCK, and the
lowest offending lane is INFO (0 for an access made once), its address SR.TADDR.
R224: LDC makes the same checks on its offsets in the constant area, ADDR for one at or beyond SR.CSIZE.
Said of a split outside a FENCES window: inside one the access rolls the window back (R155).
Model's choices it rests on: log entry 41. -/
def Obligations.AccessTrapOrder : Prop :=
  ∀ (s : State) (x : Iss) (act : Mask) (w : FmtM) (la : List (Nat × Nat)) (o a : Nat), x.sp.window = none →
    (∀ (i : Instr) (f : Form) (n : Nat) (once onlyW : Bool), Accesses x w i f n once onlyW → Runs s x f act →
      la = laneAddrs x w.ab.toNat w.off.toInt n once act →
      (firstBad once la (fun a => a % n == 0) = some (o, a) →
        exec i s = .next (takeTrap s x.g x.sp x.k { cause := 0x0B, info := o, addr := a } x.sp.at))
      ∧ (la.all (fun p => p.2 % n == 0) = true →
        firstBad once la (fun a => (routeOf s x.g.pkg x.g.ctx a).isSome) = some (o, a) →
        exec i s = .next (takeTrap s x.g x.sp x.k { cause := 0x0A, info := o, addr := a } x.sp.at))
      ∧ (la.all (fun p => p.2 % n == 0 && (routeOf s x.g.pkg x.g.ctx p.2).isSome) = true →
        firstBad once la (fun a => !rltHit s x.g.pkg x.g.core a onlyW) = some (o, a) →
        exec i s = .next (takeTrap s x.g x.sp x.k { cause := 0x08, info := o, addr := a } x.sp.at)))
    ∧ (∀ once : Bool, once = onceM x w.ab.toNat w.d.toNat → Runs s x (formLdc w) act → la = laneAddrs x w.ab.toNat w.off.toInt 4 once act →
      (firstBad once la (fun a => a % 4 == 0) = some (o, a) →
        exec (.ldc w) s = .next (takeTrap s x.g x.sp x.k { cause := 0x0B, info := o, addr := a } x.sp.at))
      ∧ (la.all (fun p => p.2 % 4 == 0) = true → firstBad once la (fun a => decide (a < x.k.csize)) = some (o, a) →
        exec (.ldc w) s = .next (takeTrap s x.g x.sp x.k { cause := 0x0A, info := o, addr := a } x.sp.at))
      ∧ (la.all (fun p => p.2 % 4 == 0 && decide (p.2 < x.k.csize)) = true →
        firstBad once la (fun a => !rltHit s x.g.pkg x.g.core (x.k.cbase + a) true) = some (o, a) →
        exec (.ldc w) s = .next (takeTrap s x.g x.sp x.k { cause := 0x08, info := o, addr := a } x.sp.at)))

/-- R153, R154, R157: FENCE completes once its condition holds; FENCES opens its window at T = CTMAX + skew once its earlier writes'
completion times are in, or acts as FENCE after four rollbacks.
Model's choices it rests on: log entry 53. -/
def Obligations.FencesComplete : Prop :=
  ∀ (s : State) (x : Iss) (act : Mask) (w : FmtM),
    (Runs s x (formFence w) act → fenceReady s x w.scope.toNat = true → exec (.fence w) s = .next (finish s x (formFence w)))
    ∧ (Runs s x (formFences w) act → x.sp.asFence = true → fenceReady s x w.scope.toNat = true →
        exec (.fences w) s = .next (finish (s.mapSplit x.g.id x.sp.id (fun sp => { sp with asFence := false, rollbacks := 0 })) x (formFences w)))
    ∧ (Runs s x (formFences w) act → x.sp.asFence = false → writesOpen s x.g.id x.sp.id = 0 →
        exec (.fences w) s = .next (finish (s.mapSplit x.g.id x.sp.id (fun sp => { sp with window := some {
            target := x.sp.ctmax + skewOf (bindOf x.k.levels w.scope.toNat), scope := w.scope.toNat, saved := checkpointOf x,
            lines := [], regd := [], kept := [], conflict := false, firstLoad := s.nextId } })) x (formFences w)))

/-! ## The ashlar -/

/-- R127, R131, R132, R229 to R233: TILEDEF defines its entry, TILEREL frees it, LDA reads elements and STA writes them, where the tile
table admits it and the elements lie inside; R24: an LDA of poisoned data raises UNCORR.
Model's choices it rests on: log entries 8, 49, 50, 118, 122, 123. -/
def Obligations.TileInstructionsComplete : Prop :=
  ∀ (s : State) (x : Iss) (act : Mask) (w : FmtA) (c : Core) (t : Tile),
    (Runs s x (formTiledef w) act → s.core? x.g.pkg x.g.core = some c →
      t = { state := .empty, shared := w.mod.getLsbD 0,
            owner := if w.mod.getLsbD 0 then (coreNode x.k x.g.rank).getD 0 else x.g.rank, fmt := w.mod.toNat / 16,
            row0 := (readWord x w.a.toNat 0).toNat % 2 ^ 14, nrows := (readWord x w.a.toNat 0).toNat / 2 ^ 14 % 2 ^ 14,
            col0 := (readWord x w.b.toNat 0).toNat % 32, ncols := (readWord x w.b.toNat 0).toNat / 32 % 64, uses := 0, stamp := s.nextId } →
      defRefused x c (tileEntry x w.d.toNat) t
        ((readWord x w.a.toNat 0).toNat / 2 ^ 28 != 0 || (readWord x w.b.toNat 0).toNat / 2 ^ 11 != 0) = none →
        exec (.tiledef w) s = .next (finish ((markDirty s x).bump.mapCore x.g.pkg x.g.core (fun c =>
          { c.eraseCells t with tiles := setAt c.tiles (tileEntry x w.d.toNat) t })) x (formTiledef w)))
    ∧ (Runs s x (formTilerel w) act → tileWrites s x w.a.toNat = true →
        exec (.tilerel w) s = .next (finish (setTile (markDirty s x) x (tileEntry x w.a.toNat) (fun _ => { })) x (formTilerel w)))
    ∧ (Runs s x (formLda (tileWide s w.a.toNat) w) act → t = tileOf s x (tileEntry x w.a.toNat) → tileReads s x w.a.toNat = true →
      (w.mod.getLsbD 2 = true → isScaled t.fmt = true) → outOfTile x w t act = false →
      (ldaRegs (t.fmt == 12) w = 2 → pairOk x.k w.d.toNat = true) →
        (ashPoisoned s x (act.lanes.flatMap (laneHalves x w t)) = false →
          exec (.lda w) s = .next (wrote s x (formLda (tileWide s w.a.toNat) w) act w.d.toNat (ldaRegs (t.fmt == 12) w)
            (ldaVal x w (cellsOf s x) t)))
        ∧ (ashPoisoned s x (act.lanes.flatMap (laneHalves x w t)) = true →
          exec (.lda w) s = .next (raiseUncorr s x.g.pkg x.g.ctx x.g.core 0)))
    ∧ (Runs s x (formSta (tileWide s w.a.toNat) w) act → t = tileOf s x (tileEntry x w.a.toNat) → tileWrites s x w.a.toNat = true →
      (w.mod.toNat / 16 % 8 = 0 ∨ exactFmt t.fmt = false) → (w.mod.getLsbD 2 = true → isScaled t.fmt = true) →
      (w.mod.getLsbD 2 = false → isScaled t.fmt = true → blockForm x w act = true) → outOfTile x w t act = false →
      (ldaRegs (t.fmt == 12) w = 2 → pairOk x.k w.c.toNat = true) →
        exec (.sta w) s = .next (finish (setTile ((advanceSt s x act (w.mod.toNat / 16 % 8)).mapCore x.g.pkg x.g.core (fun c =>
          { c.setBad (staHalves x w t act) false with ashlar := staCells x w t act c.ashlar })) x (tileEntry x w.a.toNat)
          (fun t => if t.state = .empty then { t with state := .ready } else t)) x (formSta (tileWide s w.a.toNat) w)))

/-! ## Control flow -/

/-- The table of a JMPT can be read, fits the constant area and holds an entry for the index of every acting lane (R206): T is its words. -/
def TableGood (s : State) (x : Iss) (act : Mask) (w : FmtC) (T : Nat → List Byte) : Prop :=
  jumpParked s x = false ∧ tableWaits s x (addr64 (x.k.cbase + tableOff w)) = false ∧ fetchStale s x (addr64 (x.k.cbase + tableOff w)) = false
    ∧ (∀ j, j = 0 ∨ (∃ i ∈ act.lanes, j = (readWord x w.a.toNat i).toNat + 1) → constWord s x (tableOff w + 4 * j) = .bytes (T j) false)
    ∧ 0 < leNat (T 0) ∧ leNat (T 0) ≤ 65535 ∧ tableOff w + 4 * (leNat (T 0) + 1) ≤ x.k.csize
    ∧ ∀ i ∈ act.lanes, (readWord x w.a.toNat i).toNat < leNat (T 0)

/-- R200, R201, R204, R205: BRA, BRX, CALL, CALLI and RET send each lane of the mask to its destination; a call pushes the
fall-through on each acting lane's return stack and RET pops it.
R206: JMPT reads its table in the constant area and sends each acting lane to the entry of its index, where the table fits the
area, every index is below its length and the words can be read.
R201: a BRA, BRX, CALL, CALLI, RET or JMPT, outside a FENCES window, that would leave more than four splits in the group traps with
SPLITOV before any other effect, INFO the number of splits it would make.
Model's choices it rests on: log entry 40. -/
def Obligations.TransfersComplete : Prop :=
  (∀ (s : State) (x : Iss) (act : Mask) (w : FmtC) (d0 : Nat) (others : List Nat),
        (Runs s x (formBra w) act → Sends x act (fun _ => relTarget x w 0) d0 others →
          exec (.bra w) s = .next (sent (transferReads x (formBra w) s) x act (fun _ => relTarget x w 0) d0 others))
        ∧ (Runs s x (formBrx w) act → Sends x act (fun i => relTarget x w (offsetOf x w i)) d0 others →
          exec (.brx w) s = .next (sent (transferReads x (formBrx w) s) x act (fun i => relTarget x w (offsetOf x w i)) d0 others))
        ∧ (Runs s x (formCall w) act → Sends x act (fun _ => relTarget x w 0) d0 others →
          exec (.call w) s = .next (sent (pushLinks x act (transferReads x (formCall w) s)) x act (fun _ => relTarget x w 0) d0 others))
        ∧ (Runs s x (formCalli w) act → Sends x act (fun i => relTarget x w (offsetOf x w i)) d0 others →
          exec (.calli w) s = .next (sent (pushLinks x act (transferReads x (formCalli w) s)) x act (fun i => relTarget x w (offsetOf x w i)) d0 others))
        ∧ (Runs s x (formRet w) act → (∀ i ∈ act.lanes, x.g.retStacks.getD i [] ≠ []) →
          Sends x act (fun i => (x.g.retStacks.getD i []).headD 0) d0 others →
          exec (.ret w) s = .next (sent (popLinks x act (transferReads x (formRet w) s)) x act (fun i => (x.g.retStacks.getD i []).headD 0) d0 others)))
    ∧ (∀ (s : State) (x : Iss) (act : Mask) (w : FmtC) (d0 : Nat) (others : List Nat) (T : Nat → List Byte),
        Runs s x (formJmpt w) act → TableGood s x act w T →
        Sends x act (fun i => 8 * leNat (T ((readWord x w.a.toNat i).toNat + 1))) d0 others →
          exec (.jmpt w) s = .next (sent (transferReads x (formJmpt w) s) x act (fun i => 8 * leNat (T ((readWord x w.a.toNat i).toNat + 1))) d0 others))
    ∧ (∀ (s : State) (x : Iss) (act : Mask) (w : FmtC) (i : Instr) (f : Form) (dest : Nat → Nat) (d0 : Nat) (others : List Nat) (T : Nat → List Byte),
        ((i = .bra w ∧ f = formBra w ∧ dest = fun _ => relTarget x w 0)
          ∨ (i = .brx w ∧ f = formBrx w ∧ dest = fun l => relTarget x w (offsetOf x w l))
          ∨ (i = .call w ∧ f = formCall w ∧ dest = fun _ => relTarget x w 0)
          ∨ (i = .calli w ∧ f = formCalli w ∧ dest = fun l => relTarget x w (offsetOf x w l))
          ∨ (i = .ret w ∧ f = formRet w ∧ (∀ l ∈ act.lanes, x.g.retStacks.getD l [] ≠ []) ∧ dest = fun l => (x.g.retStacks.getD l []).headD 0)
          ∨ (i = .jmpt w ∧ f = formJmpt w ∧ TableGood s x act w T ∧ dest = fun l => 8 * leNat (T ((readWord x w.a.toNat l).toNat + 1)))) →
        Runs s x f act → x.sp.window = none →
        distinct (x.sp.mask.lanes.map (fun l => if act.getLsbD l then dest l else x.sp.fall)) = d0 :: others →
        4 < x.g.splits.length + others.length →
          exec i s = .next (takeTrap s x.g x.sp x.k { cause := 0x0D, info := x.g.splits.length + others.length } x.sp.at))

/-- The return stacks of the lanes that leave are emptied (R207). -/
def emptyStacks (s : State) (x : Iss) (act : Mask) : State :=
  s.mapGroup x.g.id (fun g => { g with retStacks := (List.range laneCount).map (fun i => if act.getLsbD i then [] else g.retStacks.getD i []) })

/-- R207, R213: EXIT removes the acting lanes, ends a split that keeps none, and lets a group whose last lane leaves depart; RTE
leaves the handler.
Model's choices it rests on: log entry 43. -/
def Obligations.ExitAndReturnComplete : Prop :=
  ∀ (s : State) (x : Iss) (act : Mask) (w : FmtC),
    (Runs s x (formExit w) act → x.sp.lanes &&& ~~~act ≠ 0 →
      exec (.exit w) s = .next (settleBarriers ((emptyStacks s x act).mapSplit x.g.id x.sp.id (fun sp =>
        { (sp.noteRegion (guardRegs w.g) []).goTo x.sp.fall with lanes := x.sp.lanes &&& ~~~act, mask := sp.mask &&& ~~~act })) x.g.inst))
    ∧ (Runs s x (formExit w) act → x.sp.lanes &&& ~~~act = 0 → x.g.splits.length ≠ 1 →
      exec (.exit w) s = .next (settleBarriers ((emptyStacks s x act).mapGroup x.g.id (fun g =>
        { g with splits := (g.splits.filter (fun sp => sp.id != x.sp.id)).map (fun sp => { sp with yld := sp.yld || x.sp.yld }) })) x.g.inst))
    ∧ (Runs s x (formExit w) act → x.sp.lanes &&& ~~~act = 0 → x.g.splits.length = 1 →
      exec (.exit w) s = .next (lastLaneLeft ((emptyStacks s x act).mapGroup x.g.id (fun g =>
        { g with splits := (g.splits.filter (fun sp => sp.id != x.sp.id)).map (fun sp => { sp with yld := sp.yld || x.sp.yld }) })) x))
    ∧ (Runs s x (formRte w) act → x.sp.inHandler = true →
      exec (.rte w) s = .next (s.mapSplit x.g.id x.sp.id Split.leaveHandler))

/-! ## Traps -/

/-- R210 to R212, R214: TRAP with a handler that the split is not in saves the cause, TRAPI with SKIP and IN set and INFO the immediate,
in SR.TCAUSE and the trapped word's place in SR.TPC, and the split goes on at the handler; its registers, lanes and mask stay.
R210: a trap of a kernel that declares no handler, or of a split that is in one, is a context fault with the trap's cause. -/
def Obligations.TrapTakesHandlerOrFaults : Prop :=
  (∀ (s : State) (x : Iss) (act : Mask) (w : FmtI) (h : Nat),
        Runs s x (formTrap w) act → x.sp.window = none → x.k.handler = some h → x.sp.inHandler = false →
          exec (.trap w) s = .next (s.mapSplit x.g.id x.sp.id (fun sp => sp.enterHandler { cause := 0x11, info := w.imm.toNat } x.sp.at h))
            ∧ (∀ sp : Split, sp.id = x.sp.id →
                let e := sp.enterHandler { cause := 0x11, info := w.imm.toNat } x.sp.at h
                e.tcause = BitVec.ofNat 32 (0x11 + 0x100 + 0x200 + w.imm.toNat * 2 ^ 12) ∧ e.tpc = BitVec.ofNat 32 x.sp.pc
                  ∧ e.hdr = h ∧ e.lanes = sp.lanes ∧ e.mask = sp.mask ∧ e.st = sp.st))
    ∧ (∀ (s : State) (x : Iss) (act : Mask) (w : FmtI),
        Runs s x (formTrap w) act → x.sp.window = none → (x.k.handler = none ∨ x.sp.inHandler = true) →
          exec (.trap w) s = .next (raiseCtxFault s x.g.pkg x.g.ctx
            { cause := 0x11, pkg := x.g.pkg, info := w.imm.toNat, core := x.g.core, tpc := x.sp.pc, addr := 0 }))

/-- R99, R106, R359: the mask instructions and an unassigned opcode trap with ILLOP, INFO the opcode.
Model's choices it rests on: log entry 108. -/
def Obligations.IllegalOpcodesTrap : Prop :=
  ∀ (s : State) (x : Iss) (w : FmtA) (d : DWord),
    issuer s = some x → x.sp.window = none →
      exec (.mpush w) s = .next (takeTrap s x.g x.sp x.k { cause := 0x01, info := 0x1C8 } x.sp.at)
      ∧ exec (.melse w) s = .next (takeTrap s x.g x.sp x.k { cause := 0x01, info := 0x1C9 } x.sp.at)
      ∧ exec (.mpop w) s = .next (takeTrap s x.g x.sp x.k { cause := 0x01, info := 0x1CA } x.sp.at)
      ∧ exec (.unassignedOpcode d) s = .next (takeTrap s x.g x.sp x.k { cause := 0x01, info := opcodeOf d } x.sp.at)

/-- The form of a word that the issuing split runs: its tree and its tile table as they stand. -/
def formNow (s : State) (x : Iss) (i : Instr) : Option Form := formOf x.k.levels (fun n => (tileOf s x (tileEntry x n)).fmt == 12) i

/-- R89, R97: the checks before an instruction executes come in their order, for every instruction of the opcode map: ILLOP before ILLOPD, ILLOPD
before the guard, the guard before the sources, and an instruction in which no lane acts (and that is no mask write) leaves every register as it is
and only moves past its word.
R117 to R119: an empty source or a pending destination stops the instruction with its trap: EMPTYRD for a VOID or PENDING source with EP, ORPHAN for
a VOID one without, PENDWR for a PENDING destination; a PENDING guard or source without EP blocks the split.
R225, R406: a hint, PREF or PGHINT, whose guard is VOID does not trap and only moves past its word.
Model's choices it rests on: log entries 10, 55. -/
def Obligations.IssueCheckOrder : Prop :=
  ∀ (s : State) (x : Iss) (i : Instr) (f : Form), issuer s = some x → x.sp.window = none → formNow s x i = some f →
    (f.illop = true → exec i s = .next (takeTrap s x.g x.sp x.k { cause := 0x01, info := f.op } x.sp.at))
    ∧ (∀ n, f.illop = false → f.illopd x.k = some n → exec i s = .next (takeTrap s x.g x.sp x.k { cause := 0x03, info := n } x.sp.at))
    ∧ (f.illop = false → f.illopd x.k = none →
      (∀ n, srcEmpty x.g (guardRegs f.g) false = .orphan n →
        (f.hint = false → exec i s = .next (takeTrap s x.g x.sp x.k { cause := 0x06, info := n } x.sp.at))
        ∧ (f.hint = true → exec i s = .next (s.mapSplit x.g.id x.sp.id (fun sp => (sp.noteRegion (guardRegs f.g) []).advance))))
      ∧ (srcEmpty x.g (guardRegs f.g) false = .blocked → exec i s = .next (blockOnRegs s x (guardRegs f.g)))
      ∧ (srcEmpty x.g (guardRegs f.g) false = .ready → actMask x f = 0 → maskWrite x f = false →
        exec i s = .next (s.mapSplit x.g.id x.sp.id (fun sp => (sp.noteRegion (guardRegs f.g) []).advance)))
      ∧ (srcEmpty x.g (guardRegs f.g) false = .ready → (actMask x f ≠ 0 ∨ maskWrite x f = true) →
        (∀ n, srcsEmpty x.g (f.srcs x.k) = .emptyRd n → exec i s = .next (takeTrap s x.g x.sp x.k { cause := 0x04, info := n } x.sp.at))
        ∧ (∀ n, srcsEmpty x.g (f.srcs x.k) = .orphan n → exec i s = .next (takeTrap s x.g x.sp x.k { cause := 0x06, info := n } x.sp.at))
        ∧ (srcsEmpty x.g (f.srcs x.k) = .blocked →
          exec i s = .next (blockOnRegs s x (((f.srcs x.k).filter (fun r => !r.2)).flatMap (·.1))))
        ∧ (∀ n, srcsEmpty x.g (f.srcs x.k) = .ready → firstIn x.g (f.dsts x.k) .pending = some n →
          exec i s = .next (takeTrap s x.g x.sp x.k { cause := 0x05, info := n } x.sp.at))))

/-! ## System instructions -/

/-- R62, R84, R105, R209, R216 to R218: RGN, NOP, the WAITTs whose tick has come, YIELD, CLK and SRD.
R62, R121, R127, R211, R212, R217, R218: SWR writes SR.WAITLIM, SR.TBASE, SR.RNDST (a zero stores 1), and inside a handler SR.TCAUSE's
SKIP bit alone and SR.TPC; outside one these two trap with ILLOP.
Model's choices it rests on: log entry 44. -/
def Obligations.SystemInstructionsComplete : Prop :=
  (∀ (s : State) (x : Iss) (act : Mask) (w : FmtA) (i : FmtI) (live : LiveIn),
        (Runs s x (formRgn i) act → x.k.regions[i.imm.toNat]? = some live →
          exec (.rgn i) s = .next (finish (s.mapSplit x.g.id x.sp.id (fun sp => { sp with region := some {
            hdr := x.sp.hdr, st := x.sp.st, mask := x.sp.mask, live := live, clean := true } })) x (formRgn i)))
        ∧ (Runs s x (formNop w) act → exec (.nop w) s = .next (finish s x (formNop w)))
        ∧ (Runs s x (formWaitt w) act → x.sp.waitt.getD (readPair x w.a.toNat 0) ≤ nowOf s x.g →
          exec (.waitt w) s = .next (finish s x (formWaitt w)))
        ∧ (Runs s x (formWaittD w) act → x.sp.waitt.getD (nowOf s x.g + (readWord x w.a.toNat 0).toNat) ≤ nowOf s x.g →
          exec (.waittD w) s = .next (finish s x (formWaittD w)))
        ∧ (Runs s x (formYield w) act → exec (.yield w) s = .next (finish (s.mapSplit x.g.id x.sp.id (fun sp => { sp with yld := true })) x (formYield w)))
        ∧ (Runs s x (formClkTb w) act → exec (.clkTb w) s = .next (wrote s x (formClkTb w) act w.d.toNat 2 (fun _ => nowOf s x.g)))
        ∧ (Runs s x (formClkCyc w) act → exec (.clkCyc w) s = .next (wrote s x (formClkCyc w) act w.d.toNat 2 (fun _ => cyclesOf s x.g)))
        ∧ (Runs s x (formSrd i) act → exec (.srd i) s =
            .next (finish (putWord s x.g.id x.sp.id i.d.toNat act act.lowest (fun _ => srRead s x i.imm.toNat)) x (formSrd i))))
    ∧ (∀ (s : State) (x : Iss) (act : Mask) (i : FmtI) (v : Word), Runs s x (formSwr i) act → v = readWord x i.a.toNat 0 →
        (i.imm = 0x010 → exec (.swr i) s =
          .next (finish ((markDirty s x).mapGroup x.g.id (fun g => { g with waitlim := v &&& 0x3F })) x (formSwr i)))
        ∧ (i.imm = 0x011 → exec (.swr i) s =
          .next (finish ((markDirty s x).mapGroup x.g.id (fun g => { g with tbase := v &&& 0x1F })) x (formSwr i)))
        ∧ (i.imm = 0x013 → exec (.swr i) s =
          .next (finish ((markDirty s x).mapSplit x.g.id x.sp.id (fun sp => { sp with st := if v = 0 then 1 else v })) x (formSwr i)))
        ∧ (i.imm = 0x030 → x.sp.inHandler = true → exec (.swr i) s =
          .next (finish ((markDirty s x).mapSplit x.g.id x.sp.id (fun sp => { sp with tcause := (sp.tcause &&& ~~~(0x100 : Word)) ||| (v &&& 0x100) }))
            x (formSwr i)))
        ∧ (i.imm = 0x031 → x.sp.inHandler = true → exec (.swr i) s =
          .next (finish ((markDirty s x).mapSplit x.g.id x.sp.id (fun sp => { sp with tpc := v })) x (formSwr i)))
        ∧ ((i.imm = 0x030 ∨ i.imm = 0x031) → x.sp.inHandler = false → x.sp.window = none → exec (.swr i) s =
          .next (takeTrap s x.g x.sp x.k { cause := 0x01, info := 0x119 } x.sp.at)))

/-! ## Matrix steps and engines -/

/-- R116, R237, R240 to R253: MMA and MMAS start a step in the group's open batch, MCOMMIT commits it, MWAIT passes at its count, MZERO
clears its view and MST starts its store.
Model's choices it rests on: log entries 40, 51. -/
def Obligations.MatrixInstructionsComplete : Prop :=
  ∀ (s : State) (x : Iss) (act : Mask) (w : FmtA) (c : Nat) (v : View),
    (Runs s x (formMma w) act → stepOk s x w (stepDesc x w 0) c = true →
      exec (.mma w) s = .next (finish (startStep s x w (stepDesc x w 0) (stepRanges x w (stepDesc x w 0) c) (operandEntry x w.a.toNat)
        (operandEntry x w.b.toNat)) x (formMma w)))
    ∧ (Runs s x (formMmas w) act → ∀ sp, sp = (if w.mod.getLsbD 1 then 2 else 1) → stepOk s x w (stepDesc x w sp) c = true →
      exec (.mmas w) s = .next (finish (startStep s x w (stepDesc x w sp) (stepRanges x w (stepDesc x w sp) c) (operandEntry x w.a.toNat)
        (operandEntry x w.b.toNat)) x (formMmas w)))
    ∧ (Runs s x (formMcommit w) act → exec (.mcommit w) s = .next (finish (commitOpen s x.g.id) x (formMcommit w)))
    ∧ (Runs s x (formMwait w) act → x.g.mtx ≤ modLo w.mod → exec (.mwait w) s = .next (finish s x (formMwait w)))
    ∧ (Runs s x (formMzero w) act → v = viewOf (viewWord x.k w.d.toNat) → v.regs.all (fun r => regState x.g r != .pending) = true →
      exec (.mzero w) s = .next (finish (s.mapGroup x.g.id (fun g =>
        v.regs.foldl (fun g r => g.setRegState r .full) ((List.range (v.rows * v.cols)).foldl (fun g e => viewPut g v e 0) g))) x (formMzero w)))
    ∧ (Runs s x (formMst w) act → v = viewOf (viewWord x.k w.a.toNat) → isTile w.d.toNat = false →
      (mstFormats v.type).contains (modLo w.mod) = true → ctlBad s x (wordVal x w.c.toNat) false = false →
      aligned (mstBytes (modLo w.mod)) [addrVal x w.d.toNat, wordVal x w.b.toNat] = true →
      rangeOk s x (addrVal x w.d.toNat, (v.rows - 1) * wordVal x w.b.toNat + v.cols * mstBytes (modLo w.mod)) = true →
      srcEmpty x.g v.regs (epBit w.ep 0) = .ready →
      ∀ p : EngPlan, p = { kind := .mstMem (addrVal x w.d.toNat) (wordVal x w.b.toNat) (modLo w.mod) v.rows v.cols
                              ((mstRows x.g v (modLo w.mod)).map (fun r => r.flatMap (toLE (mstBytes (modLo w.mod))))),
                            reads := [],
                            writes := [(addrVal x w.d.toNat, (v.rows - 1) * wordVal x w.b.toNat + v.cols * mstBytes (modLo w.mod))] } →
      engWait s x p (wordVal x w.c.toNat) = none →
        exec (.mst w) s = .next (finish (startEng s x p (wordVal x w.c.toNat) (modHi w.mod) none) x (formMst w)))
    ∧ (Runs s x (formMst w) act → v = viewOf (viewWord x.k w.a.toNat) → isTile w.d.toNat = true →
      (mstFormats v.type).contains (modLo w.mod) = true → wordVal x w.b.toNat < 2 ^ 22 → ctlBad s x (wordVal x w.c.toNat) false = false →
      ∀ t : Tile, t = tileOf s x (tileEntry x w.d.toNat) → tileWrites s x w.d.toNat = true → t.fmt = modLo w.mod →
      wordVal x w.b.toNat % 2 ^ 14 + v.rows ≤ t.nrows → wordVal x w.b.toNat / 2 ^ 14 % 256 + v.cols ≤ t.elems →
      srcEmpty x.g v.regs (epBit w.ep 0) = .ready →
      ∀ p : EngPlan, p = { kind := .mstTile (tileEntry x w.d.toNat) (wordVal x w.b.toNat % 2 ^ 14) (wordVal x w.b.toNat / 2 ^ 14 % 256)
                              (modLo w.mod) v.rows v.cols (mstRows x.g v (modLo w.mod)),
                            reads := [], writes := [], fill := some (tileEntry x w.d.toNat) } →
      engWait s x p (wordVal x w.c.toNat) = none →
        exec (.mst w) s = .next (finish (startEng s x p (wordVal x w.c.toNat) (modHi w.mod) none) x (formMst w)))

/-- R237, R254 to R260: CPY, CPY2D, TLD and TST start their operations where their words, addresses, tiles and the range-lock table admit
it; a CPY of length 0 completes at issue.
Model's choices it rests on: log entries 52, 57. -/
def Obligations.CopyEnginesStart : Prop :=
  ∀ (s : State) (x : Iss) (act : Mask) (w : FmtA) (p : EngPlan) (t : Tile) (d a len ctl : Nat),
    d = addrVal x w.d.toNat → a = addrVal x w.a.toNat → len = wordVal x w.b.toNat → ctl = wordVal x w.c.toNat → ctlBad s x ctl false = false →
    engWait s x p ctl = none →
    (Runs s x (formCpy w) act → p = { kind := .cpy d a len, reads := [(a, len)], writes := [(d, len)] } → len ≤ 2 ^ 31 →
      aligned 16 [d, a, len] = true → rangesOk s x [(d, len), (a, len)] = true →
      exec (.cpy w) s = .next (finish (if len = 0 then finishAtIssue s x ctl else startEng s x p ctl (modHi w.mod) none) x (formCpy w)))
    ∧ (∀ rb rows ss ds : Nat, Runs s x (formCpy2d w) act → rb = descWord x w.b.toNat 0 → rows = descWord x w.b.toNat 1 →
      ss = descWord x w.b.toNat 2 → ds = descWord x w.b.toNat 3 →
      p = { kind := .cpy2d d a rb rows ss ds, reads := [(a, (rows - 1) * ss + rb)], writes := [(d, (rows - 1) * ds + rb)] } →
      16 ≤ rb → rb ≤ 2 ^ 20 → 1 ≤ rows → rows ≤ 65536 → aligned 16 [d, a, rb, ss, ds] = true →
      rangesOk s x [(d, (rows - 1) * ds + rb), (a, (rows - 1) * ss + rb)] = true →
      exec (.cpy2d w) s = .next (finish (startEng s x p ctl (modHi w.mod) none) x (formCpy2d w)))
    ∧ (Runs s x (formTld w) act → t = tileOf s x (tileEntry x w.d.toNat) → tileWrites s x w.d.toNat = true →
      p = { kind := .tld (tileEntry x w.d.toNat) a len, reads := [(a, (t.nrows - 1) * len + 4 * t.ncols)], writes := [],
            fill := some (tileEntry x w.d.toNat) } →
      aligned 4 [a, len] = true → rangeOk s x (a, (t.nrows - 1) * len + 4 * t.ncols) = true →
      exec (.tld w) s = .next (finish (startEng s x p ctl (modHi w.mod) none) x (formTld w)))
    ∧ (Runs s x (formTst w) act → t = tileOf s x (tileEntry x w.a.toNat) → tileReads s x w.a.toNat = true →
      p = { kind := .tst d (tileEntry x w.a.toNat) len, reads := [], writes := [(d, (t.nrows - 1) * len + 4 * t.ncols)],
            drain := some (tileEntry x w.a.toNat) } →
      aligned 4 [d, len] = true → rangeOk s x (d, (t.nrows - 1) * len + 4 * t.ncols) = true →
      exec (.tst w) s = .next (finish (startEng s x p ctl (modHi w.mod) none) x (formTst w)))

/-- R261 to R264, R387, R415: GATH, SCAT, ROWPUB, COLL, CPYG and REDGO start their operations where their words, addresses and the
range-lock table admit it; CPYG and REDGO leave their status register PENDING.
R267: EWAIT passes once the group has no more operations in flight than its count, and acquires at its scope.
Model's choices it rests on: log entries 52, 56. -/
def Obligations.GatherEnginesStart : Prop :=
  (∀ (s : State) (x : Iss) (act : Mask) (w : FmtA) (p : EngPlan) (d a ctl : Nat) (q : RowList),
        d = addrVal x w.d.toNat → a = addrVal x w.a.toNat → q = rowList x w.b.toNat → ctl = wordVal x w.c.toNat →
        engWait s x p ctl = none →
        (Runs s x (formGath w) act → ctlBad s x ctl false = false → q.bad 16 = false →
          p = { kind := .gath d a q.n q.rowb q.stride q.list, reads := [(q.list, 4 * q.n)], writes := [(d, q.n * q.rowb)] } →
          aligned 16 [d, a] = true → q.list % 4 = 0 → rangesOk s x [(d, q.n * q.rowb), (q.list, 4 * q.n)] = true →
          exec (.gath w) s = .next (finish (startEng s x p ctl (modHi w.mod) none) x (formGath w)))
        ∧ (∀ sl : DefSlot, Runs s x (formScat w) act → ctlBad s x ctl true = false → q.bad 128 = false →
          sl = slotOf s x.g.pkg x.g.ctx (ctl / 256 % 64) → sl.state = .loaded → defCombine sl.img = true → defPfmt sl.img ≠ 0 →
          defNscal sl.img = 0 → d % 128 = 0 → a % 16 = 0 → q.stride % 128 = 0 → q.list % 4 = 0 →
          p = { kind := .scat d a q.n q.rowb q.stride q.list (ctl / 256 % 64) sl.gen,
                reads := [(a, q.n * scatRow sl.img q.rowb), (q.list, 4 * q.n)], writes := [] } →
          rangesOk s x [(a, q.n * scatRow sl.img q.rowb), (q.list, 4 * q.n)] = true →
          exec (.scat w) s = .next (finish (startEng s x p ctl (modHi w.mod) none) x (formScat w)))
        ∧ (∀ len : Nat, Runs s x (formRowpub w) act → ctlBad s x ctl false = false → len = wordVal x w.b.toNat → 16 ≤ len → len ≤ 4096 →
          aligned 16 [len, d, a] = true → d % 4096 + len ≤ 4096 → rangesOk s x [(d, len), (a, len)] = true → isMh s x d = true →
          p = { kind := .rowpub d a len, reads := [(a, len)], writes := [(d, len)] } →
          exec (.rowpub w) s = .next (finish (startEng s x p ctl (modHi w.mod) none) x (formRowpub w)))
        ∧ (∀ lv count rd wr : Nat, Runs s x (formColl w) act → ctlBad s x ctl false = false → lv = levelOf x.k.levels (modHi w.mod) →
          count = wordVal x w.b.toNat → treeG x.k.levels ≤ lv → lv < treeL x.k.levels → 1 ≤ count → count ≤ 2 ^ 24 →
          (rd, wr) = (collSizes (modLo w.mod % 4) (groupSize x.k.levels lv) count).map (· * collBytes (modLo w.mod / 4)) (· * collBytes (modLo w.mod / 4)) →
          p = { kind := .coll d a count lv (modLo w.mod % 4) (modLo w.mod / 4) (collJoined x.g lv), reads := [(a, rd)], writes := [(d, wr)] } →
          aligned 16 [d, a] = true → rangesOk s x [(d, wr), (a, rd)] = true →
          exec (.coll w) s = .next (finish ((startEng s x p ctl (modHi w.mod) none).mapGroup x.g.id (fun g =>
            { g with collCount := (lv, collJoined x.g lv + 1) :: g.collCount.filter (fun c => c.1 != lv) })) x (formColl w)))
        ∧ (∀ host dst len ctr : Nat, Runs s x (formCpyg w) act → ctlBad s x ctl false = false →
          host = descWord x w.a.toNat 0 + 2 ^ 32 * descWord x w.a.toNat 1 → dst = descWord x w.a.toNat 2 + 2 ^ 32 * descWord x w.a.toNat 3 →
          len = descWord x w.a.toNat 4 → ctr = descWord x w.a.toNat 5 + 2 ^ 32 * descWord x w.a.toNat 6 → descWord x w.a.toNat 7 = 0 →
          16 ≤ len → len ≤ 65536 → ctr ≠ 0 → aligned 16 [len, host, dst] = true → rangeOk s x (dst, len) = true →
          p = { kind := .cpyg host dst len ctr w.d.toNat, reads := [], writes := [(dst, len)] } →
          exec (.cpyg w) s = .next (finish (setPending (startEng s x p ctl (modHi w.mod) none) x.g.id [w.d.toNat]) x (formCpyg w)))
        ∧ (Runs s x (formRedgo w) act → ctlBad s x ctl false = false → a % 64 = 0 → rangeOk s x (a, 256) = true → spanLocked s x a 256 = false →
          p = { kind := .redgo a w.d.toNat, reads := [(a, 256)], writes := [] } →
          exec (.redgo w) s = .next (finish (setPending (startEng s x p ctl (modHi w.mod) none) x.g.id [w.d.toNat]) x (formRedgo w))))
    ∧ (∀ (s : State) (x : Iss) (act : Mask) (w : FmtA),
        (Runs s x (formEwait w) act → x.g.eng ≤ modLo w.mod →
          exec (.ewait w) s = .next (finish (acquireAt s x (modHi w.mod)) x (formEwait w)))
        ∧ (Runs s x (formEwait w) act → modLo w.mod < x.g.eng →
          exec (.ewait w) s = .next (blockOn s x .wctr 2)))

/-! ## Barriers, abort lines and async objects -/

/-- The state after the arrival of a BAR or BARA, its marks set, and the phases joined (R342 to R344). -/
def arrivedAt (s : State) (x : Iss) (lv : Nat) : State × List (Nat × Nat) :=
  (setMarks (arrive (markDirty s x) x lv).1 x lv (arrive (markDirty s x) x lv).2, (arrive (markDirty s x) x lv).2)

/-- A BAR or BARW that stands before the phases in waits, in the settled state u: it completes where they are over or aborted, acquiring at its level;
otherwise its wait stands with the split, which waits at its clause's end where the instruction is the last of its clause, and where it stands otherwise. -/
def PhaseWait (i : Instr) (s u : State) (x : Iss) (f : Form) (lv : Nat) (waits : List (Nat × Nat)) (d : Option Nat) : Prop :=
  (∀ st, nodeStatus u x.g.inst lv waits = some st → exec i s = .next (finish (endNodeWait u x lv st d) x f))
  ∧ (nodeStatus u x.g.inst lv waits = none → ∀ v : State,
      v = u.mapSplit x.g.id x.sp.id (fun sp => { sp with bar := some (.node lv waits d x.sp.hdr x.sp.idx x.sp.clause.length) }) →
      exec i s = .next (if x.sp.idx + 1 = x.sp.clause.length then finish v x f else blockOn v x .barrier))

/-- R320, R339 to R344: BAR releases, arrives, and completes where the phases it joins are over or aborted, acquiring at its level; otherwise it
waits where it stands or at its clause's end, and one that issues again waits for the phases it joined.  BARA arrives without waiting.  BARW waits
for the phases its marks record, and completes with status 1 where one of their nodes is aborted.
Model's choices it rests on: log entries 45, 46. -/
def Obligations.NodeBarriersComplete : Prop :=
  ∀ (s : State) (x : Iss) (act : Mask) (w : FmtS) (lv : Nat), lv = levelOf x.k.levels w.level.toNat →
    (Runs s x (formBar w) act → x.sp.bar = none → fenceReady s x w.level.toNat = true →
      PhaseWait (.bar w) s (settleBarriers (arrivedAt s x lv).1 x.g.inst) x (formBar w) lv (arrivedAt s x lv).2 (statusReg w))
    ∧ (Runs s x (formBara w) act → fenceReady s x w.level.toNat = true → (∀ i ∈ x.sp.mask.lanes, markOf x.g i lv = none) →
      exec (.bara w) s = .next (finish (arrivedAt s x lv).1 x (formBara w)))
    ∧ (Runs s x (formBarw w) act → x.sp.bar = none → (∀ i ∈ x.sp.mask.lanes, markOf x.g i lv ≠ none) →
      ((markedPhases x lv).any (fun p => nodeAborted (settleBarriers (markDirty s x) x.g.inst) x.g.inst lv p.1) = true →
        exec (.barw w) s = .next (finish (endNodeWait (settleBarriers (markDirty s x) x.g.inst) x lv 1 (statusReg w)) x (formBarw w)))
      ∧ ((markedPhases x lv).any (fun p => nodeAborted (settleBarriers (markDirty s x) x.g.inst) x.g.inst lv p.1) = false →
        PhaseWait (.barw w) s (settleBarriers (settleBarriers (markDirty s x) x.g.inst) x.g.inst) x (formBarw w) lv (markedPhases x lv) (statusReg w)))
    ∧ (∀ (l h j n : Nat) (waits : List (Nat × Nat)) (d : Option Nat), x.sp.bar = some (.node l waits d h j n) →
      (Runs s x (formBar w) act → PhaseWait (.bar w) s (settleBarriers s x.g.inst) x (formBar w) l waits d)
      ∧ (Runs s x (formBarw w) act → PhaseWait (.barw w) s (settleBarriers s x.g.inst) x (formBarw w) l waits d))

/-- R43, R345, R346: ABORT raises the lines of its lanes' nodes; ABCHK writes 1 where one of its lanes' lines is seen raised.
Model's choices it rests on: log entry 47. -/
def Obligations.AbortLinesComplete : Prop :=
  ∀ (s : State) (x : Iss) (act : Mask) (w : FmtS) (lv : Nat), lv = levelOf x.k.levels w.level.toNat →
    (Runs s x (formAbort w) act →
      exec (.abort w) s = .next (finish ((nodesOf x lv act).foldl (fun s n => raiseLine s x.g.inst lv n 12) (markDirty s x)) x (formAbort w)))
    ∧ (Runs s x (formAbchk w) act →
      exec (.abchk w) s = .next (finish (putWord s x.g.id x.sp.id w.d.toNat act act.lowest
        (fun _ => if act.lanes.any (fun i => seenRaised x.k x.g.rank i lv) then 1 else 0)) x (formAbchk w)))

/-- R347 to R349: ABINIT makes its object active, ABARR arrives on an object of its owner and answers the parity, ABWAIT completes once
the object's parity has moved on or it is aborted, acquiring at the object's level.
Model's choices it rests on: log entries 47, 48. -/
def Obligations.AsyncBarriersComplete : Prop :=
  ∀ (s : State) (x : Iss) (act : Mask) (w : FmtS) (lv a st : Nat) (o : AsyncObj),
    lv = levelOf x.k.levels w.level.toNat → a = (readWord x w.a.toNat 0).toNat → o = objOf s x w.id.toNat →
    (Runs s x (formAbinit w) act → bindOf x.k.levels w.level.toNat ≤ 2 → 1 ≤ a → a ≤ 65535 →
      (o.active = false ∨ (ownsObj x.k x.g.rank o = true ∧ o.count = 0 ∧ o.eng = 0)) →
      exec (.abinit w) s = .next (finish (setObj (markDirty s x) x w.id.toNat
        { active := true, nodeOwned := decide (treeG x.k.levels < lv), level := lv, expect := a
          owner := if treeG x.k.levels < lv then nodeIndex x.k.levels x.g.rank 0 lv else x.g.rank }) x (formAbinit w)))
    ∧ (Runs s x (formAbarr w) act → ownsObj x.k x.g.rank (seenObj x o) = true → fenceReady s x (seenObj x o).level = true →
      exec (.abarr w) s = .next (finish (setObj (putStatus (markDirty s x) x.g.id x.sp.id (statusReg w) (if (seenObj x o).phase then 1 else 0))
        x w.id.toNat (seenObj x o).arrive) x (formAbarr w)))
    ∧ (∀ t : State, Runs s x (formAbwait w) act → x.sp.bar = none → ownsObj x.k x.g.rank o = true → a < 2 →
      t = setObj (liftQuarantine (markDirty s x) x.g ((formAbwait w).reads x.k)) x w.id.toNat
        (seenObj x (objOf (liftQuarantine (markDirty s x) x.g ((formAbwait w).reads x.k)) x w.id.toNat)) →
      objStatus t x w.id.toNat (readWord x w.a.toNat 0 == 1) = some st →
      exec (.abwait w) s = .next (finish (endObjWait t x w.id.toNat st (statusReg w)) x (formAbwait w)))

/-! ## The group's own instructions, launches, queues and hints -/

/-- R323 to R327: LOOPHD feeds waiting items to the lanes that are done, IDONE marks lanes done, IPUT appends what fits of its lanes' items
and answers which, TREEID answers its value. -/
def Obligations.GroupInstructionsComplete : Prop :=
  ∀ (s : State) (x : Iss) (act : Mask) (w : FmtS) (fed : List Nat),
    (Runs s x (formLoophd w) act →
      fed = (loopLanes x (levelOf x.k.levels w.level.toNat)).2.take (itemsOf s x).length → laneBits fed ≠ 0 →
      exec (.loophd w) s = .next (finish (markDirty ((((putWord
          (s.mapCore x.g.pkg x.g.core (fun c => { c with items := c.items.drop fed.length })) x.g.id x.sp.id w.d.toNat (laneBits fed) (laneBits fed).lowest
          (fun i => (itemsOf s x).getD (fed.findIdx (fun j => j == i)) 0)).mapGroup x.g.id (fun g => { g with done := g.done &&& ~~~(laneBits fed) })).mapSplit
          x.g.id x.sp.id (fun sp => { sp with mask := laneBits ((loopLanes x (levelOf x.k.levels w.level.toNat)).1.filter (fun i => !x.g.done.getLsbD i)) ||| laneBits fed }))) x) x (formLoophd w)))
    ∧ (Runs s x (formLoophd w) act →
      (loopLanes x (levelOf x.k.levels w.level.toNat)).2.take (itemsOf s x).length = [] →
      exec (.loophd w) s = .next (finish (markDirty (s.mapSplit x.g.id x.sp.id (fun sp => { sp with
        mask := laneBits ((loopLanes x (levelOf x.k.levels w.level.toNat)).1.filter (fun i => !x.g.done.getLsbD i)) })) x) x (formLoophd w)))
    ∧ (Runs s x (formIdone w) act →
      exec (.idone w) s = .next (finish (s.mapGroup x.g.id (fun g => { g with done := g.done ||| act })) x (formIdone w)))
    ∧ (Runs s x (formIput w) act → fed = act.lanes.take (2048 - (itemsOf s x).length) →
      exec (.iput w) s = .next (finish (markDirty (putPred (s.mapCore x.g.pkg x.g.core (fun c =>
        { c with items := c.items ++ fed.map (fun i => readWord x w.a.toNat i) })) x.g.id x.sp.id w.d.toNat act (fun i => fed.contains i)) x) x (formIput w)))
    ∧ (Runs s x (formTreeid (treeVariesAt s w) w) act →
      exec (.treeid w) s = .next (finish (putWord s x.g.id x.sp.id w.d.toNat act act.lowest (fun i => BitVec.ofNat 32
        (treeidVal x.k.levels w.mod.toNat (levelOf x.k.levels w.level.toNat) x.g.rank i))) x (formTreeid (treeVariesAt s w) w)))

/-- A child instance is launched: it waits to be verified, its status register is PENDING and kids counts it (R307, R312). -/
def childLaunched (s : State) (x : Iss) (w : FmtA) (a : LaunchArgs) : State :=
  markDirty (setPending (State.mapGroup
    { s with insts := s.insts ++ [Inst.asOf x.k (ageStart s x.g.pkg x.g.ctx) (newInst s.nextId x.g.pkg x.g.ctx (epochOf s x.g.pkg x.g.ctx)
        (.group x.g.id w.d.toNat (modHi w.mod)) (groupSeesAbort x) a)], nextId := s.nextId + 1 }
    x.g.id (fun g => { g with kids := g.kids + 1 })) x.g.id [w.d.toNat]) x

/-- R300, R307, R312: LAUNCH and LAUNCHI launch a child grid once their release is complete; GARM adds to the arm word of a queue that
exists, and sends 0xFFFFFFFF to its PENDING destination for one that does not.
R399, R406: PGHINT with .mig posts a record for each page it names; its other kinds change no register and no data.
Model's choices it rests on: log entries 42, 55. -/
def Obligations.LaunchesAndHintsComplete : Prop :=
  (∀ (s : State) (x : Iss) (act : Mask) (w : FmtA) (va : Nat),
        (Runs s x (formLaunch w) act → descWord x w.c.toNat 5 = 0 → launchOk s x (launchArgs x w false) = true → fenceReady s x (modHi w.mod) = true →
          exec (.launch w) s = .next (finish (childLaunched s x w (launchArgs x w false)) x (formLaunch w)))
        ∧ (Runs s x (formLaunchi w) act → launchOk s x (launchArgs x w true) = true → fenceReady s x (modHi w.mod) = true →
          exec (.launchi w) s = .next (finish (childLaunched s x w (launchArgs x w true)) x (formLaunchi w)))
        ∧ (Runs s x (formGarm w) act → wordVal x w.a.toNat < 64 → armWordOf s x.g.pkg x.g.ctx (wordVal x w.a.toNat) = some va →
          addrsOk s x 4 false [(act.lowest, va)] = true → fenceReady s x (modHi w.mod) = true →
          exec (.garm w) s = .next (finish (issueWrite (dropGuests (markDirty (setPending s x.g.id [w.d.toNat]) x) x.g.pkg x.g.ctx [va]) x (some 0)
            (.garm w.d.toNat) 4 none 2 act true [{ lane := act.lowest, va := va, data := toLE 4 1 }]) x (formGarm w)))
        ∧ (Runs s x (formGarm w) act → wordVal x w.a.toNat < 64 → armWordOf s x.g.pkg x.g.ctx (wordVal x w.a.toNat) = none →
          fenceReady s x (modHi w.mod) = true →
          exec (.garm w) s = .next (finish (markDirty (sendAnswer (setPending s x.g.id [w.d.toNat]) x w.d.toNat act 0xFFFFFFFF) x) x (formGarm w))))
    ∧ (∀ (s : State) (x : Iss) (act : Mask) (w : FmtM), Runs s x (formPghint w) act → srcEmpty x.g (pghintRegs w) false = .ready →
        1 ≤ wordVal x w.d.toNat → wordVal x w.d.toNat ≤ 512 →
        (w.ord ≠ 2 → exec (.pghint w) s = .next (finish s x (formPghint w)))
        ∧ (w.ord = 2 → exec (.pghint w) s = .next (finish ((List.range (wordVal x w.d.toNat)).foldl (fun s i =>
            hintRecord s x ((effAddr x w.ab.toNat w.off.toInt 0 true 0 / 2 ^ 21 * 2 ^ 21 + 2 ^ 21 * i) % 2 ^ 64)) s) x (formPghint w))))

/-! ## Remote opcodes and near-memory commands -/

/-- R353, R362: ROPLD takes an EMPTY slot to LOADING, answers 0 for the image that stands loaded and 0x37 for another, and 0x3A for an
image above 4,096 bytes; ROPDROP takes a LOADED slot to DROPPING and answers 0x39 for any other.
Model's choices it rests on: log entries 31, 32. -/
def Obligations.DefinitionInstructionsComplete : Prop :=
  ∀ (s : State) (x : Iss) (act : Mask) (w : FmtA) (slot va len : Nat) (sl : DefSlot),
    sl = slotOf s x.g.pkg x.g.ctx slot → slot < 64 →
    (Runs s x (formRopld w) act → slot = wordVal x w.c.toNat → va = addrVal x w.a.toNat → len = wordVal x w.b.toNat → va % 8 = 0 →
      (routeOf s x.g.pkg x.g.ctx va).isSome = true →
      exec (.ropld w) s = .next (finish (match sl.state with
        | .loaded => startDefOp s x slot w.d.toNat true va len (some (if sl.va = va ∧ sl.len = len then 0 else 0x37)) false
        | .loading => startDefOp s x slot w.d.toNat true va len (if sameLoading s x.g.pkg x.g.ctx slot va len then none else some 0x37) false
        | .dropping => startDefOp s x slot w.d.toNat true va len (some 0x37) false
        | .empty =>
          if 4096 < len then startDefOp s x slot w.d.toNat true va len (some 0x3A) false
          else startDefOp (setSlots s x.g.pkg x.g.ctx slot (fun t => { t with state := .loading })) x slot w.d.toNat true va len none true) x (formRopld w)))
    ∧ (Runs s x (formRopdrop w) act → slot = wordVal x w.a.toNat →
      exec (.ropdrop w) s = .next (finish (if sl.state = .loaded then
          startDefOp (setSlots s x.g.pkg x.g.ctx slot (fun t => { t with state := .dropping })) x slot w.d.toNat false 0 0 none true
        else startDefOp s x slot w.d.toNat false 0 0 (some 0x39) false) x (formRopdrop w)))

/-- R364 to R367: ROP and ROPR send their request to its home where the slot is loaded, the target passes its checks, the group has
fewer than 64 requests out, and a release's condition holds.
R379 to R382: the near-memory instructions send their command to the pseudo-channel of their address and leave D PENDING, where their
words are in range and the address lies on the package's own memory-homed single channel.
Model's choices it rests on: log entry 40. -/
def Obligations.RemoteAndNearMemoryOpcodesSend : Prop :=
  (∀ (s : State) (x : Iss) (act : Mask) (w : FmtA) (slot va : Nat) (sl : DefSlot),
        slot = wordVal x w.c.toNat → va = addrVal x w.a.toNat → sl = slotOf s x.g.pkg x.g.ctx slot → slot < 64 → sl.state = .loaded →
        ropSiteOk s x va sl.img = true → x.g.rop < 64 → (ropOrd w.mod < 2 ∨ fenceReady s x (modHi w.mod) = true) →
        (Runs s x (formRop w) act → exec (.rop w) s = .next (finish (sendRop s x w slot va sl false) x (formRop w)))
        ∧ (Runs s x (formRopr w) act → defRet sl.img ≠ 0 → exec (.ropr w) s = .next (finish (sendRop s x w slot va sl true) x (formRopr w))))
    ∧ (∀ (s : State) (x : Iss) (act : Mask) (w : FmtA) (va b c : Nat),
        va = addrVal x w.a.toNat → b = wordVal x w.b.toNat → c = wordVal x w.c.toNat → nmSiteOk s x va = true →
        (Runs s x (formNmmodeOn w) act →
          exec (.nmmodeOn w) s = .next (finish (sendNm s x act va w.d.toNat (.on (w.mod.getLsbD 1))) x (formNmmodeOn w)))
        ∧ (Runs s x (formNmmodeOff w) act → exec (.nmmodeOff w) s = .next (finish (sendNm s x act va w.d.toNat .off) x (formNmmodeOff w)))
        ∧ (Runs s x (formNmbc w) act → 1 ≤ c / 256 % 128 → c / 256 % 128 ≤ 96 → c < 2 ^ 15 → c % 256 + c / 256 % 128 ≤ 256 →
          exec (.nmbc w) s = .next (finish (sendNm s x act va w.d.toNat (.bc (c % 256) (c / 256 % 128)
            ((List.range (c / 256 % 128)).map (fun j => readWord x w.b.toNat j)))) x (formNmbc w)))
        ∧ (Runs s x (formNmzero w) act → 1 ≤ b / 64 % 128 → b / 64 % 128 ≤ 64 → b < 2 ^ 13 → b % 64 + b / 64 % 128 ≤ 64 →
          exec (.nmzero w) s = .next (finish (sendNm s x act va w.d.toNat (.zero (b % 64) (b / 64 % 128))) x (formNmzero w)))
        ∧ (Runs s x (formNmmac w) act → nmmacBad b c (va / 512 % 64) = false → va % 512 = 0 → spanLocked s x va (512 * (b % 128)) = false →
          exec (.nmmac w) s = .next (finish (sendNm s x act va w.d.toNat
            (.mac (b % 128) (b / 128 % 64) (b / 2 ^ 13 % 8) (c % 256) (c / 256 % 256))) x (formNmmac w)))
        ∧ (Runs s x (formNmrd w) act → 1 ≤ b / 64 % 8 → b / 64 % 8 ≤ 6 → b < 2 ^ 9 → b % 64 + b / 64 % 8 ≤ 64 →
          exec (.nmrd w) s = .next (finish (sendNm s x act va w.d.toNat (.rd (b % 64) (b / 64 % 8))) x (formNmrd w))))


/-! ## Steps of the device: scheduling and waits -/

/-- R60, R83, R85, R202, R203, R305, R317: at a clause boundary of an ACTIVE group CLAUSE_FETCH merges first where two splits will fetch one header.
With nothing to merge, of a split that no other split holds back and whose code's home answers it in its epoch, in a group that no swap of its core is
due before, it begins the clause where the clause is well-formed and neither its counter nor a PENDING register holds it, starts the wait where one
does, and takes the clause's trap where it breaks R80 to R85.
Model's choices it rests on: log entries 60 to 62, 126, 130. -/
def Obligations.ClauseFetchCompletes : Prop :=
  ∀ (s : State) (x : Iss) (gid spid : Nat), s.group? gid = some x.g → s.inst? x.g.inst = some x.k → x.g.split? spid = some x.sp →
    x.g.saving = false → x.g.waitOver = false → x.g.state = .active → x.sp.resume = none → x.g.atBoundary = true →
    ((mergePair x.g).isSome = true → exec (.clauseFetch gid spid .none) s = .next (mergeAll s gid 4))
    ∧ (mergePair x.g = none → mustLeave s x.g = false → swapDue s x.g = false → entryDue s x.g = false → mergeStalls x.g x.sp = false →
      x.sp.bar = none → x.sp.fetchLost = false → fetchDropped s x (x.k.codeVa + x.sp.hdr) = false → heldBack s x.g x.k x.sp = false →
      (∀ (h : ClauseHdr) (ws : List DWord), fetchClause s x = .ok h ws → boundaryWait s x h ws = none →
        nodeResident s x.g x.k = true → holdsTurn s x.g x.k x.sp = false →
        exec (.clauseFetch gid spid .none) s = .next (beginClause s x h ws))
      ∧ (∀ (h : ClauseHdr) (ws : List DWord) (kind : WaitKind) (t : State), fetchClause s x = .ok h ws → boundaryWait s x h ws = some kind →
        startBoundaryWait s x kind h.wctr ws = some t → exec (.clauseFetch gid spid .none) s = .next t)
      ∧ (∀ (t : Trap) (p : TrapAt), fetchClause s x = .trap t p → x.sp.window = none →
        exec (.clauseFetch gid spid .none) s = .next (takeTrap s x.g x.sp x.k t p)))

/-- R84, R203, R316, R318, R319: a held split goes free after 64 clauses of the others; a RESIDENT ready group takes a free place where no other
ready group of its core has the better claim; an ACTIVE group at a boundary leaves where its departure was due or is due now (none of its splits is
ready, its clause asked to yield while a ready group waits, or it has been active longest while one has been ready for 2,048 cycles), and a PARKED one
gives up its place.
R120, R153, R154, R216, R225, R406: a wait that has reached its limit, of a group that is on its core, traps with WAITTO, INFO the kind of wait, and a hint blocked in place
passes over there; WAITT and the fences end once
their tick has come; a FENCES window without a conflict closes once T has come and its earlier loads are performed, its own loads loads like any other
and the denied ones ended, and one with a conflict rolls back.
Model's choices it rests on: log entries 35, 54, 55, 60, 103. -/
def Obligations.ActiveSetAndWaitEventsComplete : Prop :=
  (∀ (s : State) (x : Iss) (gid spid : Nat), s.group? gid = some x.g → s.inst? x.g.inst = some x.k →
        (x.g.split? spid = some x.sp → heldBack s x.g x.k x.sp = true → 64 ≤ x.sp.held →
          exec (.splitHoldEnd gid spid) s = .next (s.mapSplit gid spid (fun sp => { sp with free := true, held := 0 })))
        ∧ (x.g.state = .resident → groupReady s x.g = true → placesTaken (groupsOn s x.g) < 8 →
          (groupsOn s x.g).any (fun o => o.id != gid && o.state == .resident && groupReady s o && betterClaim s x.g o) = false →
          exec (.activeSetEnter gid) s = .next (s.mapGroup gid (fun g => { g with state := .active, readyCyc := 0, activeSince := s.tick })))
        ∧ (x.g.atBoundary = true → x.g.state = .active → (x.g.leaving = true ∨ departs s x.g = true) →
          exec (.activeSetLeave gid) s = .next (leaveActive s x.g))
        ∧ (x.g.atBoundary = true → x.g.state = .parked → x.g.holdsPlace = true →
          exec (.activeSetLeave gid) s = .next (leaveActive s x.g))
        ∧ (x.g.atBoundary = true → x.g.state = .active →
          (groupsOn s x.g).any (fun o => o.state == .resident && decide (2048 ≤ o.readyCyc) && groupReady s o) = true →
          (groupsOn s x.g).any (fun o => o.state == .active && o.atBoundary && decide (o.activeSince < x.g.activeSince)) = false →
          exec (.swapTimeout gid) s = .next (leaveActive s x.g)))
    ∧ (∀ (s : State) (x : Iss) (gid spid : Nat), s.group? gid = some x.g → s.inst? x.g.inst = some x.k → x.g.split? spid = some x.sp →
        (∀ (v : Wait) (lim : Nat), x.sp.wait = some v → waitLimit x.g.waitlim = some lim → lim ≤ v.count →
          (x.g.counting = true ∨ x.g.state = .parked) → x.sp.window = none →
          ((v.boundary = true ∨ x.sp.atHint = false) →
            exec (.waitto gid spid) s = .next (takeTrap s x.g x.sp x.k { cause := 0x07, info := v.kind.code } (x.sp.waitPlace v)))
          ∧ (v.boundary = false → x.sp.atHint = true → exec (.waitto gid spid) s = .next (s.mapSplit gid spid Split.advance)))
        ∧ (∀ (w : FmtA) (act : Mask) (t : Nat), standsAt s gid spid = some (x, .waitt w) → x.sp.waitt = some t → t ≤ nowOf s x.g →
          Runs { s with cur := some (gid, spid) } x (formWaitt w) act →
          exec (.waittExpire gid spid) s = .next (finish { s with cur := some (gid, spid) } x (formWaitt w)))
        ∧ (∀ (w : FmtA) (act : Mask) (t : Nat), standsAt s gid spid = some (x, .waittD w) → x.sp.waitt = some t → t ≤ nowOf s x.g →
          Runs { s with cur := some (gid, spid) } x (formWaittD w) act →
          exec (.waittExpire gid spid) s = .next (finish { s with cur := some (gid, spid) } x (formWaittD w)))
        ∧ (∀ (w : FmtM) (act : Mask), standsAt s gid spid = some (x, .fence w) → fenceReady s x w.scope.toNat = true →
          Runs { s with cur := some (gid, spid) } x (formFence w) act →
          exec (.fenceComplete gid spid) s = .next (finish { s with cur := some (gid, spid) } x (formFence w)))
        ∧ (∀ v : Window, x.sp.window = some v → v.conflict = false → v.target ≤ nowOf s x.g → earlierLoadsDone s gid spid v.firstLoad = true →
          exec (.fencesWindowClose gid spid) s = .next (endWindowDenials
            ((State.mapGroup (closeLoads s gid spid v.firstLoad) gid (fun g => g.closeLogs spid)).mapSplit gid spid (fun sp => { sp with window := none, rollbacks := 0, asFence := false })) gid spid))
        ∧ (∀ v : Window, x.sp.window = some v → v.conflict = true →
          exec (.fencesRollback gid spid) s = .next (rollback s x.g x.sp v true)))

/-! ## Steps of the device: the memory system -/

/-- A lane of a load is performed at its home: no earlier acquire holds it, its home is reached and in its epoch, no earlier access of its splits
is parked on its page, and, where the load is not plain, no earlier write of theirs to the line and no earlier coherent access to its bytes is
unperformed (R147, R150, R159, R283, R401). -/
def mayRead (s : State) (l : Load) (a : LaneAcc) : Bool :=
  !acqPending s l.gid l.holders l.id && linked s l.pkg l.ctx a.va && !staleAt s l.pkg l.ctx l.epoch a.va
    && !olderParked s l.gid l.holders l.id a.va
    && (l.plain || (!olderWrite s l.gid l.holders l.id a.lane (lineOf a.va) && !olderCoherent s l.gid l.holders l.id a.va l.width))

/-- A lane of a load may be served by its core's L1 or by a guest copy, as far as its own order goes: no acquire and no earlier access of its splits holds it, and it does not replay
after its page's MAP (R150, R159, R401). -/
def mayServe (s : State) (l : Load) (a : LaneAcc) : Bool :=
  !acqPending s l.gid l.holders l.id && !olderParked s l.gid l.holders l.id a.va && !a.replay && (l.plain || !olderCoherent s l.gid l.holders l.id a.va l.width)

/-- Line `line` of a matrix step's operands is read at its home next (R159, R245, R283, R400, R421). -/
def stepLineReads (s : State) (st : Step) (line : Nat) : Bool :=
  let va := vaFull (128 * line)
  (stepLines st).contains line && !st.fetched.any (fun f => f.line == line) && !st.parked.any (fun p => pageVa (128 * p) == pageVa va) && !st.lost.contains line
    && linkedBoth s st.pkg st.ctx va && !acqPending s st.gid st.holders st.id && !olderWrite s st.gid st.holders st.id 0 line && !olderParked s st.gid st.holders st.id va
    && !staleAt s st.pkg st.ctx st.epoch va

/-- Unit u of an engine operation, the bytes p, is read at its home next. -/
def engUnitReads (s : State) (e : Eng) (u : Nat) (p : Nat × Nat) : Bool :=
  (e.got u).isNone && e.parked.isEmpty && !acqPending s e.gid e.holders e.id && !engBehind s e p && linkedBoth s e.pkg e.ctx p.1 && !e.lost.contains (false, u)
    && !engWaits s e p true && !staleAt s e.pkg e.ctx e.epoch p.1

/-- Unit j of a definition load, the bytes p, is read at its home next. -/
def defUnitReads (s : State) (o : DefOp) (j : Nat) (p : Nat × Nat) : Bool :=
  o.load && o.lead && o.code.isNone && !o.units.any (fun u => u.1 == j) && !acqPending s o.gid o.holders o.id && !o.lost.contains j
    && !(unitLines p).any (fun l => olderWrite s o.gid o.holders o.id 0 l) && !olderParked s o.gid o.holders o.id p.1 && linkedBoth s o.pkg o.ctx p.1
    && !staleAt s o.pkg o.ctx o.epoch p.1

/-- R24, R118, R134, R145, R147, R220, R245, R255, R330, R353, R399: LOAD_PERFORM gives a lane its bytes as its home holds them (a plain load's, as they were at its issue), as an L1 snapshot
of its line that no later order forbids holds them, or as a guest copy that may serve it does; it reads a line of a matrix step's operands, a unit of an engine operation and a unit of a
definition's image, a poisoned one with UNCORR, for the operation to carry, or as 0x3A; it parks the lanes of a page that is not mapped with a record and their group, and the step or
operation with a record.  LOAD_DELIVER writes the destination of a load whose lanes have all been performed and answered; R402: one whose lanes a DENY has ended in part ends, its register
VOID but for what its other lanes read.
Model's choices it rests on: log entries 16, 18, 33 to 36, 118, 133. -/
def Obligations.LoadEventsComplete : Prop :=
  (∀ (s : State) (l : Load) (a : LaneAcc) (op lane h p key : Nat) (bs : List Byte) (bad : Bool), s.load? op = some l →
    (waitingLane l.lanes lane = some a → mayRead s l a = true → translate s l.pkg l.ctx a.va = .at_ h p key → a.va % 128 + l.width ≤ 128 →
      readHome s l.pkg l.ctx a.va l.width = .bytes bs bad →
      exec (.loadPerform (.lane op lane) .home .none) s = .next (laneRead (registerLine s l (lineOf a.va)) l a
        (if a.atIssue.isEmpty then bs else a.atIssue) (if a.atIssue.isEmpty then bad else a.bad) (if l.plain then none else some (orderOf s l.ctx (lineOf a.va)))))
    ∧ (waitingLane l.lanes lane = some a → mayRead s l a = true → translate s l.pkg l.ctx a.va = .fault h p key →
      exec (.loadPerform (.lane op lane) .home .none) s = .next (parkAccess
        (s.mapLoad l.id (fun l => { l with lanes := parkLanes a.va l.lanes })) l.gid l.ctx l.kind l.lanes a.va h p key))
    ∧ (∀ (k : Nat) (c : Core) (sn : Snapshot), waitingLane l.lanes lane = some a → mayServe s l a = true → s.core? l.pkg l.core = some c → (c.l1 ++ c.past)[k]? = some sn →
      sn.line = lineOf a.va → l.plain = true → a.ver.all (sn.ver ≤ ·) = true →
      exec (.loadPerform (.lane op lane) (.l1 k) .none) s = .next (laneRead s l { a with near := true } (fromLine sn.bytes a.va l.width) false none))
    ∧ (∀ (k : Nat) (gc : Guest), waitingLane l.lanes lane = some a → mayServe s l a = true → s.guests[k]? = some gc → guestServes s l a gc = true →
      exec (.loadPerform (.lane op lane) (.guest k) .none) s = .next (laneRead s l { a with near := true } (fromLine gc.bytes a.va l.width) false
        (if l.plain then none else some gc.ver)))
    ∧ (∀ d ty once, l.performed = true → lanesAnswered s l.pkg l.ctx l.lanes = true → anyFailed l.lanes = false → (s.group? l.gid).isSome = true → l.use = .reg d ty once →
      exec (.loadDeliver op) s = .next (standWrites (putWords (s.dropLoad l.id) l.gid (firstHolder l.holders) d l.mask l.mask.lowest
        (laneVals l.lanes once (fun a => loadConv ty a.data)) (memRegs ty)) l))
    ∧ (∀ d once, l.performed = true → lanesAnswered s l.pkg l.ctx l.lanes = true → anyFailed l.lanes = false → (s.group? l.gid).isSome = true → l.use = .const d once →
      exec (.loadDeliver op) s = .next (standWrites (putWords (s.dropLoad l.id) l.gid (firstHolder l.holders) d l.mask l.mask.lowest
        (laneVals l.lanes once (fun a => leNat a.data)) 1) l))
    ∧ (l.performed = true → lanesAnswered s l.pkg l.ctx l.lanes = true → anyFailed l.lanes = true → l.windowed = false → (s.group? l.gid).isSome = true →
      exec (.loadDeliver op) s = .next (endDeniedLoad s l)))
  ∧ (∀ (s : State) (op u : Nat) (bs : List Byte) (bad : Bool) (h p c : Nat),
    (∀ st : Step, s.step? op = some st → st.id = op → stepLineReads s st u = true →
      (homeRead s st.pkg st.ctx (vaFull (128 * u)) 128 5 (recGid s st.gid) .none = .ok s bs bad →
        exec (.loadPerform (.stepLine op u) .home .none) s = .next (if bad then raiseUncorr s st.pkg st.ctx st.core (stepAddr st u)
          else s.mapStep op (fun st => { st with fetched := st.fetched ++ [{ line := u, bytes := bs }] })))
      ∧ (homeRead s st.pkg st.ctx (vaFull (128 * u)) 128 5 (recGid s st.gid) .none = .fault h p c →
        exec (.loadPerform (.stepLine op u) .home .none) s = .next (faultRec (s.mapStep op (fun st => { st with parked := st.parked ++ [u] })) h st.ctx 5 c false
          (recGid s st.gid) (stepAddr st u) p 0)))
    ∧ (∀ (e : Eng) (r : EngRow) (q : Nat × Nat), s.eng? op = some e → e.id = op → unitOf (readRow s e) u = some (r, q) → engUnitReads s e u q = true →
      (homeRead s e.pkg e.ctx q.1 q.2 (engRecKind e) (recGid s e.gid) .none = .ok s bs bad →
        exec (.loadPerform (.engUnit op u) .home .none) s = .next (afterRead (s.mapEng op (fun e =>
          { e with reads := e.reads ++ [(u, bs)], poison := unitPoison s e u q ++ e.poison })) op))
      ∧ (homeRead s e.pkg e.ctx q.1 q.2 (engRecKind e) (recGid s e.gid) .none = .fault h p c →
        exec (.loadPerform (.engUnit op u) .home .none) s = .next (parkEng s e q.1 h p c)))
    ∧ (∀ (o : DefOp) (q : Nat × Nat), s.defOp? op = some o → o.id = op → defUnit o u = some q → defUnitReads s o u q = true →
      (homeRead s o.pkg o.ctx q.1 q.2 0 (recGid s o.gid) .none = .ok s bs bad →
        exec (.loadPerform (.defUnit op u) .home .none) s = .next (if bad then endDefLoad s o 0x3A else s.mapDefOp op (fun o => { o with units := o.units ++ [(u, bs)] })))
      ∧ (homeRead s o.pkg o.ctx q.1 q.2 0 (recGid s o.gid) .none = .fault h p c →
        exec (.loadPerform (.defUnit op u) .home .none) s = .next (endDefLoad s o 0x3A))))

/-- The access of an atomic or a GARM whose answer has been delivered: it ends, unless its completion time is still to return. -/
def writeAnswered (w : Write) (s : State) : State := if w.holders.isEmpty then s.dropWrite w.id else s.mapWrite w.id (fun w => { w with use := .none })

/-- Unit u of an engine operation, the bytes p, is written at its home next, as far as the operation's own order goes (R168, R255, R258, R283). -/
def engUnitWrites (s : State) (e : Eng) (u : Nat) (p : Nat × Nat) : Bool :=
  !e.written.contains u && e.parked.isEmpty && !engBehind s e p && linkedBoth s e.pkg e.ctx p.1 && !e.lost.contains (true, u)
    && !(unitLines p).any (fun l => lineHeld s e.pkg e.ctx (vaFull (128 * l))) && !staleAt s e.pkg e.ctx e.epoch p.1

/-- R147 to R150, R162, R168, R220, R227: WRITE_PERFORM writes a store's lane at its home, ATOMIC_EXECUTE reads and writes its location at one instant with
the new value of R227, both with the lane's completion time; and CT_RETURN gives a performed and answered write's largest completion time to every split that
holds it.
R118, R226, R227, R300, R402: LOAD_DELIVER gives an atomic's old value, and a GARM's old value plus 1, to their destination, and leaves it VOID where a DENY has ended lanes.
R24, R255, R258, R404: WRITE_PERFORM of an engine operation's unit writes its bytes with the poison they carry and takes in their completion time, is held at the unit of a MIGRATING page,
and parks on a page that is not mapped.
R134, R144, R145: a guest copy of a CH line of another package is filled for a load that wants it, under a lease of 1 to LEASEMAX ticks that
its home remembers; it is dropped from the holder's expiry less 40 on; and a core's L1 takes a line as its home holds it.
Model's choices it rests on: log entries 17, 18, 59, 95, 118. -/
def Obligations.WriteAndCopyEventsComplete : Prop :=
  (∀ (s : State) (w : Write) (a : LaneAcc) (op lane h p key o : Nat) (old : List Byte) (bad : Bool), s.write? op = some w →
        (waitingLane w.lanes lane = some a → w.atom = none → writeHeld s w a = false → staleAt s w.pkg w.ctx w.epoch a.va = false →
          translate s w.pkg w.ctx a.va = .at_ h p key →
          exec (.writePerform (.lane op lane) .none) s = .next (laneWritten s w a h key [] a.data))
        ∧ (waitingLane w.lanes lane = some a → w.atom = none → writeHeld s w a = false → staleAt s w.pkg w.ctx w.epoch a.va = false →
          translate s w.pkg w.ctx a.va = .fault h p key →
          exec (.writePerform (.lane op lane) .none) s = .next (parkWrite s w a h p key))
        ∧ (waitingLane w.lanes lane = some a → w.atom = some o → writeHeld s w a = false → staleAt s w.pkg w.ctx w.epoch a.va = false →
          translate s w.pkg w.ctx a.va = .at_ h p key →
          (poisonedAt s key (atomWidth o) = false ∨ w.use = .none) → readHome s w.pkg w.ctx a.va (atomWidth o) = .bytes old bad →
          exec (.atomicExecute op lane) s = .next (laneWritten s w a h key old
            (toLE (atomWidth o) (atomNew o (leNat old) (leNat a.data) (leNat a.cmp)))))
        ∧ (∀ (g : Group) (t u : State), w.performed = true → lanesAnswered s w.pkg w.ctx w.lanes = true → s.group? w.gid = some g →
          (w.holders ≠ [] → t = (returnCt s w.gid w.holders w.id w.ctOf).mapInst g.inst (fun k => { k with maxCt := max k.maxCt w.ctOf }) →
            u = (if w.rel then returnRelease t w else t) →
            exec (.ctReturn op) s = .next (if w.use = .none then u.dropWrite op else u.mapWrite op (fun w => { w with holders := [] })))
          ∧ (s.load? op = none → w.id = op →
            (∀ (d : Nat) (wide : Bool), w.use = .atomReg d wide →
              (anyFailed w.lanes = false → exec (.loadDeliver op) s = .next (writeAnswered w (putWords s w.gid (firstHolder w.holders) d w.mask w.mask.lowest
                (laneVals w.lanes w.scalar (fun a => leNat a.cmp)) (if wide then 2 else 1))))
              ∧ (anyFailed w.lanes = true → exec (.loadDeliver op) s = .next (writeAnswered w (endDenied s w.gid w.use.regs w.lanes w.scalar (fun a => leNat a.cmp)))))
            ∧ (∀ d : Nat, w.use = .garm d →
              (anyFailed w.lanes = false → exec (.loadDeliver op) s = .next (writeAnswered w (putWord s w.gid (firstHolder w.holders) d w.mask w.mask.lowest
                (fun _ => BitVec.ofNat 32 (laneVals w.lanes true (fun a => leNat a.cmp) 0 + 1)))))
              ∧ (anyFailed w.lanes = true → exec (.loadDeliver op) s = .next (writeAnswered w (setVoid s w.gid [d])))))))
    ∧ (∀ (s : State) (op u h p key ct : Nat) (e : Eng) (r : EngRow) (q : Nat × Nat) (bs : List Byte), s.eng? op = some e → e.id = op →
        unitOf (writeRow s e) u = some (r, q) → engUnitWrites s e u q = true → writeBytes s e (u / 2 ^ 32) (u % 2 ^ 32) q r = some bs →
        (translate s e.pkg e.ctx q.1 = .at_ h p key → engWaits s e q false = false →
          ct = (unitLines q).foldl (fun n l => max n (writeCt s e.pkg h e.ctx l)) e.ct →
          exec (.writePerform (.engUnit op u) .none) s = .next ((engPoison (writeSpan s e.pkg e.ctx q.1 bs) e u r q key).mapEng op (fun e =>
            { e with written := e.written ++ [u], ct := ct })))
        ∧ (∀ t : State, translate s e.pkg e.ctx q.1 = .at_ h p key → engWaits s e q false = true → holdCuu s (.eng op) = some t →
          exec (.writePerform (.engUnit op u) .none) s = .next t)
        ∧ (translate s e.pkg e.ctx q.1 = .fault h p key → exec (.writePerform (.engUnit op u) .none) s = .next (parkEng s e q.1 h p key)))
    ∧ (∀ (s : State) (pkg ctx line lease : Nat) (e : PtEntry) (c : Ctx) (bs : List Byte),
        (routeOf s pkg ctx (vaFull (128 * line)) = some e → s.ctx? pkg ctx = some c → linkedNow s pkg ctx (vaFull (128 * line)) = true → e.mh = false →
          e.home ≠ pkg → 1 ≤ lease → lease ≤ c.lease → wantsGuest s pkg ctx line = true →
          s.leaseHold.any (fun x => x.1 == ctx && x.2.1 == line && decide (homeNow s e.home < x.2.2)) = false →
          readHome s pkg ctx (vaFull (128 * line)) 128 = .bytes bs false →
          exec (.guestCopyFill pkg ctx line lease) s = .next { s with
            guests := { pkg := pkg, ctx := ctx, line := line, bytes := bs, expiry := homeNow s e.home + lease, ver := orderOf s ctx line }
              :: s.guests.filter (fun o => !(o.pkg == pkg && o.ctx == ctx && o.line == line)),
            leases := (ctx, line, max (homeNow s e.home + lease) (leaseOf s ctx line)) :: s.leases.filter (fun x => !(x.1 == ctx && x.2.1 == line)) })
        ∧ (s.guests.any (fun o => o.pkg == pkg && o.ctx == ctx && o.line == line && decide (o.expiry ≤ homeNow s pkg + 40)) = true →
          exec (.guestCopyExpire pkg ctx line) s = .next { s with
            guests := s.guests.filter (fun o => !(o.pkg == pkg && o.ctx == ctx && o.line == line && decide (o.expiry ≤ homeNow s pkg + 40))) })
        ∧ (∀ (core : Nat) (cr : Core) (k : Inst), s.core? pkg core = some cr → s.inst? cr.inst = some k →
          linkedNow s pkg k.ctx (vaFull (128 * line)) = true → readHome s pkg k.ctx (vaFull (128 * line)) 128 = .bytes bs false →
          exec (.l1PrefetchFill pkg core line) s = .next (s.mapCore pkg core (fun c =>
            { c with l1 := c.l1 ++ [{ line := line, bytes := bs, ver := orderOf s k.ctx line }] }))))

/-! ## Steps of the device: matrix steps, engines, remote opcodes, near memory -/

/-- The group after a matrix step: its products in its view, the step out of its batch, and every register of the view FULL that no other
step of the group writes. -/
def afterStep (s : State) (g : Group) (c : Core) (k : Inst) (st : Step) : Group :=
  (viewOf (viewWord k (768 + st.view))).regs.foldl
    (fun g r => if (s.steps.filter (fun o => o.id != st.id && o.gid == st.gid)).any (fun o => (stepRegs k o).contains r) then g else g.setRegState r .full)
    ((stepResult g c st ((fmtClass st.afmt).getD 0) (viewOf (viewWord k (768 + st.view)))).stepDone st.id)

/-- R66 to R70, R167, R244 to R250, R255, R266: a committed step whose operands have been taken, with no step of its core before it, completes:
its view holds the sums and its tiles and range-lock entries are released (R24: UNCORR where a tile is poisoned); an engine operation that is not a collective completes once its reads, writes and
requests are at an end and its time is reached.
R388 to R390, R414 to R416, R422, R446: REDGO reads its block and its sources and decides its status, its flag is written once the sum's writes, and the release stores before it, are complete,
CPYG is carried out where no earlier one of its context is under way, and a trained base-die link that fails breaks the REDGOs whose path needs it.
Model's choices it rests on: log entries 20 to 24, 38, 118, 120, 131. -/
def Obligations.EngineEventsComplete : Prop :=
  (∀ (s : State) (op : Nat),
        (∀ (st : Step) (g : Group) (c : Core) (k : Inst), s.step? op = some st → st.id = op → s.group? st.gid = some g → s.core? st.pkg st.core = some c →
          s.inst? g.inst = some k → st.seq ≠ 0 → st.ready = true → s.steps.any (fun o => stepBefore o st) = false →
          (stepPoisoned c st ((fmtClass st.afmt).getD 0) = true →
            exec (.matrixStepComplete op) s = .next (raiseUncorr s st.pkg st.ctx st.core 0))
          ∧ (stepPoisoned c st ((fmtClass st.afmt).getD 0) = false → exec (.matrixStepComplete op) s = .next (((releaseOp s st.pkg st.core op ([st.a.entry, st.b.entry].filterMap (fun t => t))).mapGroup st.gid
            (fun _ => afterStep s g c k st)).dropStep op)))
        ∧ (∀ e : Eng, s.eng? op = some e → (∀ a b c d f g h, e.kind ≠ .coll a b c d f g h) → engWorkDone s e = true → engTimeReached s e = true →
          exec (.engineOpComplete op) s = .next (endEng s e))
        ∧ (∀ (e : Eng) (a b c lv k t q : Nat), s.eng? op = some e → e.kind = .coll a b c lv k t q → (collMembers s e).length = collP s e lv →
          (collMembers s e).all (fun m => writesDone s m && engTimeReached s m) = true →
          exec (.engineOpComplete op) s = .next ((collMembers s e).foldl endEng s)))
    ∧ (∀ (s : State) (op : Nat) (e : Eng),
        (∀ (block d : Nat) (u v : State) (e2 : Eng), s.eng? op = some e → e.kind = .redgo block d → e.tail = false → e.parked = [] →
          readRowsFrom s op 1 = some u → readRowsFrom u op 17 = some v → v.eng? op = some e2 → e2.parked = [] →
          exec (.redgoExecute op) s = .next (rdeDecide v e2 block))
        ∧ (∀ (block d h p key : Nat) (b : RdeBlock), s.eng? op = some e → e.kind = .redgo block d → rdeGood s e block = some b → b.flagen = true →
          e.writing = true → writesDone s e = true → engTimeReached s e = true → e.parked = [] → engBehind s e (b.flag, 4) = false →
          lineHeld s e.pkg e.ctx b.flag = false → migrating s e.pkg e.ctx b.flag = false → releasePending s e = false →
          linked s e.pkg e.ctx b.flag = true → staleAt s e.pkg e.ctx e.epoch b.flag = false → translate s e.pkg e.ctx b.flag = .at_ h p key →
          exec (.redgoFlagWrite op) s = .next (endEng (performAt s h e.ctx b.flag key (toLE 4 b.flagval))
            { e with ct := max e.ct (writeCt s e.pkg h e.ctx (lineOf b.flag)) }))
        ∧ (∀ (host dst len counter d code : Nat) (bs : List Byte) (c : Ctx) (p : Pkg), s.eng? op = some e → e.kind = .cpyg host dst len counter d →
          s.ctx? e.pkg e.ctx = some c → s.pkg? e.pkg = some p → e.tail = false → e.parked = [] →
          (∀ o ∈ s.engs, o.id ≠ op → o.pkg = e.pkg → o.ctx = e.ctx → cpygAhead e o = false) →
          acqPending s e.gid e.holders op = false → spanFault s e.pkg e.ctx dst len = none → cpygResult s c p e.fell host dst len counter = (code, bs) →
          exec (.cpygExecute op) s = .next ((if code = 0 then s.bumpChoice.mapCtx e.pkg e.ctx (fun c => { c with last := counter }) else s.bumpChoice).mapEng op
            (fun e => { e with tail := true, status := some code, reads := [(0, bs)] })))
        ∧ (∀ (pkg link : Nat) (p : Pkg), s.pkg? pkg = some p → p.bdLinks[link]? = some .up →
          exec (.baseDieLinkFail pkg link) s = .next
            ((s.engs.filter (fun e => e.pkg == pkg)).foldl (breakRedgo link) (s.mapPkg pkg (fun p => { p with bdLinks := setAt p.bdLinks link .failed })))))

/-- R168, R279, R283, R368 to R374, R404, R421: a request that reaches a running context's home, in the order its core sent it to that unit, runs there as one granule where no held
request of its unit is ahead of it and none of its pages or lines is held, and is held at the unit otherwise; one that meets no context takes its fault behaviour, one that meets
another epoch or a faulted context is dropped and counted, one that meets a descheduled context joins its wings ring or finds it full; two requests for one target combine; an
acknowledged request ends at every issuer once its home has a way to each.
Model's choices it rests on: log entries 25 to 31, 82, 95, 112, 119, 132. -/
def Obligations.RemoteEventsComplete : Prop :=
  ∀ (s : State) (op : Nat) (r : Rop),
    (∀ c : Ctx, s.rop? op = some r → r.coming = true → ropBehind s r = false → ropReaches s r (ropHome s r) = true →
      (r.phase = .sent → ropSentAfter s r = false) →
      (s.ctx? (ropHome s r) r.ctx = none → exec (.ropGranule op) s = .next (faultRop s r (ropHome s r) 6 0))
      ∧ (s.ctx? (ropHome s r) r.ctx = some c → c.epoch = r.epoch → (c.state = .resident ∨ c.state = .running) →
        (ropHeld s r = false → cuuAhead s (.rop op) r.run = false → exec (.ropGranule op) s = .next (runGranule s r (ropHome s r)))
        ∧ ((ropHeld s r = true ∨ cuuAhead s (.rop op) r.run = true) → r.phase ≠ .held → exec (.ropGranule op) s = .next (holdRop s r)))
      ∧ (s.ctx? (ropHome s r) r.ctx = some c → (c.state = .tornDown ∨ (c.state = .created ∧ c.epoch = r.epoch)) →
        exec (.ropGranule op) s = .next (faultRop s r (ropHome s r) 6 0))
      ∧ (s.ctx? (ropHome s r) r.ctx = some c → c.state ≠ .tornDown → (c.epoch ≠ r.epoch ∨ c.state = .faulted) →
        exec (.ropGranule op) s = .next (dropPacket (s.dropRop op) (ropHome s r))))
    ∧ (∀ (later : Nat) (b : Rop) (img : DefImage), s.rop? op = some r → s.rop? later = some b → combineImage s r = some img → mayCombine s r b = true →
      ∃ t, exec (.ropCombine op later) s = .next t ∧ t.rops.length + 1 ≤ s.rops.length ∧ sameMemory s t
        ∧ ∀ q ∈ t.rops, q.id = r.id → q.payload = runCombine img r.payload b.payload ∧ q.issuers = r.issuers ++ b.issuers
            ∧ q.poisoned = (r.poisoned || b.poisoned))
    ∧ (s.rop? op = some r → r.phase = .acked → (∀ i ∈ r.issuers, routeUp s r.home i.pkg = true) → exec (.ropAck op) s = .next ((r.issuers.foldl (fun s i => ackIssuer s r i) s).dropRop op))
    ∧ (∀ c : Ctx, s.rop? op = some r → s.ctx? (ropHome s r) r.ctx = some c → r.coming = true → c.epoch = r.epoch →
      (c.state = .descheduled ∨ c.state = .keyed ∨ c.state = .measured) → wingsBehind s r = false → ropReaches s r (ropHome s r) = true →
      (r.phase = .sent → ropSentAfter s r = false) →
      (c.wings.length < 2 ^ c.wrlog2 → exec (.wingsAppend op) s = .next
        (ringWrite ((s.mapRop op (fun r => { r with phase := .wings })).mapCtx (ropHome s r) r.ctx (fun c => { c with wings := c.wings ++ [op] }))
          (ropHome s r) c op))
      ∧ (2 ^ c.wrlog2 ≤ c.wings.length → exec (.wingsAppend op) s = .next (faultRop s r (ropHome s r) 3 0)))

/-- R353, R360, R362, R376 to R384: a command at a pseudo-channel opens a session, is refused with 0x42 without one and 0x41 or 0x40 in another's, and runs in its
owner's; a session ends after 2^20 ticks; a definition whose image has been read is judged and loaded on every package, and a dropped one leaves its slot EMPTY once no request of
its generation is held at a unit.
Model's choices it rests on: log entries 31, 37, 64. -/
def Obligations.NearMemoryAndDefinitionEventsComplete : Prop :=
  ∀ (s : State) (op : Nat),
    (∀ (n : Nm) (bf : Bool), s.nm? op = some n → nmBehind s n = false → liveSession s n.pkg n.pch = none →
      (n.kind = .on bf → exec (.nmCommandExecute op) s = .next (endNm (setSession s n.pkg n.pch (some (openSession s n bf))) n 0 none))
      ∧ ((∀ b, n.kind ≠ .on b) → exec (.nmCommandExecute op) s = .next (endNm s n 0x42 none)))
    ∧ (∀ (n : Nm) (ns : NmSession) (t : State), s.nm? op = some n → nmBehind s n = false → liveSession s n.pkg n.pch = some ns →
      (ns.gid = n.gid → ns.ctx = n.ctx → ns.epoch = n.epoch → runNm s n ns = some t → exec (.nmCommandExecute op) s = .next t)
      ∧ (ns.gid ≠ n.gid → (∀ b, n.kind ≠ .on b) → exec (.nmCommandExecute op) s = .next (endNm s n 0x41 none))
      ∧ (ns.gid ≠ n.gid → (∃ b, n.kind = .on b) → exec (.nmCommandExecute op) s = .next (endNm s n 0x40 none)))
    ∧ (∀ (pkg pch : Nat) (n : NmSession), s.session? pkg pch = some n → n.start + 2 ^ 20 ≤ homeNow s pkg →
      exec (.nmSessionTimeout pkg pch) s = .next (setSession s pkg pch none))
    ∧ (∀ (o : DefOp) (img : List Byte), s.defOp? op = some o → o.load = true → o.lead = true → o.code = none → loadedImage o = some img →
      exec (.definitionLoaded op) s = .next (endDefLoad s o (loadCode s o img)))
    ∧ (∀ o : DefOp, s.defOp? op = some o → o.load = false → o.code = none → slotHeld s o.pkg o.ctx o.slot = false →
      exec (.definitionDropped op) s = .next
        ((setSlots s o.pkg o.ctx o.slot (fun t => { t with state := .empty, va := 0, len := 0, img := [] })).mapDefOp op (fun o => { o with code := some 0 })))

/-! ## Steps of the device: groups and instances -/

/-- A group may be placed on a core (R31 to R33, R123, R271, R277, R297, R309, R427): its launch has groups to place and this one is not yet, its
context runs there, the core and its node admit it, neither a saved group nor a launch of better standing goes first, and every co-resident node
that has begun to be placed can still be placed whole. -/
def mayPlace (s : State) (k : Inst) (rank pkg core : Nat) : Bool :=
  k.pending && decide (rank < gridSize k.levels) && !k.placed.any (fun q => q.rank == rank) && maySeat s k rank pkg core
    && !s.groups.any (fun g => g.ctx == k.ctx && g.pkg == pkg && g.toRestore s)
    && !s.insts.any (fun o => goesFirst s k o pkg core) && keepsRoom s (seat s k rank pkg core) k.id

/-- The group that placement makes: one split of every lane at code offset 0, with the generator state of its rank (R123, R316). -/
def placedGroup (s : State) (k : Inst) (p : Pkg) (rank core slot : Nat) : Group :=
  freshGroup s.nextId k.id k.ctx rank p.num core slot (slotVal p.slotGens core slot) k.regs s.tick
    (coreSwaps (openCore (debitCore s k p.num core) k p.num core) p.num core) (freshSplit (stInit k.seed rank) 0 [])

/-- The state after a group has left its core for good, before the core itself is given up (R207, R313, R349, R350, R417). -/
def groupGone (s : State) (g : Group) (k : Inst) : State :=
  let u : State := liftAll (freeSlot s g) g.id
  (orphansAfter (freeObjs { u with groups := u.groups.filter (fun o => o.id != g.id) } k g) k g).mapInst k.id (fun k =>
    { k with retired := k.retired + 1, state := if k.retired + 1 = gridSize k.levels then .retiring else k.state })

/-- R31 to R33, R123, R316, R329: GROUP_PLACE makes the group, on the lowest slot that may be used, and the instance counts it placed; R297: with the first group of a
queue's launch the queue's level returns to its priority.
R207, R313, R332, R337, R338: a group without lanes, children or outstanding operations retires; a save begins by stopping its groups' issue and ends once their
operations are done; a saved group returns to a core that admits it where its records are intact, and with it the rest of a node above QUAD.
Model's choices it rests on: log entries 66 to 77. -/
def Obligations.GroupEventsComplete : Prop :=
  (∀ (s t : State) (inst rank core slot : Nat) (k : Inst) (p : Pkg), s.inst? inst = some k → k.id = inst → s.pkg? p.num = some p →
        mayPlace s k rank p.num core = true → freeSlotOf s p core = some slot → t = seat s k rank p.num core →
        exec (.groupPlace inst rank p.num core) s = .next (launchPlaced t k) ∧ t.groups = s.groups ++ [placedGroup s k p rank core slot]
          ∧ t.inst? inst = some { k with placed := k.placed ++ [{ rank := rank, pkg := p.num, core := core }] } ∧ sameMemory s t
          ∧ (k.placed ≠ [] → launchPlaced t k = t))
    ∧ (∀ (s : State) (g : Group) (k : Inst), s.group? g.id = some g → s.inst? g.inst = some k →
        (∀ t : State, g.splits = [] → g.kids = 0 → groupQuiet s g.id = true → (g.state = .active ∨ g.state = .kidwait ∨ g.state = .resident) →
          (leaveCore (groupGone s g k) k g.pkg g.core).state = some t → exec (.groupRetire g.id) s = .next t)
        ∧ (∀ u : State, saveUnit s k g ≠ [] → u = (saveUnit s k g).foldl (fun s g => if g.saving then s else beginSave s g) s →
          ((saveUnit s k g).any (fun o => !o.saving) = true → (currentGroups u (saveUnit s k g)).all (saveReady u) = false →
            exec (.groupSave g.id) s = .next u)
          ∧ (∀ t : State, (currentGroups u (saveUnit s k g)).all (saveReady u) = true → saveAll (currentGroups u (saveUnit s k g)) u = .ok t →
            exec (.groupSave g.id) s = .next t))
        ∧ (∀ (core slot : Nat) (c : Ctx) (p : Pkg) (cr : Core) (u t : State), s.ctx? g.pkg g.ctx = some c → s.pkg? g.pkg = some p →
          g.state = .saved → ctxRuns s g.pkg g.ctx = true → mayHold s k c g.pkg core = true → insideNodes s k g.rank g.pkg core false = true →
          badRecord s g core = none → targetCore (debitCore s k g.pkg core) k g core = some u → freeSlotOf s p core = some slot →
          u.core? g.pkg core = some cr → rltFits cr = true → (u.group? g.id).isSome = true →
          restoreRest (restoreUnit s k g) (enterCore u g p core slot) = some t → keepsRoom s t k.id = true → exec (.groupRestore g.id core) s = .next t))

/-- R32, R46, R170, R308 to R314, R322: a node moves to another core of its field where that frees a core that a pending launch's node awaits: its groups' issue stops, and once
they are drained it moves, where the core can take it and the nodes above stay inside one physical node; a move that can no longer be made is given up; a launch is verified part
by part as far as it can go; an instance whose groups have all retired writes its completion word, if it has one, and completes once its writes' time is reached.
Model's choices it rests on: log entries 65, 67, 76, 79. -/
def Obligations.InstanceEventsComplete : Prop :=
  ∀ (s : State) (id : Nat) (k : Inst), s.inst? id = some k →
    (∀ (level node core : Nat) (g : Group) (rest : List Group),
      s.groups.filter (fun g => g.inst == id && g.rank / groupSize k.levels level == node && g.state != .saved) = g :: rest →
      level < treeL k.levels → bindOf k.levels level = 2 → core ≠ g.core → fieldOf core = fieldOf g.core → heldByOther s id g.pkg core = false →
      nodeAwaits s g.pkg g.core (g :: rest) = true → ctxRuns s g.pkg g.ctx = true →
      (((moveTo s k level node g.pkg g.core core (g :: rest)).isNone = true ∨ (g :: rest).any (fun o => o.saving && !o.moving) = true) →
        (g :: rest).any (·.moving) = true → ∃ t, exec (.nodeMove id level node core) s = .next t ∧ giveUpMove s (g :: rest) = some t)
      ∧ (∀ u : State, (moveTo s k level node g.pkg g.core core (g :: rest)).isSome = true → (g :: rest).any (fun o => o.saving && !o.moving) = false →
        u = (g :: rest).foldl (fun s g => if g.saving then s else beginMove s g) s →
        ((g :: rest).any (fun o => !o.saving) = true → (currentGroups u (g :: rest)).all (saveReady u) = false →
          exec (.nodeMove id level node core) s = .next u)
        ∧ (∀ t : State, (currentGroups u (g :: rest)).all (saveReady u) = true →
          moveNow u k level node g.pkg g.core core (currentGroups u (g :: rest)) = some t → exec (.nodeMove id level node core) s = .next t)))
    ∧ (∀ (area : Nat) (c : Ctx) (t : State), s.ctx? k.pkg k.ctx = some c → (c.state = .running ∨ c.state = .resident) →
      (verifyFrom id area 4 s = .on t ∨ verifyFrom id area 4 s = .done t) → exec (.launchVerify id area) s = .next t)
    ∧ (k.state = .retiring → k.maxCt + skewOf (completionBind s k) ≤ homeNow s k.pkg → k.cwaddr = 0 →
      exec (.instanceComplete id) s = .next (completeInst s k 0))
    ∧ (∀ e : PtEntry, k.state = .retiring → k.maxCt + skewOf (completionBind s k) ≤ homeNow s k.pkg → k.cwaddr ≠ 0 →
      meetPages s (.completion k.id) k.pkg k.ctx 11 (launchGid s k) k.cwaddr 4 = .go → lineHeld s k.pkg k.ctx k.cwaddr = false →
      routeOf s k.pkg k.ctx k.cwaddr = some e →
      exec (.instanceComplete id) s = .next (completeInst (writeHome s k.pkg k.ctx k.cwaddr (toLE 4 k.cwval.toNat)) k
        (writeCt s k.pkg e.home k.ctx (lineOf k.cwaddr))))

/-! ## Steps of the device: queues and the prompter -/

/-- R286 to R288, R296, R297: taking an entry whose VALID bit is clear leaves the queue absent, a bad one drains it with ERR 5, and a good one makes it IDLE with its
arms so far discarded; a watcher passes on what it has read; the prompter enters the candidate queue that no other of its field goes before; and a waiting queue's
effective priority falls.
Model's choices it rests on: log entries 84 to 86. -/
def Obligations.QueueEventsComplete : Prop :=
  ∀ (s : State) (pkg ctx q : Nat) (o : Queue), queue? s pkg ctx q = some o →
    (∀ bs : List Byte, ctxRuns s pkg ctx = true → o.toTake = true →
      meetPages s (.take q) pkg ctx kindGraph noGid (entryVa s pkg ctx q) 64 = .go → readUnits16 s pkg ctx (entryVa s pkg ctx q) 64 = (bs, false) →
      ((qEntry bs).valid = false → exec (.queueEntryTake pkg ctx q) s = .next (absentQueue s pkg ctx q (qEntry bs).gen))
      ∧ ((qEntry bs).valid = true → entryBad s pkg ctx (qEntry bs) = true →
        exec (.queueEntryTake pkg ctx q) s = .next (drainTake s pkg ctx q 5 (qEntry bs)))
      ∧ (∀ ws : List Byte, (qEntry bs).valid = true → entryBad s pkg ctx (qEntry bs) = false →
        meetPages s (.take q) pkg ctx kindGraph noGid (qEntry bs).armw 4 = .go → readUnits16 s pkg ctx (qEntry bs).armw 4 = (ws, false) →
        exec (.queueEntryTake pkg ctx q) s = .next (goodTake s pkg ctx q (qEntry bs) (leNat ws))))
    ∧ (∀ a : Nat, o.taken = true → o.exists_ = true → watchedWord s pkg ctx (entryVa s pkg ctx q + 0x20) = some o.gen →
      watchedWord s pkg ctx o.armw = some a → a ≠ o.armval → o.wait = none →
      exec (.watcherNotify pkg ctx q) s = .next (armQueue (noteQueue s pkg ctx q (fun o => { o with armval := a })) pkg ctx q))
    ∧ (candidate s pkg ctx o = true →
      (∀ p ∈ (queuesOf s pkg).filter (fun p => p.2.fld == o.fld && !(p.1 == ctx && p.2.num == q)),
        (ctxRuns s pkg p.1 && p.2.walked (homeNow s pkg)) = false ∧ (candidate s pkg p.1 p.2 && before p.2 o) = false) →
      exec (.prompterChoose pkg ctx q) s = .next (readNode (setQueue s pkg ctx q (fun e => e.enter (liveAsyncs s e) s.tick)) pkg ctx q))
    ∧ (ctxRuns s pkg ctx = true → o.exists_ = true → agedPrio s pkg ctx o < o.effprio →
      exec (.effprioAge pkg ctx q) s = .next (setQueue s pkg ctx q (fun e => { e with effprio := e.effprio - 1 })))

/-- R291, R293, R294, R299: a KERNEL node launches an instance and a COPY node starts a copy, each waited for unless it is ASYNC; JOIN goes on once no ASYNC node is under
way, END counts the run and writes DONE where the queue has one.
R289, R292: WAITCUE waits for its condition, COND and WHILE choose by it, SETCUE stores or adds, each on the word as its home holds it; and a bad node of any
of the eight kinds drains its queue with ERR 1, one of no kind under each of the eight.
Model's choices it rests on: log entries 81, 83, 105. -/
def Obligations.PrompterNodesComplete : Prop :=
  (∀ (s : State) (pkg ctx q : Nat) (e : Queue) (n : Node), walking s pkg ctx q = some (e, n) → n.bad = false →
        (n.kind = 1 → noRoom s e n = false → (n.e = 0 ∨ (routeOf s pkg ctx n.e).isSome = true) →
          exec (.kernelNode pkg ctx q) s = .next (started { s with
            insts := s.insts ++ [{ newInst s.nextId pkg ctx (epochOf s pkg ctx) (.node q e.cur) false (nodeLaunch n) with prio := e.effprio, since := s.tick }],
            nextId := s.nextId + 1 } pkg ctx q s.nextId n))
        ∧ (n.kind = 2 → noRoom s e n = false → inOneRange s pkg ctx n.a n.c = true → inOneRange s pkg ctx n.b n.c = true →
          (n.c = 0 → exec (.copyNode pkg ctx q) s = .next (goOn s pkg ctx q n.next))
          ∧ (n.c ≠ 0 → exec (.copyNode pkg ctx q) s = .next (started { s with engs := s.engs ++ [nodeCopyOp s pkg ctx q e.cur n], nextId := s.nextId + 1 }
              pkg ctx q s.nextId n)))
        ∧ (n.kind = 7 → asyncsOver s pkg e = true → exec (.joinNode pkg ctx q) s = .next (goOn s pkg ctx q n.next))
        ∧ (n.kind = 7 → asyncsOver s pkg e = false → exec (.joinNode pkg ctx q) s = .next (goWait s pkg ctx q e.cur .join))
        ∧ (n.kind = 0 → asyncsOver s pkg e = false → exec (.endNode pkg ctx q) s = .next (goWait s pkg ctx q e.cur .last))
        ∧ (∀ (u : State) (o : Queue), n.kind = 0 → asyncsOver s pkg e = true →
          u = (if e.doneNow then s else setQueue s pkg ctx q (fun e => { e with runs := (e.runs + 1) % 2 ^ 32, doneNow := true })) →
          queue? u pkg ctx q = some o →
          (o.done = 0 → exec (.endNode pkg ctx q) s = .next (endRun u pkg ctx q n))
          ∧ (o.done ≠ 0 → meetPages u (.done q) pkg ctx kindGraph noGid o.done 4 = .go → lineHeld u pkg ctx o.done = false →
            exec (.endNode pkg ctx q) s = .next (endRun (releaseWrite u pkg ctx q o.done 7 (toLE 4 o.runs)) pkg ctx q n))))
    ∧ (∀ (s : State) (pkg ctx q : Nat) (e : Queue) (n : Node) (ws : List Byte), walking s pkg ctx q = some (e, n) →
        (∀ i : Instr, n.bad = true →
          (i, n.kind) ∈ [(Instr.endNode pkg ctx q, 0), (.kernelNode pkg ctx q, 1), (.copyNode pkg ctx q, 2), (.waitcueNode pkg ctx q, 3), (.setcueNode pkg ctx q, 4),
              (.condNode pkg ctx q, 5), (.whileNode pkg ctx q, 6), (.joinNode pkg ctx q, 7)]
            ∨ (7 < n.kind ∧ i ∈ [.endNode pkg ctx q, .kernelNode pkg ctx q, .copyNode pkg ctx q, .waitcueNode pkg ctx q, .setcueNode pkg ctx q, .condNode pkg ctx q,
              .whileNode pkg ctx q, .joinNode pkg ctx q]) →
          exec i s = .next (drainQueue s pkg ctx q 1))
        ∧ (n.bad = false → meetPages s (.node q) pkg ctx kindGraph noGid n.a 4 = .go → readUnits16 s pkg ctx n.a 4 = (ws, false) →
          (n.kind = 3 → exec (.waitcueNode pkg ctx q) s = .next (if cueHolds n.cmp (leNat ws) n.val then goOn s pkg ctx q n.next
            else goWait s pkg ctx q n.next (.cue n.a n.val n.cmp false)))
          ∧ (n.kind = 5 → exec (.condNode pkg ctx q) s = .next (goOn s pkg ctx q (if cueHolds n.cmp (leNat ws) n.val then n.next else n.c)))
          ∧ (n.kind = 6 → exec (.whileNode pkg ctx q) s = .next (goOn s pkg ctx q (if cueHolds n.cmp (leNat ws) n.val then n.c else n.next)))
          ∧ (n.kind = 4 → lineHeld s pkg ctx n.a = false → exec (.setcueNode pkg ctx q) s = .next (goOn (releaseWrite s pkg ctx q n.a n.bind
              (toLE 4 (if n.cmp = 0 then n.val else (leNat ws + n.val) % 2 ^ 32))) pkg ctx q n.next))))

/-! ## Steps of the device: contexts -/

/-- A package takes a command for a context: F0 is on, no command runs, and bring-up is complete (R272, R424). -/
def takesCmd (p : Pkg) : Bool := mgmtOn p && p.ctxCmd.isNone && p.ready

/-- R270 to R279, R336: CREATE, MEASURE, ADMIT and RUN move a context from state to state and end with RESULT 0 where their checks pass; each of the eight commands in a state
that R270 does not admit it in, or of a context that is not there, ends with RESULT 1 and the context stays; one written while another is BUSY does nothing but set DROP.
R272, R274, R277, R278, R283, R284: STOP of a running context whose groups are all saved, and EVICT of a resident one whose engines are done and whose slots' record can be
written, complete at once and are under way otherwise (a record with no room in the green room is GRFULL); CLEAR puts a faulted context back in an epoch of its own; TEARDOWN discards it; an OP that is not assigned ends with RESULT 5.
Model's choices it rests on: log entries 68, 82, 87, 88, 93, 110, 112. -/
def Obligations.ContextCommandsComplete : Prop :=
  (∀ (s : State) (pkg ctx : Nat) (p : Pkg) (c : Ctx), s.focus = (pkg, ctx) → s.pkg? pkg = some p → takesCmd p = true →
        (∀ b : List Byte, ctx < 2048 → s.ctx? pkg ctx = none → p.ctxArg % 4096 = 0 → rangeInHostPool s pkg p.ctxArg 4096 = true →
          b = readPool s pkg p.ctxArg 4096 → ccbBad s pkg b = false →
          exec .create s = .next (endCtxCmd { s with ctxs := (s.ctxs.filter (fun o => !(o.pkg == pkg && o.num == ctx))) ++ [newCtx s pkg ctx p.ctxArg b] } pkg ctx 0))
        ∧ (s.ctx? pkg ctx = some c → c.pkg = pkg → c.num = ctx →
          (∀ (pt : List PtEntry) (pcl : List Nat), c.state = .created → pt = placeTable (tableBytes s pkg c.ptaddr) → pcl = pchList (listBytes s pkg c.pcladdr) →
            c.keypol < 8 → tablesBad pt pcl c.span = false → (ownRanges c).all (fun r => routesWhole { c with pt := pt, pcl := pcl } r.1 r.2) = true →
            exec .measure s = .next (endCtxCmd (s.mapCtx pkg ctx (fun e => { e with state := .measured, pt := pt, pcl := pcl, digest := ctxDigest c (tableBytes s pkg c.ptaddr) (listBytes s pkg c.pcladdr) pt pcl })) pkg ctx 0))
          ∧ ((c.state = .keyed ∨ c.state = .descheduled) → residentCount s pkg < 256 → largestSave s pkg ctx ≤ c.grsize →
            exec .admitCtx s = .next (admitGoesOn (beginCmd s pkg 3 ctx) pkg ctx)
            ∧ (c.wings = [] → c.kept = none → admitGoesOn (beginCmd s pkg 3 ctx) pkg ctx
                = endCtxCmd ((beginCmd s pkg 3 ctx).mapCtx pkg ctx (fun c => { c with state := .resident })) pkg ctx 0))
          ∧ (c.state = .resident → largestSave s pkg ctx ≤ c.grsize →
            exec .run s = .next (takeQueues (endCtxCmd ((turnAges s pkg ctx).mapCtx pkg ctx (fun c => { c with state := .running })) pkg ctx 0) pkg ctx))
          ∧ (∀ i : Instr,
            (i = .measure ∧ c.state ≠ .created) ∨ (i = .admitCtx ∧ c.state ≠ .keyed ∧ c.state ≠ .descheduled) ∨ (i = .run ∧ c.state ≠ .resident)
              ∨ (i = .stop ∧ c.state ≠ .running) ∨ (i = .evict ∧ c.state ≠ .resident) ∨ (i = .clear ∧ c.state ≠ .faulted) ∨ (i = .teardown ∧ c.state = .tornDown)
              ∨ (i = .create ∧ ctx < 2048 ∧ c.state ≠ .tornDown) →
            exec i s = .next (endCtxCmd s pkg ctx 1)))
        ∧ (∀ i ∈ [Instr.measure, .admitCtx, .run, .stop, .evict, .clear, .teardown], s.ctx? pkg ctx = none → exec i s = .next (endCtxCmd s pkg ctx 1)))
    ∧ (∀ (s : State) (pkg ctx : Nat) (p : Pkg), s.focus = (pkg, ctx) → s.pkg? pkg = some p → mgmtOn p = true → p.ctxCmd ≠ none →
        ∀ i ∈ [Instr.create, .measure, .admitCtx, .run, .stop, .evict, .clear, .teardown],
          exec i s = .next (s.mapPkg pkg (fun p => { p with ctxDrop := true })))
    ∧ (∀ (s : State) (pkg ctx : Nat) (p : Pkg) (c : Ctx), s.focus = (pkg, ctx) → s.pkg? pkg = some p → takesCmd p = true →
        s.ctx? pkg ctx = some c → c.pkg = pkg → c.num = ctx →
        (∀ u : State, c.state = .running → u = beginCmd (pauseQueues (turnAges s pkg ctx) pkg ctx) pkg 5 ctx →
          exec .stop s = .next (if allSaved u pkg ctx then endCtxCmd (u.mapCtx pkg ctx (fun c => { c with state := .resident })) pkg ctx 0 else u))
        ∧ (∀ u : State, c.state = .resident → u = beginCmd s pkg 6 ctx →
          (enginesDone u pkg ctx = false → exec .evict s = .next u)
          ∧ (enginesDone u pkg ctx = true →
            (∀ v : State, keepSlots u c = .ok v →
              exec .evict s = .next (endCtxCmd (v.mapCtx pkg ctx (fun c => { c with state := .descheduled })) pkg ctx 0))
            ∧ (keepSlots u c = .waits → exec .evict s = .next u)
            ∧ (∀ (v : State) (q d : Nat), keepSlots u c = .full v q d → exec .evict s = .next (raiseCtxFault v q d { cause := 0x22, pkg := q }))))
        ∧ (c.state = .faulted → exec .clear s = .next (endCtxCmd ((dropSessions s pkg ctx).mapCtx pkg ctx (fun c =>
            { c with state := if c.before = .running then .resident else c.before, epoch := (c.epoch + 1) % 256 })) pkg ctx 0))
        ∧ (c.state ≠ .tornDown → exec .teardown s = .next (endCtxCmd
            ((dropPages (dropSessions (discardWork s pkg ctx) pkg ctx) pkg ctx).mapCtx pkg ctx Ctx.tornDown) pkg ctx 0))
        ∧ (∀ op : Nat, (op % 16 = 0 ∨ 8 < op % 16) → exec (.ctxCmdBad pkg op ctx) s = .next (endCtxCmd s pkg ctx 5)))

/-- A context of a package faults because another package of its span is unreachable, and PEER travels to the rest of the span (R421). -/
def faultUnreachable (pkg target : Nat) (s : State) (c : Ctx) : State :=
  let s : State := enterFaulted s pkg c.num { cause := 0x23, pkg := target, tick := homeNow s pkg }
  { s with ctxs := s.ctxs.map (fun d =>
      if d.num = c.num ∧ d.pkg ≠ pkg ∧ d.pkg ≠ target ∧ c.span.contains d.pkg ∧ d.canFault = true ∧ d.peer = none then
        { d with peer := some (target, homeNow s pkg) } else d) }

/-- R23, R280 to R283, R421: an uncorrectable error faults its context, a fault of another package of the span arrives as PEER with the tick of its raise, traffic to a package that has been
unreachable for 2^17 ticks is dropped and the contexts that span it fault.
R276, R408, R416: a good KEY gives a measured context its keys and makes it KEYED, a bad one is answered with an error and changes nothing else, and GET_CTXMEAS is answered
inside the session.
Model's choices it rests on: log entries 13, 91, 92, 98. -/
def Obligations.FaultAndKeyEventsComplete : Prop :=
  (∀ (s : State) (pkg ctx : Nat) (c : Ctx), s.ctx? pkg ctx = some c →
        (c.canFault = true → exec (.contextFault pkg ctx .coreArray) s = .next (raiseUncorr s pkg ctx 0xFFFFFFFF 0))
        ∧ (c.canFault = true → exec (.contextFault pkg ctx .sharedArray) s = .next (deviceFault s pkg))
        ∧ (∀ raiser t : Nat, s.focus = (pkg, ctx) → c.peer = some (raiser, t) →
          exec .peer s = .next ((enterFaulted s pkg ctx { cause := 0x23, pkg := raiser, tick := t }).mapCtx pkg ctx (fun c => { c with peer := none })))
        ∧ (∀ (p : Pkg) (target : Nat), s.pkg? pkg = some p → routeUp s pkg target = false → unreachSince p target + 2 ^ 17 ≤ s.tick →
          exec (.packageUnreachable pkg target) s = .next ((s.ctxs.filter (fun c => c.pkg == pkg && c.span.contains target && c.canFault)).foldl
            (faultUnreachable pkg target) (dropBound s pkg target))))
    ∧ (∀ (s : State) (pkg ctx : Nat) (p : Pkg) (c : Ctx) (digest key xfer iv nonce : List Byte), s.pkg? pkg = some p → p.rate ≠ 0 → p.broken = false →
        s.ctx? pkg ctx = some c →
        (keyGood p c digest key xfer iv = true → exec (.key pkg ctx digest key xfer iv) s = .next (answer (s.mapCtx pkg ctx (fun c =>
          { c with state := .keyed, key := key, xfer := if c.xferOn then xfer else [], iv := if c.xferOn then iv else [], last := 0 })) pkg .ok))
        ∧ (keyGood p c digest key xfer iv = false → exec (.key pkg ctx digest key xfer iv) s = .next (answer s pkg .error))
        ∧ (p.sess = true → nonce.length = 32 → exec (.getCtxmeas pkg ctx nonce) s = .next (answer s pkg (.bytes (ctxMeasBytes (some c) pkg ctx nonce))))
        ∧ (p.sess = false → exec (.getCtxmeas pkg ctx nonce) s = .next (answer s pkg .error)))

/-! ## Steps of the device: the link, the fields, the pages and the host -/

/-- Every link of the base dies is up. -/
def linksUp (p : Pkg) : Pkg := { p with bdLinks := List.replicate 11 .up }

/-- What a request that needs the secured session or a stage of the negotiation answers: ok where the condition holds and the package takes f, an error otherwise. -/
def requestAnswer (s : State) (p : Pkg) (good : Bool) (f : Pkg → Pkg) : State := if good then answer (s.mapPkg p.num f) p.num .ok else answer s p.num .error

/-- R407 to R409: every SPDM and TDISP request over a link that is up is answered; a request out of order is answered with an error and changes nothing else; a fall
to ERROR ends the CPYGs that are not yet carried out with LINKSTATE.
Model's choices it rests on: log entries 13, 92, 97. -/
def Obligations.SecurityMessagesComplete : Prop :=
  ∀ (s : State) (pkg stream : Nat) (p : Pkg) (secure : Bool) (nonce : List Byte), s.focus.1 = pkg → s.pkg? pkg = some p → p.num = pkg → p.rate ≠ 0 → p.broken = false →
    exec .getVersion s = .next (requestAnswer s p true (fun p => { p with spdm := .version }))
    ∧ exec .getCapabilities s = .next (requestAnswer s p (p.spdm == .version) (fun p => { p with spdm := .capabilities }))
    ∧ exec .negotiateAlgorithms s = .next (requestAnswer s p (p.spdm == .capabilities) (fun p => { p with spdm := .algorithms }))
    ∧ (p.spdm = .algorithms →
        exec .getDigests s = .next (answer s pkg (.bytes (Config.certDigest pkg)))
        ∧ exec .getCertificate s = .next (answer s pkg (.bytes (Config.certChain pkg)))
        ∧ exec (.challenge pkg nonce) s = .next (answer s pkg (.bytes (Config.certDigest pkg ++ nonce ++ Config.sign pkg (Config.certDigest pkg ++ nonce))))
        ∧ exec .getMeasurements s = .next (answer s pkg (.bytes (Config.certDigest pkg ++ Config.sign pkg (Config.certDigest pkg)))))
    ∧ (p.spdm ≠ .algorithms → exec .getDigests s = .next (answer s pkg .error) ∧ exec .getCertificate s = .next (answer s pkg .error)
        ∧ exec (.challenge pkg nonce) s = .next (answer s pkg .error) ∧ exec .getMeasurements s = .next (answer s pkg .error))
    ∧ (p.spdm = .algorithms → exec .keyExchange s = .next (answer ((dropSess s p).mapPkg pkg (fun p => { p with kex := true })) pkg .ok))
    ∧ (p.spdm ≠ .algorithms → exec .keyExchange s = .next (answer s pkg .error))
    ∧ exec .finish s = .next (requestAnswer s p p.kex (fun p => { p with sess := true, kex := false }))
    ∧ exec .endSession s = .next (if p.sess then answer (dropSess s p) pkg .ok else answer s pkg .error)
    ∧ exec .lockInterfaceRequest s = .next (requestAnswer s p (p.tdisp == .unlocked && p.sess && p.flit && p.streamsSecure) (fun p => { p with tdisp := .locked }))
    ∧ exec .startInterfaceRequest s = .next (requestAnswer s p (p.tdisp == .locked) (fun p => { p with tdisp := .run }))
    ∧ exec .stopInterfaceRequest s = .next (requestAnswer s p true (fun p => { p with tdisp := .unlocked, idesec := 0 }))
    ∧ (stream < 5 → exec (.ideKm pkg stream secure) s = .next (requestAnswer s p (p.sess && p.flit) (fun p =>
        { p with ideConf := p.ideConf ||| BitVec.ofNat 5 (2 ^ stream)
                 idesec := if secure then p.idesec ||| BitVec.ofNat 5 (2 ^ stream) else p.idesec &&& ~~~(BitVec.ofNat 5 (2 ^ stream)) })))
    ∧ ((p.tdisp = .locked ∨ p.tdisp = .run) →
        exec (.tdispError pkg .configChange) s = .next ((fallCpygs s pkg).mapPkg pkg Pkg.fallTdisp)
          ∧ exec (.tdispError pkg .ideFailure) s = .next ((fallCpygs s pkg).mapPkg pkg Pkg.fallTdisp))
    ∧ (p.sess = true → exec (.tdispError pkg .sessionEnd) s = .next (dropSess s p))
    ∧ exec (.tdispError pkg .linkDown) s = .next ((fallCpygs s pkg).mapPkg pkg (fun p => { p.fallTdisp with rate := 0, width := 0, flit := false, idesec := 0 }))

/-- R275, R283, R412, R413: a host access that its window admits reads or writes the place it names, or is dropped and counted at a home of another epoch, a read in a context that the key policy closes is answered Completer Abort, one
that the window does not admit Unsupported Request, an AtomicOp that is not aligned Malformed; R397 and R420: a management register takes the value written, but for the four-byte
writes of CTX_CMD, PG_CMD and a CLK_CMD that names a command, which are the commands of the other statements.
Model's choices it rests on: log entries 90, 100, 111. -/
def Obligations.HostAccessesComplete : Prop :=
  ∀ (s : State) (pkg win off n operand compare : Nat) (p : Pkg) (t : Tlp) (bs : List Byte) (k : HostAtomic) (x y : DWord),
    s.pkg? pkg = some p → x.toNat = operand → y.toNat = compare →
    (p.rate ≠ 0 → p.broken = false →
      (hostJudge s p win off n t = none → exec (.hostRead pkg win off n t) s = .next (answer s pkg .unsupportedRequest))
      ∧ (∀ pl : HostPlace, hostJudge s p win off n t = some pl → hostNow s p pl = true → hostStale s p pl = none → hostPoisoned s pkg n pl = false →
          exec (.hostRead pkg win off n t) s = .next (answer s pkg
            (match pl with
             | .pool a => .bytes (readPool s pkg a n)
             | .ctx c va => if hostMayRead c va then .bytes (readUnits16 s pkg c.num va n).1 else .completerAbort)))
      ∧ (hostJudge s p win off bs.length t = none → exec (.hostWrite pkg win off bs t) s = .next (answer s pkg .unsupportedRequest))
      ∧ (∀ pl : HostPlace, hostJudge s p win off bs.length t = some pl → hostNow s p pl = true → hostStale s p pl = none → hostPinned s pkg bs.length pl = false →
          exec (.hostWrite pkg win off bs t) s = .next (hostPut s pkg bs pl))
      ∧ (∀ (pl : HostPlace) (home : Nat), hostNow s p pl = true → hostStale s p pl = some home →
          (hostJudge s p win off n t = some pl → exec (.hostRead pkg win off n t) s = .next (dropPacket s home)
            ∧ ((n = 4 ∨ n = 8) → off % n = 0 → exec (.hostAtomicop pkg win off n k x y t) s = .next (dropPacket s home)))
          ∧ (hostJudge s p win off bs.length t = some pl → exec (.hostWrite pkg win off bs t) s = .next (dropPacket s home)))
      ∧ ((n = 4 ∨ n = 8) → off % n ≠ 0 → exec (.hostAtomicop pkg win off n k x y t) s = .next (answer s pkg .malformed))
      ∧ (∀ (pl : HostPlace) (old : Nat), (n = 4 ∨ n = 8) → off % n = 0 → hostJudge s p win off n t = some pl → hostNow s p pl = true →
          hostStale s p pl = none → hostPinned s pkg n pl = false → old = leNat (hostBytes s pkg n pl) →
          exec (.hostAtomicop pkg win off n k x y t) s = .next (answer (hostPut s pkg (toLE n
            (match k with
             | .fetchAdd => (old + operand) % 2 ^ (8 * n)
             | .swap => operand % 2 ^ (8 * n)
             | .cas => if old = compare % 2 ^ (8 * n) then operand % 2 ^ (8 * n) else old)) pl) pkg (.bytes (hostBytes s pkg n pl)))))
    ∧ (mgmtOn p = true → off < 2 ^ 26 → (n ≠ 4 ∨ (off ≠ 0x1008 ∧ off ≠ 0x1108 ∧ (off ≠ 0x2008 ∨ operand / 64 % 4 = 0 ∨ operand / 64 % 4 = 3))) →
        exec (.registerWrite pkg off n operand) s = .next (noteRoutes s (s.mapPkg pkg (fun p => regWrite p off n operand)) pkg))
    ∧ (∀ r ∈ [0x1000, 0x1100, 0x2000, 0x2400, 0x27F8], p.routes.length = 128 → regRead (regWrite p r 8 operand) r = operand % 2 ^ 64)
    ∧ regRead (regWrite p 0x10 4 operand) 0x10 = operand % 2 ^ 32
    ∧ (∀ r ∈ [0x00, 0x20, 0x100, 0x154, 0x1110, 0x2100, 0x22FC], regWrite p r 4 operand = p)

/-- PUT of a context's fault queue written after its record, the record no longer waiting and the queue's interrupt raised (R399). -/
def recordPosted (s : State) (c : Ctx) (h : FqHdr) : State :=
  let s : State := writeSpan s c.pkg c.num (c.fqaddr + 4) (toLE 4 ((h.put + 1) % 2 ^ 32))
  let s : State := if h.irqen then s.mapPkg c.pkg (fun p => { p with irqs := p.irqs ++ [h.vec] }) else s
  s.mapCtx c.pkg c.num (fun c => { c with fqWait := c.fqWait.drop 1, fqPut := none })

/-- R392 to R403: a page command that a check of R397 stops ends with that check's RESULT and changes nothing else; one that passes acts on each of its pages at one tick and
ends with RESULT 0, UNMAP and RETIRE after the leases on the pages, BUSY until then, the others at once; one written while another is BUSY does nothing but set DROP; an OP not assigned gives RESULT 5; the switch of a migration copies the frames, renames the page and starts the requests that its units hold in their order of arrival;
R399: a waiting fault record goes into its queue where there is room, and PUT follows once its write has completed at SYSTEM.
Model's choices it rests on: log entries 33 to 36, 94, 95, 101. -/
def Obligations.PageCommandsComplete : Prop :=
  ∀ (s : State) (pkg : Nat) (p : Pkg), s.focus.1 = pkg → s.pkg? pkg = some p → mgmtOn p = true →
    (p.pgCmd ≠ none → ∀ i ∈ [Instr.map, .unmap, .migrate, .retire, .deny], exec i s = .next (s.mapPkg pkg (fun p => { p with pgDrop := true })))
    ∧ (p.ready = true → p.pgCmd = none →
      (∀ r : Nat, (pgCheck s p 1 = .inl r → exec .map s = .next (endPgCmd s pkg r)) ∧ (pgCheck s p 2 = .inl r → exec .unmap s = .next (endPgCmd s pkg r))
        ∧ (pgCheck s p 3 = .inl r → exec .migrate s = .next (endPgCmd s pkg r)) ∧ (pgCheck s p 4 = .inl r → exec .retire s = .next (endPgCmd s pkg r))
        ∧ (pgCheck s p 5 = .inl r → exec .deny s = .next (endPgCmd s pkg r)))
      ∧ (∀ w : PgWork,
        (pgCheck s p 1 = .inr w → exec .map s = .next (endPgCmd (w.pages.foldl (fun s q =>
            replay (setPage (clearCounts s w.c.pkg w.c w.e q.2) { ctx := w.c.num, pkg := w.c.pkg, va := q.1, state := .mapped, frames := q.2, newFrames := [], since := 0, bad := none })
              w.c.num q.1) s) pkg 0))
        ∧ (pgCheck s p 2 = .inr w → unleased w s = true → exec .unmap s = .next (endPgCmd
            { s with pages := s.pages.filter (fun q => !(q.ctx == w.c.num && q.pkg == w.c.pkg && w.pages.any (fun x => x.1 == q.va))),
                     guests := s.guests.filter (fun g => !(g.ctx == w.c.num && w.pages.any (fun x => on x.1 (128 * g.line)))) } pkg 0))
        ∧ (pgCheck s p 3 = .inr w → exec .migrate s = .next (endPgCmd (w.pages.foldl (fun s x =>
            match s.page? w.c.num w.c.pkg x.1 with
            | none => s
            | some q => setPage s { q with state := .migrating, newFrames := x.2, since := s.tick }) s) pkg 0))
        ∧ (pgCheck s p 4 = .inr w → unleased w s = true → exec .retire s = .next (endPgCmd (w.pages.foldl (fun s x =>
            match s.page? w.c.num w.c.pkg x.1 with
            | none => s
            | some q =>
              let s : State := (List.range w.e.n).foldl (fun s j => withdraw s w.c.pkg w.c w.e q.frames j) s
              setPage { s with guests := s.guests.filter (fun g => !(g.ctx == w.c.num && on x.1 (128 * g.line))) }
                { q with state := .retired, frames := [], newFrames := [], bad := none }) s) pkg 0))
        ∧ (pgCheck s p 2 = .inr w → unleased w s = false → exec .unmap s = .next (s.mapPkg pkg (fun p =>
            { p with pgCmd := some { op := 2, ctx := w.c.num, pages := w.pages.map (·.1) } })))
        ∧ (pgCheck s p 4 = .inr w → unleased w s = false → exec .retire s = .next (s.mapPkg pkg (fun p =>
            { p with pgCmd := some { op := 4, ctx := w.c.num, pages := w.pages.map (·.1) } })))
        ∧ (pgCheck s p 5 = .inr w → exec .deny s = .next (endPgCmd (denyPages w s) pkg 0)))
      ∧ (∀ op : Nat, (op % 16 = 0 ∨ 5 < op % 16) → exec (.pgCmdBad pkg op) s = .next (endPgCmd s pkg 5)))
    ∧ (∀ (ctx va : Nat) (q : Page) (c : Ctx) (e : PtEntry), s.page? ctx pkg va = some q → s.ctx? pkg ctx = some c → c.route (vaFull va) = some e →
        q.state = .migrating → q.since + 100 ≤ s.tick → pageLeased s pkg ctx va = false → q.bad = none →
        exec (.migrationSwitch pkg ctx va) s = .next (startHeld (setPage (clearCounts (copyFrames s pkg c e q) pkg c e q.newFrames)
          { q with state := .mapped, frames := q.newFrames, newFrames := [], bad := none })))
    ∧ (∀ (c : Ctx) (r : FaultRec) (t : List FaultRec) (h : FqHdr) (slot : Nat), s.ctx? s.focus.1 s.focus.2 = some c → c.fqWait = r :: t →
        goodHdr s c = some h → slot = c.fqaddr + 64 + 64 * (h.put % 2 ^ h.log2) →
        (c.fqPut = none → (h.put + 2 ^ 32 - h.get) % 2 ^ 32 ≠ 2 ^ h.log2 → fqReach s c slot 64 = true →
          exec .faultRecordPost s = .next ((writeSpan s c.pkg c.num slot (recordBytes r)).mapCtx c.pkg c.num
            (fun d => { d with fqPut := some (putTime s c slot) })))
        ∧ (∀ u : Nat, c.fqPut = some u → u ≤ homeNow s c.pkg → exec .faultRecordPost s = .next (recordPosted s c h)))

/-- R418 to R421: a port trains, comes UP with both lanes at full rate and DEGRADED with one or at the lower rate, fails with the reason of its training, loses lanes and fails with the last, and counts flits corrected and
replayed.
Model's choices it rests on: log entries 96 and 125. -/
def Obligations.PortEventsComplete : Prop :=
  ∀ (s : State) (pkg port lanes peer pp : Nat) (p : Pkg) (q : Port), s.pkg? pkg = some p → port < 64 → p.ports.getD port { } = q →
    (mgmtOn p = true → p.ready = true →
      ((q.state = .down ∨ q.state = .degraded ∨ q.state = .failed) → exec (.train pkg port) s =
        .next (setPort s pkg port (fun q => { q with state := .training, lanes := 0, reason := 0, fails := [] })))
      ∧ ((q.state = .training ∨ q.state = .up) → exec (.train pkg port) s = .next s)
      ∧ exec (.disable pkg port) s = .next (setPort s pkg port (fun q => { q with state := .down, lanes := 0, reason := 4 })))
    ∧ (q.state = .training →
      (∀ (slow : Bool) (domain n : Nat), q.failedOut = false → 1 ≤ n → n ≤ 2 → peer < 128 → pp < 64 → ownDomain s p peer domain = true →
        (domain = p.clkDomain → peer ≠ p.num → exec (.portTrained pkg port (.linked n slow peer pp domain)) s = .next (setPort s pkg port (fun q =>
          { q with state := if n = 2 ∧ slow = false then .up else .degraded, lanes := n, peerPkg := peer, peerPort := pp, reason := 0 })))
        ∧ (domain ≠ p.clkDomain → exec (.portTrained pkg port (.linked n slow peer pp domain)) s =
          .next (setPort s pkg port (fun q => { q with state := .failed, lanes := 0, reason := 2 })))
        ∧ (domain = p.clkDomain → peer = p.num → exec (.portTrained pkg port (.linked n slow peer pp domain)) s =
          .next (setPort s pkg port (fun q => { q with state := .failed, lanes := 0, reason := 3 }))))
      ∧ (q.failedOut = false → exec (.portTrained pkg port .attemptFailed) s =
          .next (setPort s pkg port (fun q => { q with fails := (s.tick :: q.fails).take 3 })))
      ∧ (∀ a b c : Nat, q.fails = [a, b, c] → a ≤ c + 100000000 →
          exec (.portTrainTimeout pkg port) s = .next (setPort s pkg port (fun q => { q with state := .failed, lanes := 0, reason := 1 }))))
    ∧ (q.usable = true →
      (0 < lanes → lanes < q.lanes → exec (.laneLost pkg port lanes) s = .next (setPort s pkg port (fun q => { q with state := .degraded, lanes := q.lanes - lanes })))
      ∧ (0 < lanes → q.lanes ≤ lanes → exec (.laneLost pkg port lanes) s = .next (setPort s pkg port (fun q => { q with state := .failed, lanes := 0, reason := 4 })))
      ∧ exec (.flitReplay pkg port true) s = .next (s.mapPkg pkg (fun p => { p with ports := modAt p.ports port (fun q => { q with corr := min 65535 (q.corr + 1) }) }))
      ∧ exec (.flitReplay pkg port false) s = .next (s.mapPkg pkg (fun p => { p with ports := modAt p.ports port (fun q => { q with replay := min 65535 (q.replay + 1) }) })))

/-- R5, R422 to R424, R428 to R430, R432: fields ramp in their order and come on, a ramp of more than 2 ms or an overcurrent fails one, the stages of bring-up follow one another, the
arbiter's microsecond sets each field's throttle level and grant within the package's limits, and a module reset clears the package.
Model's choices it rests on: log entries 89, 98, 99, 109, 124. -/
def Obligations.FieldEventsComplete : Prop :=
  ∀ (s : State) (pkg f : Nat) (p : Pkg), s.focus.1 = pkg → s.pkg? pkg = some p →
    (f < 6 →
      (p.failed = false → p.broken = false → fieldState p f = .off → (precedes f).all (fun g => fieldState p g == .on) = true → p.stage ≤ 1 →
        exec (.fieldRamp pkg f) s = .next ((s.mapPkg pkg (fun p => { p with stage := 1 })).mapField pkg f (fun d => { d with state := .ramp, rampStart := s.tick })))
      ∧ (p.failed = false → p.broken = false → fieldState p f = .ramp → (together f).all (fun g => fieldState p g != .off) = true →
        s.tick ≤ (p.fields.getD f { }).rampStart + 2000000 →
        exec (.fieldOn pkg f) s = .next ((s.mapField pkg f (fun d => { d with state := .on })).mapPkg pkg
          (fun p => if p.fields.all (fun d => d.state == .on) then { p with stage := 2 } else p)))
      ∧ (fieldState p f = .ramp → exec (.fieldRampTimeout pkg f) s =
          .next ((s.mapField pkg f (fun d => { d with state := .failed })).mapPkg pkg (fun p => { p with failed := true, failStage := p.stage })))
      ∧ (fieldState p f = .on → exec (.overcurrent pkg f) s = .next (deviceFault (s.mapField pkg f (fun d => { d with state := .failed })) pkg)))
    ∧ (p.failed = false → p.broken = false → p.stage = 2 → p.bdLinks.all (· != .failed) = true → exec .baseDieLinkTraining s = .next (s.mapPkg pkg (fun p => { linksUp p with stage := 3 })))
    ∧ (p.failed = false → p.broken = false → p.stage = 3 → exec .hbmTraining s = .next (s.mapPkg pkg (fun p => { p with stage := 4 })))
    ∧ (∀ (rate width : Nat) (flit : Bool), 1 ≤ rate → rate ≤ 6 → width ≤ 2 → (flit = true ∨ rate ≤ 5) →
      (p.failed = false → p.broken = false → p.stage = 4 → exec (.pcieLinkTraining pkg rate width flit) s =
        .next (s.mapPkg pkg (fun p => { p with rate := rate, width := width, flit := flit, stage := 5 })))
      ∧ (p.stage = 5 → p.broken = false → p.rate = 0 → exec (.pcieLinkTraining pkg rate width flit) s =
        .next (s.mapPkg pkg (fun p => { p with rate := rate, width := width, flit := flit }))))
    ∧ (∀ draws grants : List Nat, draws.length = 6 → grants.length = 6 → p.cbaNext ≤ s.tick →
      (List.range 6).all (fun f => decide (grants.getD f 0 ≤ 4300) && decide (40 + 6 * busyCores s pkg f ≤ grants.getD f 0)) = true →
      (limitsKept (p.noteDraw s.tick draws) s.tick grants = true ∨ grants = leastGrants s pkg) →
      exec (.cbaGrant pkg draws grants) s = .next (s.mapPkg pkg (fun p =>
        { p.noteDraw s.tick draws with
          cbaNext := p.cbaNext + 1000 * p.overdue s.tick
          fields := (List.range 6).map (fun i =>
                   { p.fields.getD i { } with thr := nextThr (p.fields.getD i { }) (draws.getD i 0), grant := grants.getD i 0 }) })))
    ∧ exec .moduleReset s = .next ((clearPkg s pkg).mapPkg pkg (fun p =>
        { num := p.num, skew := p.skew, fields := p.fields.map (fun f => { qmap := f.qmap, skew := f.skew })
          unreach := ((List.range 128).filter (· != p.num)).map (fun n => (n, s.tick)) }))

/-! ## Rules stated whole -/

/-- A pattern of an IEEE format of w bits and m fraction bits is a NaN. -/
def nanBits (w m b : Nat) : Bool := decide ((2 ^ (w - 1 - m) - 1) * 2 ^ m < b % 2 ^ (w - 1))

/-- The place of a pattern that is not a NaN in the order of its values, −0 below +0. -/
def orderBits (w b : Nat) : Int := if b < 2 ^ (w - 1) then b else -(b % 2 ^ (w - 1) : Nat) - 1

/-- One operand of the two, unrounded: the other operand beside one NaN, the canonical NaN of two, the smaller or the larger otherwise. -/
def minMaxBits (w m canon : Nat) (larger : Bool) (a b : Nat) : Nat :=
  if nanBits w m a ∧ nanBits w m b then canon
  else if nanBits w m a then b
  else if nanBits w m b then a
  else if (orderBits w a ≤ orderBits w b) = (larger = true) then b
  else a

/-- R184: FMIN, FMAX, DMIN and DMAX, and the I forms, return one of their operands unrounded. -/
def Obligations.MinMaxReturnsAnOperand : Prop :=
  ∀ (s : State) (x : Iss) (act : Mask) (w : FmtA) (i : FmtI),
    (Runs s x (formFmin w) act → exec (.fmin w) s = .next (wrote s x (formFmin w) act w.d.toNat 1 (fun l =>
      minMaxBits 32 23 0x7FC00000 false (readWord x w.a.toNat l).toNat (readWord x w.b.toNat l).toNat)))
    ∧ (Runs s x (formFmax w) act → exec (.fmax w) s = .next (wrote s x (formFmax w) act w.d.toNat 1 (fun l =>
      minMaxBits 32 23 0x7FC00000 true (readWord x w.a.toNat l).toNat (readWord x w.b.toNat l).toNat)))
    ∧ (Runs s x (formFminI i) act → exec (.fminI i) s = .next (wrote s x (formFminI i) act i.d.toNat 1 (fun l =>
      minMaxBits 32 23 0x7FC00000 false (readWord x i.a.toNat l).toNat (immF i.imm).toNat)))
    ∧ (Runs s x (formFmaxI i) act → exec (.fmaxI i) s = .next (wrote s x (formFmaxI i) act i.d.toNat 1 (fun l =>
      minMaxBits 32 23 0x7FC00000 true (readWord x i.a.toNat l).toNat (immF i.imm).toNat)))
    ∧ (Runs s x (formDmin w) act → exec (.dmin w) s = .next (wrote s x (formDmin w) act w.d.toNat 2 (fun l =>
      minMaxBits 64 52 0x7FF8000000000000 false (readPair x w.a.toNat l) (readPair x w.b.toNat l))))
    ∧ (Runs s x (formDmax w) act → exec (.dmax w) s = .next (wrote s x (formDmax w) act w.d.toNat 2 (fun l =>
      minMaxBits 64 52 0x7FF8000000000000 true (readPair x w.a.toNat l) (readPair x w.b.toNat l))))

/-- R214: TRAP has format I and opcode 0x109; D, A and EP must be zero; with no acting lane it has no effect; with one it traps with TRAPI, its
IMM20 carried into SR.TCAUSE.INFO and SR.TPC holding the TRAP word. -/
def Obligations.TrapInstructionRule : Prop :=
  ∀ (s : State) (x : Iss) (act : Mask) (w : FmtI),
    decode (putI 0x109 w) = .trap w
    ∧ (issuer s = some x → x.sp.window = none → (w.d ≠ 0 ∨ w.a ≠ 0 ∨ w.ep ≠ 0) →
      exec (.trap w) s = .next (takeTrap s x.g x.sp x.k { cause := 0x01, info := 0x109 } x.sp.at))
    ∧ (issuer s = some x → x.sp.window = none → (formTrap w).illop = false → srcEmpty x.g (guardRegs w.g) false = .ready → guardMask x.g w.g x.sp.mask = 0 →
      exec (.trap w) s = .next (s.mapSplit x.g.id x.sp.id (fun sp => (sp.noteRegion (guardRegs w.g) []).advance)))
    ∧ (Runs s x (formTrap w) act → x.sp.window = none →
      exec (.trap w) s = .next (takeTrap s x.g x.sp x.k { cause := 0x11, info := w.imm.toNat } x.sp.at)
        ∧ (∀ h : Nat, x.k.handler = some h → x.sp.inHandler = false →
            takeTrap s x.g x.sp x.k { cause := 0x11, info := w.imm.toNat } x.sp.at
              = s.mapSplit x.g.id x.sp.id (fun sp => sp.enterHandler { cause := 0x11, info := w.imm.toNat } x.sp.at h))
        ∧ (∀ (h : Nat) (sp : Split), let e := sp.enterHandler { cause := 0x11, info := w.imm.toNat } x.sp.at h
            e.tcause.extractLsb' 12 20 = w.imm ∧ e.tcause.extractLsb' 0 8 = 0x11 ∧ e.tpc = BitVec.ofNat 32 x.sp.pc))

/-- R325: IDONE has opcode 0x18E and format S with an optional guard; every field but G must be zero; it sets the done bit of each acting lane and has no
other effect. -/
def Obligations.IdoneRule : Prop :=
  ∀ (s : State) (x : Iss) (act : Mask) (w : FmtS),
    decode (putS 0x18E w) = .idone w
    ∧ (issuer s = some x → x.sp.window = none → (w.d ≠ 0 ∨ w.a ≠ 0 ∨ w.b ≠ 0 ∨ w.level ≠ 0 ∨ w.id ≠ 0 ∨ w.ep ≠ 0 ∨ w.mod ≠ 0) →
      exec (.idone w) s = .next (takeTrap s x.g x.sp x.k { cause := 0x01, info := 0x18E } x.sp.at))
    ∧ (Runs s x (formIdone w) act →
      exec (.idone w) s = .next (finish (s.mapGroup x.g.id (fun g => { g with done := g.done ||| act })) x (formIdone w))
        ∧ (∀ i : Nat, (x.g.done ||| act).getLsbD i = (x.g.done.getLsbD i || act.getLsbD i)))

/-- R114, with R60: the state in which a group first issues is the one placement gives it. -/
def Obligations.GroupStartRule : Prop :=
  ∀ (s t : State) (inst rank pkg core : Nat), exec (.groupPlace inst rank pkg core) s = .next t →
    ∃ (k : Inst) (g : Group) (sp : Split), s.inst? inst = some k ∧ t.groups = s.groups ++ [g]
      ∧ g.inst = k.id ∧ g.rank = rank ∧ g.pkg = pkg ∧ g.core = core ∧ g.state = .resident
      ∧ g.vregs = List.replicate k.regs { state := .full, lanes := List.replicate 96 0 }
      ∧ g.sregs.length = 64 ∧ (∀ r ∈ g.sregs, r = { state := .full, val := 0 })
      ∧ g.splits = [sp] ∧ sp.lanes = BitVec.allOnes 96 ∧ sp.mask = BitVec.allOnes 96 ∧ g.waitlim = 26 ∧ g.tbase = 0
      ∧ sp.st = (let z := k.seed ^^^ BitVec.ofNat 32 (rank * 0x9E3779B9); if z = 0 then 1 else z)

/-! ## Encoding -/

/-- R86, R87, R98 to R106: every well-formed instruction that a word encodes is read back from that word, with every field at every value. -/
def Obligations.DecodeOfEncode : Prop := ∀ (i : Instr) (w : DWord), WellFormed i → encode i = some w → decode w = i

/-- R86, R99: every word is some well-formed instruction, and encoding it again gives the word: no bit is dropped, and no two words give one instruction. -/
def Obligations.EncodeOfDecode : Prop := ∀ w : DWord, WellFormed (decode w) ∧ encode (decode w) = some w

/-- Worked words of the spec (R109, R141 to R349, R374, R384, R391, R402, R416), each read as the instruction and the fields that its listing names. -/
def Obligations.WorkedWordsDecode : Prop :=
  decode 0x2000400002002200 = .fadd { d := 2, a := 0, b := 1, c := 0, ep := 0b010, g := 2, mod := 0 }
  ∧ decode 0x10D0942000008000 = .iaddI { d := 644, a := 644, imm := 1, ep := 0, g := 0, mod := 0 }
  ∧ decode 0x8000000000000300 = .bra { a := 0, disp := 0, ep := 0, g := 3, mod := 0 }
  ∧ decode 0x218080280C038009 = .ffma { d := 4, a := 5, b := 6, c := 7, ep := 0, g := 0, mod := 0x09 }
  ∧ decode 0x1D55604000320002 = .icmpI { d := 683, a := 8, imm := 100, ep := 0, g := 0, mod := 0x02 }
  ∧ decode 0x5801205000008023 = .shflI { d := 9, a := 10, imm := 1, ep := 0, g := 0, mod := 0x23 }
  ∧ decode 0x1E50A7F000000000 = .movi { d := 645, imm := 0x3F800000, z := 0, g := 0, mod := 0 }
  ∧ decode 0x6001544000200000 = .ld 0 { d := 10, ab := 648, off := 0x40, ep := 0, g := 0, scope := 0, ord := 0 }
  ∧ decode 0x6B00B45000000004 = .st 6 { d := 5, ab := 650, off := 0, ep := 0, g := 0, scope := 0, ord := 4 }
  ∧ decode 0x7000C0A000000032 = .atom 0 { d := 6, ab := 20, off := 0, ep := 0, g := 0, scope := 3, ord := 2 }
  ∧ decode 0x66000000000000E0 = .fence { d := 0, ab := 0, off := 0, ep := 0, g := 0, scope := 14, ord := 0 }
  ∧ decode 0x6D5C745516000010 = .tiledef { d := 739, a := 650, b := 651, c := 0, ep := 0, g := 0, mod := 0x10 }
  ∧ decode 0x8C51000000108000 = .srd { d := 648, a := 0, imm := 0x021, ep := 0, g := 0, mod := 0 }
  ∧ decode 0xA060171D29440000 = .mma { d := 768, a := 739, b := 660, c := 648, ep := 0, g := 0, mod := 0 }
  ∧ decode 0xAC5294B531600030 = .coll { d := 660, a := 662, b := 664, c := 704, ep := 0, g := 0, mod := 0x30 }
  ∧ decode 0xC050800000400001 = .bar { d := 644, a := 0, b := 0, level := 2, id := 0, ep := 0, g := 0, mod := 1 }
  ∧ decode 0xC7D5C00800000200 = .iput { d := 686, a := 1, b := 0, level := 0, id := 0, ep := 0, g := 2, mod := 0 }
  ∧ decode 0xC8509455174800E0 = .launch { d := 644, a := 650, b := 651, c := 656, ep := 0, g := 0, mod := 0xE0 }
  ∧ decode 0xCCD13440000000F8 = .cuew { d := 649, ab := 648, off := 0, ep := 0, g := 0, scope := 15, ord := 8 }
  ∧ decode 0xE15094502943002A = .rop { d := 644, a := 650, b := 20, c := 646, ep := 0, g := 0, mod := 0x2A }
  ∧ decode 0xE850945000000001 = .nmmodeOn { d := 644, a := 650, b := 0, c := 0, ep := 0, g := 0, mod := 1 }
  ∧ decode 0x0000000000000000 = .unassignedOpcode 0

/-! ## The step -/

/-- R78, R86, R97, R120, R168, R272, R317, R342, R394, R423: a move lets its ticks and cycles pass and the device's commands go on, and then runs exactly the instruction decoded from the word
its split stands at, or the event it names, after which the device's writes that no pin holds any longer are performed and the waits that have ended complete; a split whose wait has reached
its limit does not issue but takes WAITTO, and where a split cannot issue only the time passes; a move of the host writes its bytes to host memory and nothing else; a group of a module with
a FAILED field does not run; and with no move listed a step never stops the machine for want of one.
Model's choices it rests on: log entries 3 and 116. -/
def Obligations.StepRunsDecoded : Prop :=
  ∀ (s : State) (m : Move) (rest : List Move), s.agenda = m :: rest →
    let t : State := settleCmds (m.pass { s with agenda := rest })
    (∀ (gid sp : Nat) (w : DWord), m.act = .issue gid sp → issueWord t gid sp = some w →
      (groupUnusable t gid = false → overWaited t gid sp = false →
        ((issuer { t with cur := some (gid, sp) }).isSome = true → step s = settled (exec (decode w) { t with cur := some (gid, sp) }))
        ∧ (issuer { t with cur := some (gid, sp) } = none → step s = .next (settledState t)))
      ∧ (∀ u : State, groupUnusable t gid = false → overWaited t gid sp = true → waitto t gid sp = some u → step s = .next (settledState u))
      ∧ (groupUnusable t gid = true → step s = .fault .moduleUnusable))
    ∧ (∀ gid sp : Nat, m.act = .issue gid sp → issueWord t gid sp = none → step s = .next (settledState t))
    ∧ (∀ i : Instr, m.act = .event i → step s = settled (exec i { t with cur := none, focus := (m.pkg, m.ctx) }))
    ∧ (∀ (a : Nat) (bs : List Byte), m.act = .hostFill a bs → step s = .next (fillHost t a bs) ∧ fillHost t a bs = { t with hostMem := Memory.writeN t.hostMem a bs })
    ∧ (m.act = .idle → step s = .next t)
    ∧ (∀ r : Refusal, step { s with agenda := [] } ≠ .refused r)

/-! ## Reset and invariants -/

/-- R5, R270, R411, R420, R423, R424, R430: after module reset no context, group, access or operation exists, memory lists nothing (log entry 1), and every package is at stage 0 with its fields
OFF, its ports DOWN, its windows closed, no session, and its command registers 0.
Model's choices it rests on: log entries 1 to 5. -/
def Obligations.ResetState : Prop :=
  State.reset.mem = [] ∧ State.reset.ctxs = [] ∧ State.reset.groups = [] ∧ State.reset.insts = [] ∧ State.reset.loads = [] ∧ State.reset.writes = []
    ∧ State.reset.rops = [] ∧ State.reset.engs = [] ∧ State.reset.steps = [] ∧ State.reset.pages = [] ∧ State.reset.sessions = [] ∧ State.reset.poison = []
    ∧ ∀ p ∈ State.reset.pkgs, p.stage = 0 ∧ p.failed = false ∧ p.ready = false ∧ p.rate = 0 ∧ p.tdisp = .unlocked ∧ p.idesec = 0 ∧ p.sess = false
        ∧ p.ctxArg = 0 ∧ p.ctxDrop = false ∧ p.ctxResult = 0 ∧ p.pgArg = 0 ∧ p.pgDrop = false ∧ p.pgResult = 0 ∧ p.clkDomain = 0 ∧ p.irqs = []
        ∧ p.fields.length = 6 ∧ (∀ f ∈ p.fields, f.state = .off ∧ f.thr = 0 ∧ f.stale = 0) ∧ p.ports.length = 64 ∧ (∀ q ∈ p.ports, q.state = .down)
        ∧ p.routes.length = 128 ∧ (∀ r ∈ p.routes, r = 0) ∧ p.hwins.length = 16 ∧ (∀ v ∈ p.hwins, v.en = false)

/-- The memories of the reset state have their canonical form.
Model's choices it rests on: log entry 1. -/
def Obligations.ResetMemoryCanonical : Prop := MemCanonical State.reset

/-- Every step from any state keeps device memory and host memory in their canonical form: addresses rising, no byte listed that reads as an unlisted one.
Model's choices it rests on: log entry 1. -/
def Obligations.StepKeepsMemoryCanonical : Prop := ∀ s t : State, MemCanonical s → step s = .next t → MemCanonical t

/-! ## Frames -/

/-- The rounding code of a compute instruction that may round stochastically (R59, R188, R189). -/
def roundCode : Instr → Nat
  | .badd2 w | .bmul2 w | .bfma2 w | .fcvt _ w => rndOf w.mod
  | _ => 0

/-- SR.RNDST after the instruction: advanced once where it rounds stochastically in some lane (R60). -/
def stAfter (i : Instr) (act : Mask) (st : Word) : Word := if roundCode i = 4 ∧ act ≠ 0 then stAdvance st else st

/-- What a compute instruction of the issuing split may change, and nothing else: the lanes of its destination registers that act and the full/empty state of those registers, the
split's place, which moves to the next word or past the clause, with its waits over; its generator where it rounds stochastically; what its region and its FENCES window note of the
registers read and written; its mask, inside its lanes, where a mask register is a destination; the quarantine entries of its cores that the registers it read lift; and what the group
has noted of its destination registers for its FENCES windows. -/
def ComputeFramed (s t : State) (x : Iss) (f : Form) (i : Instr) (act : Mask) : Prop :=
  t = { s with groups := t.groups, cores := (liftQuarantine s x.g (f.reads x.k)).cores }
    ∧ (∀ a, Memory.read t.mem a = Memory.read s.mem a)
    ∧ sameOthers x.g.id s t
    ∧ (∀ n lane, (n ∉ f.dsts x.k ∨ (n < 640 ∧ act.getLsbD lane = false)) → t.regWord x.g.id n lane = s.regWord x.g.id n lane)
    ∧ ∃ (g : Group) (sp : Split), t.group? x.g.id = some g ∧ g.split? x.sp.id = some sp
      ∧ g = { x.g with vregs := g.vregs, sregs := g.sregs, splits := g.splits, logs := g.logs }
      ∧ g.logs.filter (fun l => !(f.dsts x.k).contains l.num) = x.g.logs.filter (fun l => !(f.dsts x.k).contains l.num)
      ∧ (∀ n, n ∉ f.dsts x.k → regState g n = regState x.g n)
      ∧ g.splits.filter (fun o => o.id != x.sp.id) = x.g.splits.filter (fun o => o.id != x.sp.id)
      ∧ sp = ((({ x.sp with mask := sp.mask, st := stAfter i act x.sp.st } : Split).noteRegs x.g (f.dsts x.k)).noteRegion (guardRegs f.g ++ f.uses x.k) (f.sets x.k)).advance
      ∧ ((f.dsts x.k).any (fun n => decide (701 ≤ n)) = false → sp.mask = x.sp.mask)

/-- R60, R97, R113, R171: an instruction of classes 0 to 2 that executes changes its destinations in its acting lanes and moves its split on, advancing SR.RNDST where it rounds
stochastically; every other register keeps its words and its full/empty state, and every other special register, every other split, every other group, every core but for the
quarantine entries that its reads lift, and every byte of memory is as it was.
Model's choices it rests on: log entries 9, 39. -/
def Obligations.ComputeFrame : Prop :=
  ∀ (s t : State) (x : Iss) (act : Mask) (i : Instr) (f : Form) (ls : List Level) (wide : Nat → Bool),
    formOf ls wide i = some f → f.compute = true → Runs s x f act → exec i s = .next t → ComputeFramed s t x f i act

/-- The destination registers that an access leaves PENDING: a load's, and those an atomic returns its old value in. -/
def pendingRegs (w : FmtM) : Instr → List Nat
  | .ld ty _ => (List.range (memRegs ty.toNat)).map (w.d.toNat + ·)
  | .atom op _ => (List.range (atomRet op.toNat)).map (w.d.toNat + ·)
  | _ => []

/-- An access that is a release. -/
def isRelease (w : FmtM) : Instr → Bool
  | .st _ _ => decide (8 ≤ w.ord.toNat)
  | .atom _ _ => decide (2 ≤ w.ord.toNat)
  | .red _ _ => w.ord != 0
  | .cuew _ => w.ord != 0
  | _ => false

/-- Operand r names a register that a group holds. -/
def holdsReg (g : Group) (r : Nat) : Prop := (r < 640 ∧ r < g.vregs.length) ∨ (640 ≤ r ∧ r < 704 ∧ r - 640 < g.sregs.length)

/-- R118, R145, R219, R228: a load, a store, an atomic, a reduction or a CUEW that issues changes no byte of memory and no value of a register; the load and the atomic leave their
destination registers PENDING; a store, an atomic, a reduction and a CUEW leave no guest copy of their lines on their package; and the access then stands in flight, as the last of the
loads or of the writes, held by its issuing split. -/
def Obligations.AccessIssueFrame : Prop :=
  ∀ (s t : State) (x : Iss) (act : Mask) (w : FmtM) (i : Instr) (f : Form) (n : Nat) (once onlyW : Bool) (la : List (Nat × Nat)),
    Accesses x w i f n once onlyW → Runs s x f act → la = laneAddrs x w.ab.toNat w.off.toInt n once act → addrsOk s x n onlyW la = true →
    (onlyW = true → windowFull x la = false) → (isRelease w i = true → fenceReady s x w.scope.toNat = true) → exec i s = .next t →
      (∀ a, Memory.read t.mem a = Memory.read s.mem a)
      ∧ t = { s with groups := t.groups, cores := t.cores, guests := t.guests, loads := t.loads, writes := t.writes, nextId := t.nextId }
      ∧ sameOthers x.g.id s t ∧ (∀ r lane, t.regWord x.g.id r lane = s.regWord x.g.id r lane)
      ∧ (∃ g, t.group? x.g.id = some g ∧ g = { x.g with vregs := g.vregs, sregs := g.sregs, splits := g.splits, logs := g.logs }
          ∧ ∀ r ∈ pendingRegs w i, holdsReg x.g r → regState g r = .pending)
      ∧ (onlyW = true → t.writes = s.writes ∧ t.guests = s.guests
          ∧ ∃ l, t.loads = s.loads ++ [l] ∧ l.id = s.nextId ∧ l.gid = x.g.id ∧ l.holders = [x.sp.id] ∧ l.width = n ∧ l.use.regs = pendingRegs w i)
      ∧ (onlyW = false → t.loads = s.loads
          ∧ (∃ l, t.writes = s.writes ++ [l] ∧ l.id = s.nextId ∧ l.gid = x.g.id ∧ l.holders = [x.sp.id] ∧ l.width = n)
          ∧ ∀ o ∈ t.guests, o ∈ s.guests ∧ (o.pkg = x.g.pkg → o.ctx = x.g.ctx → ∀ p ∈ la, o.line ≠ lineOf p.2))

/-- R147, R219, R226: the write of one lane of a store, or of an atomic, stores its bytes where its address translates to, and every byte outside them reads as before,
on its own line under the line's key and elsewhere under every key; no register changes.
That holds of a MIGRATING page too, whose frame the copy reads at the switch (R404).
Model's choices it rests on: log entries 12, 95. -/
def Obligations.StoreFrame : Prop :=
  ∀ (s t : State) (w : Write) (a : LaneAcc) (op lane h p key : Nat) (bs : List Byte) (i : Instr),
    s.write? op = some w → waitingLane w.lanes lane = some a → translate s w.pkg w.ctx a.va = .at_ h p key → writeHeld s w a = false →
    staleAt s w.pkg w.ctx w.epoch a.va = false →
    ((i = .writePerform (.lane op lane) .none ∧ w.atom = none ∧ bs = a.data)
      ∨ (∃ (o : Nat) (old : List Byte) (bad : Bool), i = .atomicExecute op lane ∧ w.atom = some o ∧ (w.use = .none ∨ poisonedAt s key (atomWidth o) = false) ∧ readHome s w.pkg w.ctx a.va (atomWidth o) = .bytes old bad
          ∧ bs = toLE (atomWidth o) (atomNew o (leNat old) (leNat a.data) (leNat a.cmp)))) →
    key % 128 + bs.length ≤ 128 → exec i s = .next t →
      readPhys t (lineKey s h w.ctx (lineOf a.va)) (lineOf a.va) key bs.length = bs
      ∧ (∀ b, b / 128 = key / 128 → (b < key ∨ key + bs.length ≤ b) →
          readPhys t (lineKey s h w.ctx (lineOf a.va)) (lineOf a.va) b 1 = readPhys s (lineKey s h w.ctx (lineOf a.va)) (lineOf a.va) b 1)
      ∧ (∀ b ck tweak, b / 128 ≠ key / 128 → readPhys t ck tweak b 1 = readPhys s ck tweak b 1)
      ∧ (∀ b, Memory.read t.hostMem b = Memory.read s.hostMem b)
      ∧ (∀ gid n l, t.regWord gid n l = s.regWord gid n l)
end

