-- ==== Sys2Proof/Laws/Encoding.lean ====
section
/-! SUPPORT. Fields and opcodes of the six formats: what a word was put together from is read back, and a word is put together again from what is read. -/

namespace Sys2Proof

/-! ## Read back what was put together -/

@[simp] theorem opcodeOf_putA (op : BitVec 9) (f : FmtA) : opcodeOf (putA op f) = op.toNat := by
  refine congrArg BitVec.toNat ?_
  unfold putA
  (apply BitVec.eq_of_getLsbD_eq; intro i hi; rw [BitVec.getLsbD_extractLsb', decide_eq_true hi, Bool.true_and]; iterate 9 first | (rw [BitVec.getLsbD_append, if_neg (by omega)]) | (rw [BitVec.getLsbD_append, if_pos (by omega)]) | skip)
  all_goals (congr 1; omega)
@[simp] theorem getA_putA (op : BitVec 9) (f : FmtA) : getA (putA op f) = f := by
  cases f; simp only [getA, putA, FmtA.mk.injEq]
  refine ⟨?_, ?_, ?_, ?_, ?_, ?_, ?_⟩ <;> (apply BitVec.eq_of_getLsbD_eq; intro i hi; rw [BitVec.getLsbD_extractLsb', decide_eq_true hi, Bool.true_and]; iterate 9 first | (rw [BitVec.getLsbD_append, if_neg (by omega)]) | (rw [BitVec.getLsbD_append, if_pos (by omega)]) | skip)
  all_goals (congr 1; omega)
@[simp] theorem opcodeOf_putI (op : BitVec 9) (f : FmtI) : opcodeOf (putI op f) = op.toNat := by
  refine congrArg BitVec.toNat ?_
  unfold putI
  (apply BitVec.eq_of_getLsbD_eq; intro i hi; rw [BitVec.getLsbD_extractLsb', decide_eq_true hi, Bool.true_and]; iterate 9 first | (rw [BitVec.getLsbD_append, if_neg (by omega)]) | (rw [BitVec.getLsbD_append, if_pos (by omega)]) | skip)
  all_goals (congr 1; omega)
@[simp] theorem getI_putI (op : BitVec 9) (f : FmtI) : getI (putI op f) = f := by
  cases f; simp only [getI, putI, FmtI.mk.injEq]
  refine ⟨?_, ?_, ?_, ?_, ?_, ?_⟩ <;> (apply BitVec.eq_of_getLsbD_eq; intro i hi; rw [BitVec.getLsbD_extractLsb', decide_eq_true hi, Bool.true_and]; iterate 9 first | (rw [BitVec.getLsbD_append, if_neg (by omega)]) | (rw [BitVec.getLsbD_append, if_pos (by omega)]) | skip)
  all_goals (congr 1; omega)
@[simp] theorem opcodeOf_putK (op : BitVec 9) (f : FmtK) : opcodeOf (putK op f) = op.toNat := by
  refine congrArg BitVec.toNat ?_
  unfold putK
  (apply BitVec.eq_of_getLsbD_eq; intro i hi; rw [BitVec.getLsbD_extractLsb', decide_eq_true hi, Bool.true_and]; iterate 9 first | (rw [BitVec.getLsbD_append, if_neg (by omega)]) | (rw [BitVec.getLsbD_append, if_pos (by omega)]) | skip)
  all_goals (congr 1; omega)
@[simp] theorem getK_putK (op : BitVec 9) (f : FmtK) : getK (putK op f) = f := by
  cases f; simp only [getK, putK, FmtK.mk.injEq]
  refine ⟨?_, ?_, ?_, ?_, ?_⟩ <;> (apply BitVec.eq_of_getLsbD_eq; intro i hi; rw [BitVec.getLsbD_extractLsb', decide_eq_true hi, Bool.true_and]; iterate 9 first | (rw [BitVec.getLsbD_append, if_neg (by omega)]) | (rw [BitVec.getLsbD_append, if_pos (by omega)]) | skip)
  all_goals (congr 1; omega)
@[simp] theorem opcodeOf_putM (op : BitVec 9) (f : FmtM) : opcodeOf (putM op f) = op.toNat := by
  refine congrArg BitVec.toNat ?_
  unfold putM
  (apply BitVec.eq_of_getLsbD_eq; intro i hi; rw [BitVec.getLsbD_extractLsb', decide_eq_true hi, Bool.true_and]; iterate 9 first | (rw [BitVec.getLsbD_append, if_neg (by omega)]) | (rw [BitVec.getLsbD_append, if_pos (by omega)]) | skip)
  all_goals (congr 1; omega)
@[simp] theorem getM_putM (op : BitVec 9) (f : FmtM) : getM (putM op f) = f := by
  cases f; simp only [getM, putM, FmtM.mk.injEq]
  refine ⟨?_, ?_, ?_, ?_, ?_, ?_, ?_⟩ <;> (apply BitVec.eq_of_getLsbD_eq; intro i hi; rw [BitVec.getLsbD_extractLsb', decide_eq_true hi, Bool.true_and]; iterate 9 first | (rw [BitVec.getLsbD_append, if_neg (by omega)]) | (rw [BitVec.getLsbD_append, if_pos (by omega)]) | skip)
  all_goals (congr 1; omega)
@[simp] theorem opcodeOf_putC (op : BitVec 9) (f : FmtC) : opcodeOf (putC op f) = op.toNat := by
  refine congrArg BitVec.toNat ?_
  unfold putC
  (apply BitVec.eq_of_getLsbD_eq; intro i hi; rw [BitVec.getLsbD_extractLsb', decide_eq_true hi, Bool.true_and]; iterate 9 first | (rw [BitVec.getLsbD_append, if_neg (by omega)]) | (rw [BitVec.getLsbD_append, if_pos (by omega)]) | skip)
  all_goals (congr 1; omega)
@[simp] theorem getC_putC (op : BitVec 9) (f : FmtC) : getC (putC op f) = f := by
  cases f; simp only [getC, putC, FmtC.mk.injEq]
  refine ⟨?_, ?_, ?_, ?_, ?_⟩ <;> (apply BitVec.eq_of_getLsbD_eq; intro i hi; rw [BitVec.getLsbD_extractLsb', decide_eq_true hi, Bool.true_and]; iterate 9 first | (rw [BitVec.getLsbD_append, if_neg (by omega)]) | (rw [BitVec.getLsbD_append, if_pos (by omega)]) | skip)
  all_goals (congr 1; omega)
@[simp] theorem opcodeOf_putS (op : BitVec 9) (f : FmtS) : opcodeOf (putS op f) = op.toNat := by
  refine congrArg BitVec.toNat ?_
  unfold putS
  (apply BitVec.eq_of_getLsbD_eq; intro i hi; rw [BitVec.getLsbD_extractLsb', decide_eq_true hi, Bool.true_and]; iterate 9 first | (rw [BitVec.getLsbD_append, if_neg (by omega)]) | (rw [BitVec.getLsbD_append, if_pos (by omega)]) | skip)
  all_goals (congr 1; omega)
@[simp] theorem getS_putS (op : BitVec 9) (f : FmtS) : getS (putS op f) = f := by
  cases f; simp only [getS, putS, FmtS.mk.injEq]
  refine ⟨?_, ?_, ?_, ?_, ?_, ?_, ?_, ?_⟩ <;> (apply BitVec.eq_of_getLsbD_eq; intro i hi; rw [BitVec.getLsbD_extractLsb', decide_eq_true hi, Bool.true_and]; iterate 9 first | (rw [BitVec.getLsbD_append, if_neg (by omega)]) | (rw [BitVec.getLsbD_append, if_pos (by omega)]) | skip)
  all_goals (congr 1; omega)

/-! ## Put together what was read -/

/-- A word's opcode field holds its opcode. -/
theorem opcode_field {w : DWord} {n : Nat} (op : BitVec 9) (h : opcodeOf w = n) (hn : op.toNat = n) : w.extractLsb' 55 9 = op :=
  BitVec.eq_of_toNat_eq (h.trans hn.symm)

theorem putA_getA (w : DWord) : putA (w.extractLsb' 55 9) (getA w) = w := by
  unfold putA getA; apply BitVec.eq_of_getLsbD_eq; intro i hi
  simp only [BitVec.getLsbD_append, BitVec.getLsbD_extractLsb']
  (repeat' split) <;> (rw [show decide _ = true from decide_eq_true (by omega), Bool.true_and]; congr 1; omega)
/-- A word whose opcode is op is what format A puts together from its fields. -/
theorem putA_of_opcode {w : DWord} {n : Nat} (op : BitVec 9) (h : opcodeOf w = n) (hn : op.toNat = n) : putA op (getA w) = w := by
  rw [← opcode_field op h hn, putA_getA]
theorem putI_getI (w : DWord) : putI (w.extractLsb' 55 9) (getI w) = w := by
  unfold putI getI; apply BitVec.eq_of_getLsbD_eq; intro i hi
  simp only [BitVec.getLsbD_append, BitVec.getLsbD_extractLsb']
  (repeat' split) <;> (rw [show decide _ = true from decide_eq_true (by omega), Bool.true_and]; congr 1; omega)
/-- A word whose opcode is op is what format I puts together from its fields. -/
theorem putI_of_opcode {w : DWord} {n : Nat} (op : BitVec 9) (h : opcodeOf w = n) (hn : op.toNat = n) : putI op (getI w) = w := by
  rw [← opcode_field op h hn, putI_getI]
theorem putK_getK (w : DWord) : putK (w.extractLsb' 55 9) (getK w) = w := by
  unfold putK getK; apply BitVec.eq_of_getLsbD_eq; intro i hi
  simp only [BitVec.getLsbD_append, BitVec.getLsbD_extractLsb']
  (repeat' split) <;> (rw [show decide _ = true from decide_eq_true (by omega), Bool.true_and]; congr 1; omega)
/-- A word whose opcode is op is what format K puts together from its fields. -/
theorem putK_of_opcode {w : DWord} {n : Nat} (op : BitVec 9) (h : opcodeOf w = n) (hn : op.toNat = n) : putK op (getK w) = w := by
  rw [← opcode_field op h hn, putK_getK]
theorem putM_getM (w : DWord) : putM (w.extractLsb' 55 9) (getM w) = w := by
  unfold putM getM; apply BitVec.eq_of_getLsbD_eq; intro i hi
  simp only [BitVec.getLsbD_append, BitVec.getLsbD_extractLsb']
  (repeat' split) <;> (rw [show decide _ = true from decide_eq_true (by omega), Bool.true_and]; congr 1; omega)
/-- A word whose opcode is op is what format M puts together from its fields. -/
theorem putM_of_opcode {w : DWord} {n : Nat} (op : BitVec 9) (h : opcodeOf w = n) (hn : op.toNat = n) : putM op (getM w) = w := by
  rw [← opcode_field op h hn, putM_getM]
theorem putC_getC (w : DWord) : putC (w.extractLsb' 55 9) (getC w) = w := by
  unfold putC getC; apply BitVec.eq_of_getLsbD_eq; intro i hi
  simp only [BitVec.getLsbD_append, BitVec.getLsbD_extractLsb']
  (repeat' split) <;> (rw [show decide _ = true from decide_eq_true (by omega), Bool.true_and]; congr 1; omega)
/-- A word whose opcode is op is what format C puts together from its fields. -/
theorem putC_of_opcode {w : DWord} {n : Nat} (op : BitVec 9) (h : opcodeOf w = n) (hn : op.toNat = n) : putC op (getC w) = w := by
  rw [← opcode_field op h hn, putC_getC]
theorem putS_getS (w : DWord) : putS (w.extractLsb' 55 9) (getS w) = w := by
  unfold putS getS; apply BitVec.eq_of_getLsbD_eq; intro i hi
  simp only [BitVec.getLsbD_append, BitVec.getLsbD_extractLsb']
  (repeat' split) <;> (rw [show decide _ = true from decide_eq_true (by omega), Bool.true_and]; congr 1; omega)
/-- A word whose opcode is op is what format S puts together from its fields. -/
theorem putS_of_opcode {w : DWord} {n : Nat} (op : BitVec 9) (h : opcodeOf w = n) (hn : op.toNat = n) : putS op (getS w) = w := by
  rw [← opcode_field op h hn, putS_getS]

end Sys2Proof
end

