-- ==== Sys2Proof/Laws/Issue.lean ====
section
/-! SUPPORT. What an issue does, once: the verdict of R97 for a split that is ready, and the outcome of issueWith there. -/

namespace Sys2Proof.Machine

open Sys2Proof

/-- A ready split passes the checks of R97 and acts in its lanes. -/
theorem verdict_of_ready {x : Iss} {f : Form} {act : Mask} (h : ready x f act = true) : verdict x f = .go act := by
  simp only [ready, Bool.and_eq_true, Bool.not_eq_true', beq_iff_eq, Bool.or_eq_true, bne_iff_ne] at h
  obtain ⟨⟨⟨⟨⟨⟨⟨-, h2⟩, h3⟩, h4⟩, h5⟩, h6⟩, h7⟩, h8⟩ := h
  subst h7
  have h9 : ¬ (actMask x f = 0 ∧ maskWrite x f = false) := by
    rintro ⟨ha, hm⟩
    rcases h8 with h8 | h8
    · exact h8 ha
    · simp [hm] at h8
  simp only [verdict, h2, h3, h4, emptyCheck, h5, h6, if_neg h9]
  simp

/-- An issue by a ready split is its body, at its end. -/
theorem issueWith_ready {s : State} {x : Iss} {f : Form} {act : Mask} {body : Iss → Mask → State → Res} (h : Runs s x f act) :
    issueWith s f body = .next (endIssue s x f (body x act s)) := by
  have hw : windowStalls x f = false := by
    have := h.2
    simp only [ready, Bool.and_eq_true, Bool.not_eq_true'] at this
    exact this.1.1.1.1.1.1.1
  simp [issueWith, h.1, issueAt, hw, verdict_of_ready h.2]

/-- Without an issuing split nothing issues. -/
theorem issueWith_none {s : State} {f : Form} {body : Iss → Mask → State → Res} (h : issuer s = none) :
    issueWith s f body = .refused .notEnabled := by simp [issueWith, h]

/-- An issue answers a next state or is not enabled: it never faults. -/
theorem issueWith_cases (s : State) (f : Form) (body : Iss → Mask → State → Res) :
    (∃ x, issuer s = some x ∧ issueWith s f body = .next (issueAt s x f body))
      ∨ (issuer s = none ∧ issueWith s f body = .refused .notEnabled) := by
  unfold issueWith
  cases issuer s with
  | none => exact .inr ⟨rfl, rfl⟩
  | some x => exact .inl ⟨x, rfl, rfl⟩

/-- No lane breaks a check that all pass. -/
theorem firstBad_none {once : Bool} {la : List (Nat × Nat)} {ok : Nat → Bool} (h : la.all (fun p => ok p.2) = true) :
    firstBad once la ok = none := by
  have : la.find? (fun p => !ok p.2) = none := by
    rw [List.find?_eq_none]; intro p hp; simp [List.all_eq_true.mp h p hp]
  simp [firstBad, this]

/-- Addresses that pass their checks take no trap (R220). -/
theorem accessTrap_none {s : State} {x : Iss} {once : Bool} {wm : Nat} {onlyW : Bool} {la : List (Nat × Nat)}
    (h : addrsOk s x wm onlyW la = true) : accessTrap s x once wm onlyW la = none := by
  simp only [addrsOk, List.all_eq_true, Bool.and_eq_true] at h
  simp only [accessTrap]
  rw [firstBad_none (ok := fun a => a % wm == 0) (List.all_eq_true.mpr fun p hp => (h p hp).1.1),
    firstBad_none (ok := fun a => (routeOf s x.g.pkg x.g.ctx a).isSome) (List.all_eq_true.mpr fun p hp => (h p hp).1.2),
    firstBad_none (ok := fun a => !rltHit s x.g.pkg x.g.core a onlyW) (List.all_eq_true.mpr fun p hp => (h p hp).2)]

/-- Constant-area offsets that pass their checks take no trap (R224). -/
theorem ldcTrap_none {s : State} {x : Iss} {once : Bool} {la : List (Nat × Nat)} (h : constsOk s x la = true) :
    ldcTrap s x once la = none := by
  simp only [constsOk, List.all_eq_true, Bool.and_eq_true] at h
  simp only [ldcTrap]
  rw [firstBad_none (ok := fun a => a % 4 == 0) (List.all_eq_true.mpr fun p hp => (h p hp).1.1),
    firstBad_none (ok := fun a => decide (a < x.k.csize)) (List.all_eq_true.mpr fun p hp => (h p hp).1.2),
    firstBad_none (ok := fun a => !rltHit s x.g.pkg x.g.core (x.k.cbase + a) true) (List.all_eq_true.mpr fun p hp => (h p hp).2)]

end Sys2Proof.Machine
end

