-- ==== Sys2Proof/Laws/Engine.lean ====
section
/-! SUPPORT. The checks of the ashlar, the engines and the transfers, where they pass: no trap is taken and the issue goes on. -/

namespace Sys2Proof.Machine

open Sys2Proof

@[simp] theorem orTrap_none (k : Res) : orTrap none k = k := rfl
@[simp] theorem orTrap_some (t : Trap) (k : Res) : orTrap (some t) k = .trap t := rfl

/-- Values that are multiples of m take no ALIGN. -/
theorem misaligned_none {m : Nat} {l : List (Nat × Nat)} (h : aligned m (l.map (·.1)) = true) : misaligned m l = none := by
  have : l.find? (fun p => p.1 % m != 0) = none := by
    rw [List.find?_eq_none]; intro p hp
    have := List.all_eq_true.mp h p.1 (List.mem_map_of_mem hp)
    simpa using this
  simp [misaligned, this]

/-- Ranges that are in order take no ADDR. -/
theorem badRange_none {s : State} {x : Iss} {l : List Range} (h : rangesOk s x l = true) : badRange s x l = none := by
  have : l.find? (fun r => !rangeOk s x r) = none := by
    rw [List.find?_eq_none]; intro r hr; simp [List.all_eq_true.mp h r hr]
  simp [badRange, this]

/-- A tile that may be read is named by its reader. -/
theorem nameReader_ok {s : State} {x : Iss} {n : Nat} (h : tileReads s x n = true) :
    nameReader x (tileOf s x (tileEntry x n)) = .ok (tileOf s x (tileEntry x n)) := by
  simp only [tileReads, Bool.and_eq_true, bne_iff_ne, ne_eq] at h
  obtain ⟨⟨h1, h2⟩, h3⟩ := h
  cases hs : (tileOf s x (tileEntry x n)).state <;> simp_all [nameReader]

/-- A tile that may be written is named by its writer. -/
theorem nameWriter_ok {s : State} {x : Iss} {n : Nat} (h : tileWrites s x n = true) :
    nameWriter x (tileOf s x (tileEntry x n)) = .ok (tileOf s x (tileEntry x n)) := by
  simp only [tileWrites, Bool.and_eq_true, bne_iff_ne, ne_eq] at h
  obtain ⟨⟨h1, h2⟩, h3⟩ := h
  cases hs : (tileOf s x (tileEntry x n)).state <;> simp_all [nameWriter]

theorem withTile_reader {s : State} {x : Iss} {n : Nat} {k : Nat → Tile → Res} (h : tileReads s x n = true) :
    withTile s x n true k = k (tileEntry x n) (tileOf s x (tileEntry x n)) := by
  simp [withTile, nameReader_ok h]

theorem withTile_writer {s : State} {x : Iss} {n : Nat} {k : Nat → Tile → Res} (h : tileWrites s x n = true) :
    withTile s x n false k = k (tileEntry x n) (tileOf s x (tileEntry x n)) := by
  simp [withTile, nameWriter_ok h]

/-- An operation that need not wait starts. -/
theorem issueEng_done {s : State} {x : Iss} {p : EngPlan} {ctl scope : Nat} (h : engWait s x p ctl = none) :
    issueEng s x p ctl scope = .done (startEng s x p ctl scope none) := by simp [issueEng, h]

/-- A matrix step's tile operand that passes R242 and R243 is used. -/
theorem stepTile_ok {s : State} {x : Iss} {n fmt : Nat} {badOr : Bool} {mx : Nat × Nat} {any : Bool} {k : Nat → Res}
    (ht : isTile n = true) (h : stepOperandOk s x n fmt badOr mx any = true) :
    stepTile s x n fmt badOr mx any k = k (tileEntry x n) := by
  simp only [stepOperandOk, ht, Bool.not_true, Bool.false_or, Bool.and_eq_true, beq_iff_eq] at h
  obtain ⟨⟨⟨h1, h2⟩, h3⟩, h4⟩ := h
  have hl : tileLegal x (tileOf s x (tileEntry x n)) = true := by
    simp only [tileReads, Bool.and_eq_true] at h1; exact h1.1.1
  simp only [stepTile, nameReader_ok h1, hl, h2, and_self, if_true]
  have h3' : ¬ (isScaled fmt = true ∧ badOr = true) := by
    rintro ⟨a, b⟩; simp [a, b] at h3
  have h4' : ¬ (any = true ∧ ((tileOf s x (tileEntry x n)).nrows ≤ mx.1 ∨ (tileOf s x (tileEntry x n)).elems ≤ mx.2)) := by
    rintro ⟨a, b⟩; rcases b with b | b <;> simp [a, b] at h4
  rw [if_neg h3', if_neg h4']

/-- Each lane goes to its destination (R200, R201). -/
theorem transferTo_sends {s : State} {x : Iss} {act : Mask} {dest : Nat → Nat} {pre : State → State} {d0 : Nat} {others : List Nat}
    (h : Sends x act dest d0 others) : transferTo s x act dest pre = .jump (sent (pre s) x act dest d0 others) := by
  obtain ⟨h1, h2, h3⟩ := h
  have h4 : ¬ (4 < x.g.splits.length + others.length) := by omega
  have h5 : ¬ (x.sp.window.isSome = true ∧ others ≠ []) := by
    rintro ⟨ha, hb⟩; rcases h3 with h3 | h3
    · simp [h3] at ha
    · exact hb h3
  simp only [transferTo, h1, if_neg h4, if_neg h5, sent]

end Sys2Proof.Machine
end

