-- ==== Sys2Proof/Laws/State.lean ====
section
/-! SUPPORT. State's updates: what each field is after each of them, so that no proof unfolds a record update; and what a lookup gives after an update of its table. -/

namespace Sys2Proof.Machine

open Sys2Proof

/-! ## Lookups after updates -/

/-- A lookup after an update of the entries it looks for. -/
theorem find_upd_same {α : Type} (l : List α) (p : α → Bool) (f : α → α) (h : ∀ x, p x = true → p (f x) = true) :
    (upd l p f).find? p = (l.find? p).map f := by
  induction l with
  | nil => rfl
  | cons a t ih =>
    simp only [upd, List.map_cons, List.find?_cons] at ih ⊢
    cases hp : p a with
    | true => simp [h a hp]
    | false => simp [hp, ih]

/-- A lookup after an update of other entries. -/
theorem find_upd_other {α : Type} (l : List α) (p q : α → Bool) (f : α → α) (h : ∀ x, p x = true → q x = false ∧ q (f x) = false) :
    (upd l p f).find? q = l.find? q := by
  induction l with
  | nil => rfl
  | cons a t ih =>
    simp only [upd, List.map_cons, List.find?_cons] at ih ⊢
    cases hp : p a with
    | true => simp [h a hp, ih]
    | false => simp [ih]

/-- An update leaves the number of entries. -/
@[simp] theorem upd_length {α : Type} (l : List α) (p : α → Bool) (f : α → α) : (upd l p f).length = l.length := by simp [upd]

variable (s : State)

/-! ## State.mapPkg -/

@[simp] theorem State.mapPkg_tick (n : Nat) (f : Pkg → Pkg) : (s.mapPkg n f).tick = s.tick := rfl
@[simp] theorem State.mapPkg_mem (n : Nat) (f : Pkg → Pkg) : (s.mapPkg n f).mem = s.mem := rfl
@[simp] theorem State.mapPkg_seals (n : Nat) (f : Pkg → Pkg) : (s.mapPkg n f).seals = s.seals := rfl
@[simp] theorem State.mapPkg_poison (n : Nat) (f : Pkg → Pkg) : (s.mapPkg n f).poison = s.poison := rfl
@[simp] theorem State.mapPkg_eccCount (n : Nat) (f : Pkg → Pkg) : (s.mapPkg n f).eccCount = s.eccCount := rfl
@[simp] theorem State.mapPkg_hostMem (n : Nat) (f : Pkg → Pkg) : (s.mapPkg n f).hostMem = s.hostMem := rfl
@[simp] theorem State.mapPkg_leases (n : Nat) (f : Pkg → Pkg) : (s.mapPkg n f).leases = s.leases := rfl
@[simp] theorem State.mapPkg_leaseHold (n : Nat) (f : Pkg → Pkg) : (s.mapPkg n f).leaseHold = s.leaseHold := rfl
@[simp] theorem State.mapPkg_order (n : Nat) (f : Pkg → Pkg) : (s.mapPkg n f).order = s.order := rfl
@[simp] theorem State.mapPkg_guests (n : Nat) (f : Pkg → Pkg) : (s.mapPkg n f).guests = s.guests := rfl
@[simp] theorem State.mapPkg_pkgs (n : Nat) (f : Pkg → Pkg) : (s.mapPkg n f).pkgs = upd s.pkgs (fun p => p.num == n) f := rfl
@[simp] theorem State.mapPkg_ctxs (n : Nat) (f : Pkg → Pkg) : (s.mapPkg n f).ctxs = s.ctxs := rfl
@[simp] theorem State.mapPkg_insts (n : Nat) (f : Pkg → Pkg) : (s.mapPkg n f).insts = s.insts := rfl
@[simp] theorem State.mapPkg_groups (n : Nat) (f : Pkg → Pkg) : (s.mapPkg n f).groups = s.groups := rfl
@[simp] theorem State.mapPkg_cores (n : Nat) (f : Pkg → Pkg) : (s.mapPkg n f).cores = s.cores := rfl
@[simp] theorem State.mapPkg_coreRecs (n : Nat) (f : Pkg → Pkg) : (s.mapPkg n f).coreRecs = s.coreRecs := rfl
@[simp] theorem State.mapPkg_pages (n : Nat) (f : Pkg → Pkg) : (s.mapPkg n f).pages = s.pages := rfl
@[simp] theorem State.mapPkg_pageWaits (n : Nat) (f : Pkg → Pkg) : (s.mapPkg n f).pageWaits = s.pageWaits := rfl
@[simp] theorem State.mapPkg_sessions (n : Nat) (f : Pkg → Pkg) : (s.mapPkg n f).sessions = s.sessions := rfl
@[simp] theorem State.mapPkg_loads (n : Nat) (f : Pkg → Pkg) : (s.mapPkg n f).loads = s.loads := rfl
@[simp] theorem State.mapPkg_writes (n : Nat) (f : Pkg → Pkg) : (s.mapPkg n f).writes = s.writes := rfl
@[simp] theorem State.mapPkg_rops (n : Nat) (f : Pkg → Pkg) : (s.mapPkg n f).rops = s.rops := rfl
@[simp] theorem State.mapPkg_nms (n : Nat) (f : Pkg → Pkg) : (s.mapPkg n f).nms = s.nms := rfl
@[simp] theorem State.mapPkg_steps (n : Nat) (f : Pkg → Pkg) : (s.mapPkg n f).steps = s.steps := rfl
@[simp] theorem State.mapPkg_engs (n : Nat) (f : Pkg → Pkg) : (s.mapPkg n f).engs = s.engs := rfl
@[simp] theorem State.mapPkg_defOps (n : Nat) (f : Pkg → Pkg) : (s.mapPkg n f).defOps = s.defOps := rfl
@[simp] theorem State.mapPkg_heldWrites (n : Nat) (f : Pkg → Pkg) : (s.mapPkg n f).heldWrites = s.heldWrites := rfl
@[simp] theorem State.mapPkg_cuu (n : Nat) (f : Pkg → Pkg) : (s.mapPkg n f).cuu = s.cuu := rfl
@[simp] theorem State.mapPkg_agenda (n : Nat) (f : Pkg → Pkg) : (s.mapPkg n f).agenda = s.agenda := rfl
@[simp] theorem State.mapPkg_choiceCtr (n : Nat) (f : Pkg → Pkg) : (s.mapPkg n f).choiceCtr = s.choiceCtr := rfl
@[simp] theorem State.mapPkg_cur (n : Nat) (f : Pkg → Pkg) : (s.mapPkg n f).cur = s.cur := rfl
@[simp] theorem State.mapPkg_focus (n : Nat) (f : Pkg → Pkg) : (s.mapPkg n f).focus = s.focus := rfl
@[simp] theorem State.mapPkg_nextId (n : Nat) (f : Pkg → Pkg) : (s.mapPkg n f).nextId = s.nextId := rfl

/-! ## State.mapCtx -/

@[simp] theorem State.mapCtx_tick (p n : Nat) (f : Ctx → Ctx) : (s.mapCtx p n f).tick = s.tick := rfl
@[simp] theorem State.mapCtx_mem (p n : Nat) (f : Ctx → Ctx) : (s.mapCtx p n f).mem = s.mem := rfl
@[simp] theorem State.mapCtx_seals (p n : Nat) (f : Ctx → Ctx) : (s.mapCtx p n f).seals = s.seals := rfl
@[simp] theorem State.mapCtx_poison (p n : Nat) (f : Ctx → Ctx) : (s.mapCtx p n f).poison = s.poison := rfl
@[simp] theorem State.mapCtx_eccCount (p n : Nat) (f : Ctx → Ctx) : (s.mapCtx p n f).eccCount = s.eccCount := rfl
@[simp] theorem State.mapCtx_hostMem (p n : Nat) (f : Ctx → Ctx) : (s.mapCtx p n f).hostMem = s.hostMem := rfl
@[simp] theorem State.mapCtx_leases (p n : Nat) (f : Ctx → Ctx) : (s.mapCtx p n f).leases = s.leases := rfl
@[simp] theorem State.mapCtx_leaseHold (p n : Nat) (f : Ctx → Ctx) : (s.mapCtx p n f).leaseHold = s.leaseHold := rfl
@[simp] theorem State.mapCtx_order (p n : Nat) (f : Ctx → Ctx) : (s.mapCtx p n f).order = s.order := rfl
@[simp] theorem State.mapCtx_guests (p n : Nat) (f : Ctx → Ctx) : (s.mapCtx p n f).guests = s.guests := rfl
@[simp] theorem State.mapCtx_pkgs (p n : Nat) (f : Ctx → Ctx) : (s.mapCtx p n f).pkgs = s.pkgs := rfl
@[simp] theorem State.mapCtx_ctxs (p n : Nat) (f : Ctx → Ctx) : (s.mapCtx p n f).ctxs = upd s.ctxs (fun c => c.pkg == p && c.num == n) f := rfl
@[simp] theorem State.mapCtx_insts (p n : Nat) (f : Ctx → Ctx) : (s.mapCtx p n f).insts = s.insts := rfl
@[simp] theorem State.mapCtx_groups (p n : Nat) (f : Ctx → Ctx) : (s.mapCtx p n f).groups = s.groups := rfl
@[simp] theorem State.mapCtx_cores (p n : Nat) (f : Ctx → Ctx) : (s.mapCtx p n f).cores = s.cores := rfl
@[simp] theorem State.mapCtx_coreRecs (p n : Nat) (f : Ctx → Ctx) : (s.mapCtx p n f).coreRecs = s.coreRecs := rfl
@[simp] theorem State.mapCtx_pages (p n : Nat) (f : Ctx → Ctx) : (s.mapCtx p n f).pages = s.pages := rfl
@[simp] theorem State.mapCtx_pageWaits (p n : Nat) (f : Ctx → Ctx) : (s.mapCtx p n f).pageWaits = s.pageWaits := rfl
@[simp] theorem State.mapCtx_sessions (p n : Nat) (f : Ctx → Ctx) : (s.mapCtx p n f).sessions = s.sessions := rfl
@[simp] theorem State.mapCtx_loads (p n : Nat) (f : Ctx → Ctx) : (s.mapCtx p n f).loads = s.loads := rfl
@[simp] theorem State.mapCtx_writes (p n : Nat) (f : Ctx → Ctx) : (s.mapCtx p n f).writes = s.writes := rfl
@[simp] theorem State.mapCtx_rops (p n : Nat) (f : Ctx → Ctx) : (s.mapCtx p n f).rops = s.rops := rfl
@[simp] theorem State.mapCtx_nms (p n : Nat) (f : Ctx → Ctx) : (s.mapCtx p n f).nms = s.nms := rfl
@[simp] theorem State.mapCtx_steps (p n : Nat) (f : Ctx → Ctx) : (s.mapCtx p n f).steps = s.steps := rfl
@[simp] theorem State.mapCtx_engs (p n : Nat) (f : Ctx → Ctx) : (s.mapCtx p n f).engs = s.engs := rfl
@[simp] theorem State.mapCtx_defOps (p n : Nat) (f : Ctx → Ctx) : (s.mapCtx p n f).defOps = s.defOps := rfl
@[simp] theorem State.mapCtx_heldWrites (p n : Nat) (f : Ctx → Ctx) : (s.mapCtx p n f).heldWrites = s.heldWrites := rfl
@[simp] theorem State.mapCtx_cuu (p n : Nat) (f : Ctx → Ctx) : (s.mapCtx p n f).cuu = s.cuu := rfl
@[simp] theorem State.mapCtx_agenda (p n : Nat) (f : Ctx → Ctx) : (s.mapCtx p n f).agenda = s.agenda := rfl
@[simp] theorem State.mapCtx_choiceCtr (p n : Nat) (f : Ctx → Ctx) : (s.mapCtx p n f).choiceCtr = s.choiceCtr := rfl
@[simp] theorem State.mapCtx_cur (p n : Nat) (f : Ctx → Ctx) : (s.mapCtx p n f).cur = s.cur := rfl
@[simp] theorem State.mapCtx_focus (p n : Nat) (f : Ctx → Ctx) : (s.mapCtx p n f).focus = s.focus := rfl
@[simp] theorem State.mapCtx_nextId (p n : Nat) (f : Ctx → Ctx) : (s.mapCtx p n f).nextId = s.nextId := rfl

/-! ## State.mapInst -/

@[simp] theorem State.mapInst_tick (n : Nat) (f : Inst → Inst) : (s.mapInst n f).tick = s.tick := rfl
@[simp] theorem State.mapInst_mem (n : Nat) (f : Inst → Inst) : (s.mapInst n f).mem = s.mem := rfl
@[simp] theorem State.mapInst_seals (n : Nat) (f : Inst → Inst) : (s.mapInst n f).seals = s.seals := rfl
@[simp] theorem State.mapInst_poison (n : Nat) (f : Inst → Inst) : (s.mapInst n f).poison = s.poison := rfl
@[simp] theorem State.mapInst_eccCount (n : Nat) (f : Inst → Inst) : (s.mapInst n f).eccCount = s.eccCount := rfl
@[simp] theorem State.mapInst_hostMem (n : Nat) (f : Inst → Inst) : (s.mapInst n f).hostMem = s.hostMem := rfl
@[simp] theorem State.mapInst_leases (n : Nat) (f : Inst → Inst) : (s.mapInst n f).leases = s.leases := rfl
@[simp] theorem State.mapInst_leaseHold (n : Nat) (f : Inst → Inst) : (s.mapInst n f).leaseHold = s.leaseHold := rfl
@[simp] theorem State.mapInst_order (n : Nat) (f : Inst → Inst) : (s.mapInst n f).order = s.order := rfl
@[simp] theorem State.mapInst_guests (n : Nat) (f : Inst → Inst) : (s.mapInst n f).guests = s.guests := rfl
@[simp] theorem State.mapInst_pkgs (n : Nat) (f : Inst → Inst) : (s.mapInst n f).pkgs = s.pkgs := rfl
@[simp] theorem State.mapInst_ctxs (n : Nat) (f : Inst → Inst) : (s.mapInst n f).ctxs = s.ctxs := rfl
@[simp] theorem State.mapInst_insts (n : Nat) (f : Inst → Inst) : (s.mapInst n f).insts = upd s.insts (fun i => i.id == n) f := rfl
@[simp] theorem State.mapInst_groups (n : Nat) (f : Inst → Inst) : (s.mapInst n f).groups = s.groups := rfl
@[simp] theorem State.mapInst_cores (n : Nat) (f : Inst → Inst) : (s.mapInst n f).cores = s.cores := rfl
@[simp] theorem State.mapInst_coreRecs (n : Nat) (f : Inst → Inst) : (s.mapInst n f).coreRecs = s.coreRecs := rfl
@[simp] theorem State.mapInst_pages (n : Nat) (f : Inst → Inst) : (s.mapInst n f).pages = s.pages := rfl
@[simp] theorem State.mapInst_pageWaits (n : Nat) (f : Inst → Inst) : (s.mapInst n f).pageWaits = s.pageWaits := rfl
@[simp] theorem State.mapInst_sessions (n : Nat) (f : Inst → Inst) : (s.mapInst n f).sessions = s.sessions := rfl
@[simp] theorem State.mapInst_loads (n : Nat) (f : Inst → Inst) : (s.mapInst n f).loads = s.loads := rfl
@[simp] theorem State.mapInst_writes (n : Nat) (f : Inst → Inst) : (s.mapInst n f).writes = s.writes := rfl
@[simp] theorem State.mapInst_rops (n : Nat) (f : Inst → Inst) : (s.mapInst n f).rops = s.rops := rfl
@[simp] theorem State.mapInst_nms (n : Nat) (f : Inst → Inst) : (s.mapInst n f).nms = s.nms := rfl
@[simp] theorem State.mapInst_steps (n : Nat) (f : Inst → Inst) : (s.mapInst n f).steps = s.steps := rfl
@[simp] theorem State.mapInst_engs (n : Nat) (f : Inst → Inst) : (s.mapInst n f).engs = s.engs := rfl
@[simp] theorem State.mapInst_defOps (n : Nat) (f : Inst → Inst) : (s.mapInst n f).defOps = s.defOps := rfl
@[simp] theorem State.mapInst_heldWrites (n : Nat) (f : Inst → Inst) : (s.mapInst n f).heldWrites = s.heldWrites := rfl
@[simp] theorem State.mapInst_cuu (n : Nat) (f : Inst → Inst) : (s.mapInst n f).cuu = s.cuu := rfl
@[simp] theorem State.mapInst_agenda (n : Nat) (f : Inst → Inst) : (s.mapInst n f).agenda = s.agenda := rfl
@[simp] theorem State.mapInst_choiceCtr (n : Nat) (f : Inst → Inst) : (s.mapInst n f).choiceCtr = s.choiceCtr := rfl
@[simp] theorem State.mapInst_cur (n : Nat) (f : Inst → Inst) : (s.mapInst n f).cur = s.cur := rfl
@[simp] theorem State.mapInst_focus (n : Nat) (f : Inst → Inst) : (s.mapInst n f).focus = s.focus := rfl
@[simp] theorem State.mapInst_nextId (n : Nat) (f : Inst → Inst) : (s.mapInst n f).nextId = s.nextId := rfl

/-! ## State.mapGroup -/

@[simp] theorem State.mapGroup_tick (n : Nat) (f : Group → Group) : (s.mapGroup n f).tick = s.tick := rfl
@[simp] theorem State.mapGroup_mem (n : Nat) (f : Group → Group) : (s.mapGroup n f).mem = s.mem := rfl
@[simp] theorem State.mapGroup_seals (n : Nat) (f : Group → Group) : (s.mapGroup n f).seals = s.seals := rfl
@[simp] theorem State.mapGroup_poison (n : Nat) (f : Group → Group) : (s.mapGroup n f).poison = s.poison := rfl
@[simp] theorem State.mapGroup_eccCount (n : Nat) (f : Group → Group) : (s.mapGroup n f).eccCount = s.eccCount := rfl
@[simp] theorem State.mapGroup_hostMem (n : Nat) (f : Group → Group) : (s.mapGroup n f).hostMem = s.hostMem := rfl
@[simp] theorem State.mapGroup_leases (n : Nat) (f : Group → Group) : (s.mapGroup n f).leases = s.leases := rfl
@[simp] theorem State.mapGroup_leaseHold (n : Nat) (f : Group → Group) : (s.mapGroup n f).leaseHold = s.leaseHold := rfl
@[simp] theorem State.mapGroup_order (n : Nat) (f : Group → Group) : (s.mapGroup n f).order = s.order := rfl
@[simp] theorem State.mapGroup_guests (n : Nat) (f : Group → Group) : (s.mapGroup n f).guests = s.guests := rfl
@[simp] theorem State.mapGroup_pkgs (n : Nat) (f : Group → Group) : (s.mapGroup n f).pkgs = s.pkgs := rfl
@[simp] theorem State.mapGroup_ctxs (n : Nat) (f : Group → Group) : (s.mapGroup n f).ctxs = s.ctxs := rfl
@[simp] theorem State.mapGroup_insts (n : Nat) (f : Group → Group) : (s.mapGroup n f).insts = s.insts := rfl
@[simp] theorem State.mapGroup_groups (n : Nat) (f : Group → Group) : (s.mapGroup n f).groups = upd s.groups (fun g => g.id == n) f := rfl
@[simp] theorem State.mapGroup_cores (n : Nat) (f : Group → Group) : (s.mapGroup n f).cores = s.cores := rfl
@[simp] theorem State.mapGroup_coreRecs (n : Nat) (f : Group → Group) : (s.mapGroup n f).coreRecs = s.coreRecs := rfl
@[simp] theorem State.mapGroup_pages (n : Nat) (f : Group → Group) : (s.mapGroup n f).pages = s.pages := rfl
@[simp] theorem State.mapGroup_pageWaits (n : Nat) (f : Group → Group) : (s.mapGroup n f).pageWaits = s.pageWaits := rfl
@[simp] theorem State.mapGroup_sessions (n : Nat) (f : Group → Group) : (s.mapGroup n f).sessions = s.sessions := rfl
@[simp] theorem State.mapGroup_loads (n : Nat) (f : Group → Group) : (s.mapGroup n f).loads = s.loads := rfl
@[simp] theorem State.mapGroup_writes (n : Nat) (f : Group → Group) : (s.mapGroup n f).writes = s.writes := rfl
@[simp] theorem State.mapGroup_rops (n : Nat) (f : Group → Group) : (s.mapGroup n f).rops = s.rops := rfl
@[simp] theorem State.mapGroup_nms (n : Nat) (f : Group → Group) : (s.mapGroup n f).nms = s.nms := rfl
@[simp] theorem State.mapGroup_steps (n : Nat) (f : Group → Group) : (s.mapGroup n f).steps = s.steps := rfl
@[simp] theorem State.mapGroup_engs (n : Nat) (f : Group → Group) : (s.mapGroup n f).engs = s.engs := rfl
@[simp] theorem State.mapGroup_defOps (n : Nat) (f : Group → Group) : (s.mapGroup n f).defOps = s.defOps := rfl
@[simp] theorem State.mapGroup_heldWrites (n : Nat) (f : Group → Group) : (s.mapGroup n f).heldWrites = s.heldWrites := rfl
@[simp] theorem State.mapGroup_cuu (n : Nat) (f : Group → Group) : (s.mapGroup n f).cuu = s.cuu := rfl
@[simp] theorem State.mapGroup_agenda (n : Nat) (f : Group → Group) : (s.mapGroup n f).agenda = s.agenda := rfl
@[simp] theorem State.mapGroup_choiceCtr (n : Nat) (f : Group → Group) : (s.mapGroup n f).choiceCtr = s.choiceCtr := rfl
@[simp] theorem State.mapGroup_cur (n : Nat) (f : Group → Group) : (s.mapGroup n f).cur = s.cur := rfl
@[simp] theorem State.mapGroup_focus (n : Nat) (f : Group → Group) : (s.mapGroup n f).focus = s.focus := rfl
@[simp] theorem State.mapGroup_nextId (n : Nat) (f : Group → Group) : (s.mapGroup n f).nextId = s.nextId := rfl

/-! ## State.mapCore -/

@[simp] theorem State.mapCore_tick (p n : Nat) (f : Core → Core) : (s.mapCore p n f).tick = s.tick := rfl
@[simp] theorem State.mapCore_mem (p n : Nat) (f : Core → Core) : (s.mapCore p n f).mem = s.mem := rfl
@[simp] theorem State.mapCore_seals (p n : Nat) (f : Core → Core) : (s.mapCore p n f).seals = s.seals := rfl
@[simp] theorem State.mapCore_poison (p n : Nat) (f : Core → Core) : (s.mapCore p n f).poison = s.poison := rfl
@[simp] theorem State.mapCore_eccCount (p n : Nat) (f : Core → Core) : (s.mapCore p n f).eccCount = s.eccCount := rfl
@[simp] theorem State.mapCore_hostMem (p n : Nat) (f : Core → Core) : (s.mapCore p n f).hostMem = s.hostMem := rfl
@[simp] theorem State.mapCore_leases (p n : Nat) (f : Core → Core) : (s.mapCore p n f).leases = s.leases := rfl
@[simp] theorem State.mapCore_leaseHold (p n : Nat) (f : Core → Core) : (s.mapCore p n f).leaseHold = s.leaseHold := rfl
@[simp] theorem State.mapCore_order (p n : Nat) (f : Core → Core) : (s.mapCore p n f).order = s.order := rfl
@[simp] theorem State.mapCore_guests (p n : Nat) (f : Core → Core) : (s.mapCore p n f).guests = s.guests := rfl
@[simp] theorem State.mapCore_pkgs (p n : Nat) (f : Core → Core) : (s.mapCore p n f).pkgs = s.pkgs := rfl
@[simp] theorem State.mapCore_ctxs (p n : Nat) (f : Core → Core) : (s.mapCore p n f).ctxs = s.ctxs := rfl
@[simp] theorem State.mapCore_insts (p n : Nat) (f : Core → Core) : (s.mapCore p n f).insts = s.insts := rfl
@[simp] theorem State.mapCore_groups (p n : Nat) (f : Core → Core) : (s.mapCore p n f).groups = s.groups := rfl
@[simp] theorem State.mapCore_cores (p n : Nat) (f : Core → Core) : (s.mapCore p n f).cores = upd s.cores (fun c => c.pkg == p && c.idx == n) f := rfl
@[simp] theorem State.mapCore_coreRecs (p n : Nat) (f : Core → Core) : (s.mapCore p n f).coreRecs = s.coreRecs := rfl
@[simp] theorem State.mapCore_pages (p n : Nat) (f : Core → Core) : (s.mapCore p n f).pages = s.pages := rfl
@[simp] theorem State.mapCore_pageWaits (p n : Nat) (f : Core → Core) : (s.mapCore p n f).pageWaits = s.pageWaits := rfl
@[simp] theorem State.mapCore_sessions (p n : Nat) (f : Core → Core) : (s.mapCore p n f).sessions = s.sessions := rfl
@[simp] theorem State.mapCore_loads (p n : Nat) (f : Core → Core) : (s.mapCore p n f).loads = s.loads := rfl
@[simp] theorem State.mapCore_writes (p n : Nat) (f : Core → Core) : (s.mapCore p n f).writes = s.writes := rfl
@[simp] theorem State.mapCore_rops (p n : Nat) (f : Core → Core) : (s.mapCore p n f).rops = s.rops := rfl
@[simp] theorem State.mapCore_nms (p n : Nat) (f : Core → Core) : (s.mapCore p n f).nms = s.nms := rfl
@[simp] theorem State.mapCore_steps (p n : Nat) (f : Core → Core) : (s.mapCore p n f).steps = s.steps := rfl
@[simp] theorem State.mapCore_engs (p n : Nat) (f : Core → Core) : (s.mapCore p n f).engs = s.engs := rfl
@[simp] theorem State.mapCore_defOps (p n : Nat) (f : Core → Core) : (s.mapCore p n f).defOps = s.defOps := rfl
@[simp] theorem State.mapCore_heldWrites (p n : Nat) (f : Core → Core) : (s.mapCore p n f).heldWrites = s.heldWrites := rfl
@[simp] theorem State.mapCore_cuu (p n : Nat) (f : Core → Core) : (s.mapCore p n f).cuu = s.cuu := rfl
@[simp] theorem State.mapCore_agenda (p n : Nat) (f : Core → Core) : (s.mapCore p n f).agenda = s.agenda := rfl
@[simp] theorem State.mapCore_choiceCtr (p n : Nat) (f : Core → Core) : (s.mapCore p n f).choiceCtr = s.choiceCtr := rfl
@[simp] theorem State.mapCore_cur (p n : Nat) (f : Core → Core) : (s.mapCore p n f).cur = s.cur := rfl
@[simp] theorem State.mapCore_focus (p n : Nat) (f : Core → Core) : (s.mapCore p n f).focus = s.focus := rfl
@[simp] theorem State.mapCore_nextId (p n : Nat) (f : Core → Core) : (s.mapCore p n f).nextId = s.nextId := rfl

/-! ## State.mapCores -/

@[simp] theorem State.mapCores_tick (f : Core → Core) : (s.mapCores f).tick = s.tick := rfl
@[simp] theorem State.mapCores_mem (f : Core → Core) : (s.mapCores f).mem = s.mem := rfl
@[simp] theorem State.mapCores_seals (f : Core → Core) : (s.mapCores f).seals = s.seals := rfl
@[simp] theorem State.mapCores_poison (f : Core → Core) : (s.mapCores f).poison = s.poison := rfl
@[simp] theorem State.mapCores_eccCount (f : Core → Core) : (s.mapCores f).eccCount = s.eccCount := rfl
@[simp] theorem State.mapCores_hostMem (f : Core → Core) : (s.mapCores f).hostMem = s.hostMem := rfl
@[simp] theorem State.mapCores_leases (f : Core → Core) : (s.mapCores f).leases = s.leases := rfl
@[simp] theorem State.mapCores_leaseHold (f : Core → Core) : (s.mapCores f).leaseHold = s.leaseHold := rfl
@[simp] theorem State.mapCores_order (f : Core → Core) : (s.mapCores f).order = s.order := rfl
@[simp] theorem State.mapCores_guests (f : Core → Core) : (s.mapCores f).guests = s.guests := rfl
@[simp] theorem State.mapCores_pkgs (f : Core → Core) : (s.mapCores f).pkgs = s.pkgs := rfl
@[simp] theorem State.mapCores_ctxs (f : Core → Core) : (s.mapCores f).ctxs = s.ctxs := rfl
@[simp] theorem State.mapCores_insts (f : Core → Core) : (s.mapCores f).insts = s.insts := rfl
@[simp] theorem State.mapCores_groups (f : Core → Core) : (s.mapCores f).groups = s.groups := rfl
@[simp] theorem State.mapCores_cores (f : Core → Core) : (s.mapCores f).cores = s.cores.map f := rfl
@[simp] theorem State.mapCores_coreRecs (f : Core → Core) : (s.mapCores f).coreRecs = s.coreRecs.map (fun r => { r with core := f r.core }) := rfl
@[simp] theorem State.mapCores_pages (f : Core → Core) : (s.mapCores f).pages = s.pages := rfl
@[simp] theorem State.mapCores_pageWaits (f : Core → Core) : (s.mapCores f).pageWaits = s.pageWaits := rfl
@[simp] theorem State.mapCores_sessions (f : Core → Core) : (s.mapCores f).sessions = s.sessions := rfl
@[simp] theorem State.mapCores_loads (f : Core → Core) : (s.mapCores f).loads = s.loads := rfl
@[simp] theorem State.mapCores_writes (f : Core → Core) : (s.mapCores f).writes = s.writes := rfl
@[simp] theorem State.mapCores_rops (f : Core → Core) : (s.mapCores f).rops = s.rops := rfl
@[simp] theorem State.mapCores_nms (f : Core → Core) : (s.mapCores f).nms = s.nms := rfl
@[simp] theorem State.mapCores_steps (f : Core → Core) : (s.mapCores f).steps = s.steps := rfl
@[simp] theorem State.mapCores_engs (f : Core → Core) : (s.mapCores f).engs = s.engs := rfl
@[simp] theorem State.mapCores_defOps (f : Core → Core) : (s.mapCores f).defOps = s.defOps := rfl
@[simp] theorem State.mapCores_heldWrites (f : Core → Core) : (s.mapCores f).heldWrites = s.heldWrites := rfl
@[simp] theorem State.mapCores_cuu (f : Core → Core) : (s.mapCores f).cuu = s.cuu := rfl
@[simp] theorem State.mapCores_agenda (f : Core → Core) : (s.mapCores f).agenda = s.agenda := rfl
@[simp] theorem State.mapCores_choiceCtr (f : Core → Core) : (s.mapCores f).choiceCtr = s.choiceCtr := rfl
@[simp] theorem State.mapCores_cur (f : Core → Core) : (s.mapCores f).cur = s.cur := rfl
@[simp] theorem State.mapCores_focus (f : Core → Core) : (s.mapCores f).focus = s.focus := rfl
@[simp] theorem State.mapCores_nextId (f : Core → Core) : (s.mapCores f).nextId = s.nextId := rfl

/-! ## State.mapPage -/

@[simp] theorem State.mapPage_tick (c p n : Nat) (f : Page → Page) : (s.mapPage c p n f).tick = s.tick := rfl
@[simp] theorem State.mapPage_mem (c p n : Nat) (f : Page → Page) : (s.mapPage c p n f).mem = s.mem := rfl
@[simp] theorem State.mapPage_seals (c p n : Nat) (f : Page → Page) : (s.mapPage c p n f).seals = s.seals := rfl
@[simp] theorem State.mapPage_poison (c p n : Nat) (f : Page → Page) : (s.mapPage c p n f).poison = s.poison := rfl
@[simp] theorem State.mapPage_eccCount (c p n : Nat) (f : Page → Page) : (s.mapPage c p n f).eccCount = s.eccCount := rfl
@[simp] theorem State.mapPage_hostMem (c p n : Nat) (f : Page → Page) : (s.mapPage c p n f).hostMem = s.hostMem := rfl
@[simp] theorem State.mapPage_leases (c p n : Nat) (f : Page → Page) : (s.mapPage c p n f).leases = s.leases := rfl
@[simp] theorem State.mapPage_leaseHold (c p n : Nat) (f : Page → Page) : (s.mapPage c p n f).leaseHold = s.leaseHold := rfl
@[simp] theorem State.mapPage_order (c p n : Nat) (f : Page → Page) : (s.mapPage c p n f).order = s.order := rfl
@[simp] theorem State.mapPage_guests (c p n : Nat) (f : Page → Page) : (s.mapPage c p n f).guests = s.guests := rfl
@[simp] theorem State.mapPage_pkgs (c p n : Nat) (f : Page → Page) : (s.mapPage c p n f).pkgs = s.pkgs := rfl
@[simp] theorem State.mapPage_ctxs (c p n : Nat) (f : Page → Page) : (s.mapPage c p n f).ctxs = s.ctxs := rfl
@[simp] theorem State.mapPage_insts (c p n : Nat) (f : Page → Page) : (s.mapPage c p n f).insts = s.insts := rfl
@[simp] theorem State.mapPage_groups (c p n : Nat) (f : Page → Page) : (s.mapPage c p n f).groups = s.groups := rfl
@[simp] theorem State.mapPage_cores (c p n : Nat) (f : Page → Page) : (s.mapPage c p n f).cores = s.cores := rfl
@[simp] theorem State.mapPage_coreRecs (c p n : Nat) (f : Page → Page) : (s.mapPage c p n f).coreRecs = s.coreRecs := rfl
@[simp] theorem State.mapPage_pages (c p n : Nat) (f : Page → Page) : (s.mapPage c p n f).pages = upd s.pages (fun q => q.ctx == c && q.pkg == p && q.va == n) f := rfl
@[simp] theorem State.mapPage_pageWaits (c p n : Nat) (f : Page → Page) : (s.mapPage c p n f).pageWaits = s.pageWaits := rfl
@[simp] theorem State.mapPage_sessions (c p n : Nat) (f : Page → Page) : (s.mapPage c p n f).sessions = s.sessions := rfl
@[simp] theorem State.mapPage_loads (c p n : Nat) (f : Page → Page) : (s.mapPage c p n f).loads = s.loads := rfl
@[simp] theorem State.mapPage_writes (c p n : Nat) (f : Page → Page) : (s.mapPage c p n f).writes = s.writes := rfl
@[simp] theorem State.mapPage_rops (c p n : Nat) (f : Page → Page) : (s.mapPage c p n f).rops = s.rops := rfl
@[simp] theorem State.mapPage_nms (c p n : Nat) (f : Page → Page) : (s.mapPage c p n f).nms = s.nms := rfl
@[simp] theorem State.mapPage_steps (c p n : Nat) (f : Page → Page) : (s.mapPage c p n f).steps = s.steps := rfl
@[simp] theorem State.mapPage_engs (c p n : Nat) (f : Page → Page) : (s.mapPage c p n f).engs = s.engs := rfl
@[simp] theorem State.mapPage_defOps (c p n : Nat) (f : Page → Page) : (s.mapPage c p n f).defOps = s.defOps := rfl
@[simp] theorem State.mapPage_heldWrites (c p n : Nat) (f : Page → Page) : (s.mapPage c p n f).heldWrites = s.heldWrites := rfl
@[simp] theorem State.mapPage_cuu (c p n : Nat) (f : Page → Page) : (s.mapPage c p n f).cuu = s.cuu := rfl
@[simp] theorem State.mapPage_agenda (c p n : Nat) (f : Page → Page) : (s.mapPage c p n f).agenda = s.agenda := rfl
@[simp] theorem State.mapPage_choiceCtr (c p n : Nat) (f : Page → Page) : (s.mapPage c p n f).choiceCtr = s.choiceCtr := rfl
@[simp] theorem State.mapPage_cur (c p n : Nat) (f : Page → Page) : (s.mapPage c p n f).cur = s.cur := rfl
@[simp] theorem State.mapPage_focus (c p n : Nat) (f : Page → Page) : (s.mapPage c p n f).focus = s.focus := rfl
@[simp] theorem State.mapPage_nextId (c p n : Nat) (f : Page → Page) : (s.mapPage c p n f).nextId = s.nextId := rfl

/-! ## State.mapLoad -/

@[simp] theorem State.mapLoad_tick (n : Nat) (f : Load → Load) : (s.mapLoad n f).tick = s.tick := rfl
@[simp] theorem State.mapLoad_mem (n : Nat) (f : Load → Load) : (s.mapLoad n f).mem = s.mem := rfl
@[simp] theorem State.mapLoad_seals (n : Nat) (f : Load → Load) : (s.mapLoad n f).seals = s.seals := rfl
@[simp] theorem State.mapLoad_poison (n : Nat) (f : Load → Load) : (s.mapLoad n f).poison = s.poison := rfl
@[simp] theorem State.mapLoad_eccCount (n : Nat) (f : Load → Load) : (s.mapLoad n f).eccCount = s.eccCount := rfl
@[simp] theorem State.mapLoad_hostMem (n : Nat) (f : Load → Load) : (s.mapLoad n f).hostMem = s.hostMem := rfl
@[simp] theorem State.mapLoad_leases (n : Nat) (f : Load → Load) : (s.mapLoad n f).leases = s.leases := rfl
@[simp] theorem State.mapLoad_leaseHold (n : Nat) (f : Load → Load) : (s.mapLoad n f).leaseHold = s.leaseHold := rfl
@[simp] theorem State.mapLoad_order (n : Nat) (f : Load → Load) : (s.mapLoad n f).order = s.order := rfl
@[simp] theorem State.mapLoad_guests (n : Nat) (f : Load → Load) : (s.mapLoad n f).guests = s.guests := rfl
@[simp] theorem State.mapLoad_pkgs (n : Nat) (f : Load → Load) : (s.mapLoad n f).pkgs = s.pkgs := rfl
@[simp] theorem State.mapLoad_ctxs (n : Nat) (f : Load → Load) : (s.mapLoad n f).ctxs = s.ctxs := rfl
@[simp] theorem State.mapLoad_insts (n : Nat) (f : Load → Load) : (s.mapLoad n f).insts = s.insts := rfl
@[simp] theorem State.mapLoad_groups (n : Nat) (f : Load → Load) : (s.mapLoad n f).groups = s.groups := rfl
@[simp] theorem State.mapLoad_cores (n : Nat) (f : Load → Load) : (s.mapLoad n f).cores = s.cores := rfl
@[simp] theorem State.mapLoad_coreRecs (n : Nat) (f : Load → Load) : (s.mapLoad n f).coreRecs = s.coreRecs := rfl
@[simp] theorem State.mapLoad_pages (n : Nat) (f : Load → Load) : (s.mapLoad n f).pages = s.pages := rfl
@[simp] theorem State.mapLoad_pageWaits (n : Nat) (f : Load → Load) : (s.mapLoad n f).pageWaits = s.pageWaits := rfl
@[simp] theorem State.mapLoad_sessions (n : Nat) (f : Load → Load) : (s.mapLoad n f).sessions = s.sessions := rfl
@[simp] theorem State.mapLoad_loads (n : Nat) (f : Load → Load) : (s.mapLoad n f).loads = upd s.loads (fun x => x.id == n) f := rfl
@[simp] theorem State.mapLoad_writes (n : Nat) (f : Load → Load) : (s.mapLoad n f).writes = s.writes := rfl
@[simp] theorem State.mapLoad_rops (n : Nat) (f : Load → Load) : (s.mapLoad n f).rops = s.rops := rfl
@[simp] theorem State.mapLoad_nms (n : Nat) (f : Load → Load) : (s.mapLoad n f).nms = s.nms := rfl
@[simp] theorem State.mapLoad_steps (n : Nat) (f : Load → Load) : (s.mapLoad n f).steps = s.steps := rfl
@[simp] theorem State.mapLoad_engs (n : Nat) (f : Load → Load) : (s.mapLoad n f).engs = s.engs := rfl
@[simp] theorem State.mapLoad_defOps (n : Nat) (f : Load → Load) : (s.mapLoad n f).defOps = s.defOps := rfl
@[simp] theorem State.mapLoad_heldWrites (n : Nat) (f : Load → Load) : (s.mapLoad n f).heldWrites = s.heldWrites := rfl
@[simp] theorem State.mapLoad_cuu (n : Nat) (f : Load → Load) : (s.mapLoad n f).cuu = s.cuu := rfl
@[simp] theorem State.mapLoad_agenda (n : Nat) (f : Load → Load) : (s.mapLoad n f).agenda = s.agenda := rfl
@[simp] theorem State.mapLoad_choiceCtr (n : Nat) (f : Load → Load) : (s.mapLoad n f).choiceCtr = s.choiceCtr := rfl
@[simp] theorem State.mapLoad_cur (n : Nat) (f : Load → Load) : (s.mapLoad n f).cur = s.cur := rfl
@[simp] theorem State.mapLoad_focus (n : Nat) (f : Load → Load) : (s.mapLoad n f).focus = s.focus := rfl
@[simp] theorem State.mapLoad_nextId (n : Nat) (f : Load → Load) : (s.mapLoad n f).nextId = s.nextId := rfl

/-! ## State.dropLoad -/

@[simp] theorem State.dropLoad_tick (n : Nat) : (s.dropLoad n).tick = s.tick := rfl
@[simp] theorem State.dropLoad_mem (n : Nat) : (s.dropLoad n).mem = s.mem := rfl
@[simp] theorem State.dropLoad_seals (n : Nat) : (s.dropLoad n).seals = s.seals := rfl
@[simp] theorem State.dropLoad_poison (n : Nat) : (s.dropLoad n).poison = s.poison := rfl
@[simp] theorem State.dropLoad_eccCount (n : Nat) : (s.dropLoad n).eccCount = s.eccCount := rfl
@[simp] theorem State.dropLoad_hostMem (n : Nat) : (s.dropLoad n).hostMem = s.hostMem := rfl
@[simp] theorem State.dropLoad_leases (n : Nat) : (s.dropLoad n).leases = s.leases := rfl
@[simp] theorem State.dropLoad_leaseHold (n : Nat) : (s.dropLoad n).leaseHold = s.leaseHold := rfl
@[simp] theorem State.dropLoad_order (n : Nat) : (s.dropLoad n).order = s.order := rfl
@[simp] theorem State.dropLoad_guests (n : Nat) : (s.dropLoad n).guests = s.guests := rfl
@[simp] theorem State.dropLoad_pkgs (n : Nat) : (s.dropLoad n).pkgs = s.pkgs := rfl
@[simp] theorem State.dropLoad_ctxs (n : Nat) : (s.dropLoad n).ctxs = s.ctxs := rfl
@[simp] theorem State.dropLoad_insts (n : Nat) : (s.dropLoad n).insts = s.insts := rfl
@[simp] theorem State.dropLoad_groups (n : Nat) : (s.dropLoad n).groups = s.groups := rfl
@[simp] theorem State.dropLoad_cores (n : Nat) : (s.dropLoad n).cores = s.cores := rfl
@[simp] theorem State.dropLoad_coreRecs (n : Nat) : (s.dropLoad n).coreRecs = s.coreRecs := rfl
@[simp] theorem State.dropLoad_pages (n : Nat) : (s.dropLoad n).pages = s.pages := rfl
@[simp] theorem State.dropLoad_pageWaits (n : Nat) : (s.dropLoad n).pageWaits = s.pageWaits := rfl
@[simp] theorem State.dropLoad_sessions (n : Nat) : (s.dropLoad n).sessions = s.sessions := rfl
@[simp] theorem State.dropLoad_loads (n : Nat) : (s.dropLoad n).loads = s.loads.filter (fun x => x.id != n) := rfl
@[simp] theorem State.dropLoad_writes (n : Nat) : (s.dropLoad n).writes = s.writes := rfl
@[simp] theorem State.dropLoad_rops (n : Nat) : (s.dropLoad n).rops = s.rops := rfl
@[simp] theorem State.dropLoad_nms (n : Nat) : (s.dropLoad n).nms = s.nms := rfl
@[simp] theorem State.dropLoad_steps (n : Nat) : (s.dropLoad n).steps = s.steps := rfl
@[simp] theorem State.dropLoad_engs (n : Nat) : (s.dropLoad n).engs = s.engs := rfl
@[simp] theorem State.dropLoad_defOps (n : Nat) : (s.dropLoad n).defOps = s.defOps := rfl
@[simp] theorem State.dropLoad_heldWrites (n : Nat) : (s.dropLoad n).heldWrites = s.heldWrites := rfl
@[simp] theorem State.dropLoad_cuu (n : Nat) : (s.dropLoad n).cuu = s.cuu := rfl
@[simp] theorem State.dropLoad_agenda (n : Nat) : (s.dropLoad n).agenda = s.agenda := rfl
@[simp] theorem State.dropLoad_choiceCtr (n : Nat) : (s.dropLoad n).choiceCtr = s.choiceCtr := rfl
@[simp] theorem State.dropLoad_cur (n : Nat) : (s.dropLoad n).cur = s.cur := rfl
@[simp] theorem State.dropLoad_focus (n : Nat) : (s.dropLoad n).focus = s.focus := rfl
@[simp] theorem State.dropLoad_nextId (n : Nat) : (s.dropLoad n).nextId = s.nextId := rfl

/-! ## State.mapWrite -/

@[simp] theorem State.mapWrite_tick (n : Nat) (f : Write → Write) : (s.mapWrite n f).tick = s.tick := rfl
@[simp] theorem State.mapWrite_mem (n : Nat) (f : Write → Write) : (s.mapWrite n f).mem = s.mem := rfl
@[simp] theorem State.mapWrite_seals (n : Nat) (f : Write → Write) : (s.mapWrite n f).seals = s.seals := rfl
@[simp] theorem State.mapWrite_poison (n : Nat) (f : Write → Write) : (s.mapWrite n f).poison = s.poison := rfl
@[simp] theorem State.mapWrite_eccCount (n : Nat) (f : Write → Write) : (s.mapWrite n f).eccCount = s.eccCount := rfl
@[simp] theorem State.mapWrite_hostMem (n : Nat) (f : Write → Write) : (s.mapWrite n f).hostMem = s.hostMem := rfl
@[simp] theorem State.mapWrite_leases (n : Nat) (f : Write → Write) : (s.mapWrite n f).leases = s.leases := rfl
@[simp] theorem State.mapWrite_leaseHold (n : Nat) (f : Write → Write) : (s.mapWrite n f).leaseHold = s.leaseHold := rfl
@[simp] theorem State.mapWrite_order (n : Nat) (f : Write → Write) : (s.mapWrite n f).order = s.order := rfl
@[simp] theorem State.mapWrite_guests (n : Nat) (f : Write → Write) : (s.mapWrite n f).guests = s.guests := rfl
@[simp] theorem State.mapWrite_pkgs (n : Nat) (f : Write → Write) : (s.mapWrite n f).pkgs = s.pkgs := rfl
@[simp] theorem State.mapWrite_ctxs (n : Nat) (f : Write → Write) : (s.mapWrite n f).ctxs = s.ctxs := rfl
@[simp] theorem State.mapWrite_insts (n : Nat) (f : Write → Write) : (s.mapWrite n f).insts = s.insts := rfl
@[simp] theorem State.mapWrite_groups (n : Nat) (f : Write → Write) : (s.mapWrite n f).groups = s.groups := rfl
@[simp] theorem State.mapWrite_cores (n : Nat) (f : Write → Write) : (s.mapWrite n f).cores = s.cores := rfl
@[simp] theorem State.mapWrite_coreRecs (n : Nat) (f : Write → Write) : (s.mapWrite n f).coreRecs = s.coreRecs := rfl
@[simp] theorem State.mapWrite_pages (n : Nat) (f : Write → Write) : (s.mapWrite n f).pages = s.pages := rfl
@[simp] theorem State.mapWrite_pageWaits (n : Nat) (f : Write → Write) : (s.mapWrite n f).pageWaits = s.pageWaits := rfl
@[simp] theorem State.mapWrite_sessions (n : Nat) (f : Write → Write) : (s.mapWrite n f).sessions = s.sessions := rfl
@[simp] theorem State.mapWrite_loads (n : Nat) (f : Write → Write) : (s.mapWrite n f).loads = s.loads := rfl
@[simp] theorem State.mapWrite_writes (n : Nat) (f : Write → Write) : (s.mapWrite n f).writes = upd s.writes (fun x => x.id == n) f := rfl
@[simp] theorem State.mapWrite_rops (n : Nat) (f : Write → Write) : (s.mapWrite n f).rops = s.rops := rfl
@[simp] theorem State.mapWrite_nms (n : Nat) (f : Write → Write) : (s.mapWrite n f).nms = s.nms := rfl
@[simp] theorem State.mapWrite_steps (n : Nat) (f : Write → Write) : (s.mapWrite n f).steps = s.steps := rfl
@[simp] theorem State.mapWrite_engs (n : Nat) (f : Write → Write) : (s.mapWrite n f).engs = s.engs := rfl
@[simp] theorem State.mapWrite_defOps (n : Nat) (f : Write → Write) : (s.mapWrite n f).defOps = s.defOps := rfl
@[simp] theorem State.mapWrite_heldWrites (n : Nat) (f : Write → Write) : (s.mapWrite n f).heldWrites = s.heldWrites := rfl
@[simp] theorem State.mapWrite_cuu (n : Nat) (f : Write → Write) : (s.mapWrite n f).cuu = s.cuu := rfl
@[simp] theorem State.mapWrite_agenda (n : Nat) (f : Write → Write) : (s.mapWrite n f).agenda = s.agenda := rfl
@[simp] theorem State.mapWrite_choiceCtr (n : Nat) (f : Write → Write) : (s.mapWrite n f).choiceCtr = s.choiceCtr := rfl
@[simp] theorem State.mapWrite_cur (n : Nat) (f : Write → Write) : (s.mapWrite n f).cur = s.cur := rfl
@[simp] theorem State.mapWrite_focus (n : Nat) (f : Write → Write) : (s.mapWrite n f).focus = s.focus := rfl
@[simp] theorem State.mapWrite_nextId (n : Nat) (f : Write → Write) : (s.mapWrite n f).nextId = s.nextId := rfl

/-! ## State.dropWrite -/

@[simp] theorem State.dropWrite_tick (n : Nat) : (s.dropWrite n).tick = s.tick := rfl
@[simp] theorem State.dropWrite_mem (n : Nat) : (s.dropWrite n).mem = s.mem := rfl
@[simp] theorem State.dropWrite_seals (n : Nat) : (s.dropWrite n).seals = s.seals := rfl
@[simp] theorem State.dropWrite_poison (n : Nat) : (s.dropWrite n).poison = s.poison := rfl
@[simp] theorem State.dropWrite_eccCount (n : Nat) : (s.dropWrite n).eccCount = s.eccCount := rfl
@[simp] theorem State.dropWrite_hostMem (n : Nat) : (s.dropWrite n).hostMem = s.hostMem := rfl
@[simp] theorem State.dropWrite_leases (n : Nat) : (s.dropWrite n).leases = s.leases := rfl
@[simp] theorem State.dropWrite_leaseHold (n : Nat) : (s.dropWrite n).leaseHold = s.leaseHold := rfl
@[simp] theorem State.dropWrite_order (n : Nat) : (s.dropWrite n).order = s.order := rfl
@[simp] theorem State.dropWrite_guests (n : Nat) : (s.dropWrite n).guests = s.guests := rfl
@[simp] theorem State.dropWrite_pkgs (n : Nat) : (s.dropWrite n).pkgs = s.pkgs := rfl
@[simp] theorem State.dropWrite_ctxs (n : Nat) : (s.dropWrite n).ctxs = s.ctxs := rfl
@[simp] theorem State.dropWrite_insts (n : Nat) : (s.dropWrite n).insts = s.insts := rfl
@[simp] theorem State.dropWrite_groups (n : Nat) : (s.dropWrite n).groups = s.groups := rfl
@[simp] theorem State.dropWrite_cores (n : Nat) : (s.dropWrite n).cores = s.cores := rfl
@[simp] theorem State.dropWrite_coreRecs (n : Nat) : (s.dropWrite n).coreRecs = s.coreRecs := rfl
@[simp] theorem State.dropWrite_pages (n : Nat) : (s.dropWrite n).pages = s.pages := rfl
@[simp] theorem State.dropWrite_pageWaits (n : Nat) : (s.dropWrite n).pageWaits = s.pageWaits := rfl
@[simp] theorem State.dropWrite_sessions (n : Nat) : (s.dropWrite n).sessions = s.sessions := rfl
@[simp] theorem State.dropWrite_loads (n : Nat) : (s.dropWrite n).loads = s.loads := rfl
@[simp] theorem State.dropWrite_writes (n : Nat) : (s.dropWrite n).writes = s.writes.filter (fun x => x.id != n) := rfl
@[simp] theorem State.dropWrite_rops (n : Nat) : (s.dropWrite n).rops = s.rops := rfl
@[simp] theorem State.dropWrite_nms (n : Nat) : (s.dropWrite n).nms = s.nms := rfl
@[simp] theorem State.dropWrite_steps (n : Nat) : (s.dropWrite n).steps = s.steps := rfl
@[simp] theorem State.dropWrite_engs (n : Nat) : (s.dropWrite n).engs = s.engs := rfl
@[simp] theorem State.dropWrite_defOps (n : Nat) : (s.dropWrite n).defOps = s.defOps := rfl
@[simp] theorem State.dropWrite_heldWrites (n : Nat) : (s.dropWrite n).heldWrites = s.heldWrites := rfl
@[simp] theorem State.dropWrite_cuu (n : Nat) : (s.dropWrite n).cuu = s.cuu := rfl
@[simp] theorem State.dropWrite_agenda (n : Nat) : (s.dropWrite n).agenda = s.agenda := rfl
@[simp] theorem State.dropWrite_choiceCtr (n : Nat) : (s.dropWrite n).choiceCtr = s.choiceCtr := rfl
@[simp] theorem State.dropWrite_cur (n : Nat) : (s.dropWrite n).cur = s.cur := rfl
@[simp] theorem State.dropWrite_focus (n : Nat) : (s.dropWrite n).focus = s.focus := rfl
@[simp] theorem State.dropWrite_nextId (n : Nat) : (s.dropWrite n).nextId = s.nextId := rfl

/-! ## State.mapRop -/

@[simp] theorem State.mapRop_tick (n : Nat) (f : Rop → Rop) : (s.mapRop n f).tick = s.tick := rfl
@[simp] theorem State.mapRop_mem (n : Nat) (f : Rop → Rop) : (s.mapRop n f).mem = s.mem := rfl
@[simp] theorem State.mapRop_seals (n : Nat) (f : Rop → Rop) : (s.mapRop n f).seals = s.seals := rfl
@[simp] theorem State.mapRop_poison (n : Nat) (f : Rop → Rop) : (s.mapRop n f).poison = s.poison := rfl
@[simp] theorem State.mapRop_eccCount (n : Nat) (f : Rop → Rop) : (s.mapRop n f).eccCount = s.eccCount := rfl
@[simp] theorem State.mapRop_hostMem (n : Nat) (f : Rop → Rop) : (s.mapRop n f).hostMem = s.hostMem := rfl
@[simp] theorem State.mapRop_leases (n : Nat) (f : Rop → Rop) : (s.mapRop n f).leases = s.leases := rfl
@[simp] theorem State.mapRop_leaseHold (n : Nat) (f : Rop → Rop) : (s.mapRop n f).leaseHold = s.leaseHold := rfl
@[simp] theorem State.mapRop_order (n : Nat) (f : Rop → Rop) : (s.mapRop n f).order = s.order := rfl
@[simp] theorem State.mapRop_guests (n : Nat) (f : Rop → Rop) : (s.mapRop n f).guests = s.guests := rfl
@[simp] theorem State.mapRop_pkgs (n : Nat) (f : Rop → Rop) : (s.mapRop n f).pkgs = s.pkgs := rfl
@[simp] theorem State.mapRop_ctxs (n : Nat) (f : Rop → Rop) : (s.mapRop n f).ctxs = s.ctxs := rfl
@[simp] theorem State.mapRop_insts (n : Nat) (f : Rop → Rop) : (s.mapRop n f).insts = s.insts := rfl
@[simp] theorem State.mapRop_groups (n : Nat) (f : Rop → Rop) : (s.mapRop n f).groups = s.groups := rfl
@[simp] theorem State.mapRop_cores (n : Nat) (f : Rop → Rop) : (s.mapRop n f).cores = s.cores := rfl
@[simp] theorem State.mapRop_coreRecs (n : Nat) (f : Rop → Rop) : (s.mapRop n f).coreRecs = s.coreRecs := rfl
@[simp] theorem State.mapRop_pages (n : Nat) (f : Rop → Rop) : (s.mapRop n f).pages = s.pages := rfl
@[simp] theorem State.mapRop_pageWaits (n : Nat) (f : Rop → Rop) : (s.mapRop n f).pageWaits = s.pageWaits := rfl
@[simp] theorem State.mapRop_sessions (n : Nat) (f : Rop → Rop) : (s.mapRop n f).sessions = s.sessions := rfl
@[simp] theorem State.mapRop_loads (n : Nat) (f : Rop → Rop) : (s.mapRop n f).loads = s.loads := rfl
@[simp] theorem State.mapRop_writes (n : Nat) (f : Rop → Rop) : (s.mapRop n f).writes = s.writes := rfl
@[simp] theorem State.mapRop_rops (n : Nat) (f : Rop → Rop) : (s.mapRop n f).rops = upd s.rops (fun x => x.id == n) f := rfl
@[simp] theorem State.mapRop_nms (n : Nat) (f : Rop → Rop) : (s.mapRop n f).nms = s.nms := rfl
@[simp] theorem State.mapRop_steps (n : Nat) (f : Rop → Rop) : (s.mapRop n f).steps = s.steps := rfl
@[simp] theorem State.mapRop_engs (n : Nat) (f : Rop → Rop) : (s.mapRop n f).engs = s.engs := rfl
@[simp] theorem State.mapRop_defOps (n : Nat) (f : Rop → Rop) : (s.mapRop n f).defOps = s.defOps := rfl
@[simp] theorem State.mapRop_heldWrites (n : Nat) (f : Rop → Rop) : (s.mapRop n f).heldWrites = s.heldWrites := rfl
@[simp] theorem State.mapRop_cuu (n : Nat) (f : Rop → Rop) : (s.mapRop n f).cuu = s.cuu := rfl
@[simp] theorem State.mapRop_agenda (n : Nat) (f : Rop → Rop) : (s.mapRop n f).agenda = s.agenda := rfl
@[simp] theorem State.mapRop_choiceCtr (n : Nat) (f : Rop → Rop) : (s.mapRop n f).choiceCtr = s.choiceCtr := rfl
@[simp] theorem State.mapRop_cur (n : Nat) (f : Rop → Rop) : (s.mapRop n f).cur = s.cur := rfl
@[simp] theorem State.mapRop_focus (n : Nat) (f : Rop → Rop) : (s.mapRop n f).focus = s.focus := rfl
@[simp] theorem State.mapRop_nextId (n : Nat) (f : Rop → Rop) : (s.mapRop n f).nextId = s.nextId := rfl

/-! ## State.dropRop -/

@[simp] theorem State.dropRop_tick (n : Nat) : (s.dropRop n).tick = s.tick := rfl
@[simp] theorem State.dropRop_mem (n : Nat) : (s.dropRop n).mem = s.mem := rfl
@[simp] theorem State.dropRop_seals (n : Nat) : (s.dropRop n).seals = s.seals := rfl
@[simp] theorem State.dropRop_poison (n : Nat) : (s.dropRop n).poison = s.poison := rfl
@[simp] theorem State.dropRop_eccCount (n : Nat) : (s.dropRop n).eccCount = s.eccCount := rfl
@[simp] theorem State.dropRop_hostMem (n : Nat) : (s.dropRop n).hostMem = s.hostMem := rfl
@[simp] theorem State.dropRop_leases (n : Nat) : (s.dropRop n).leases = s.leases := rfl
@[simp] theorem State.dropRop_leaseHold (n : Nat) : (s.dropRop n).leaseHold = s.leaseHold := rfl
@[simp] theorem State.dropRop_order (n : Nat) : (s.dropRop n).order = s.order := rfl
@[simp] theorem State.dropRop_guests (n : Nat) : (s.dropRop n).guests = s.guests := rfl
@[simp] theorem State.dropRop_pkgs (n : Nat) : (s.dropRop n).pkgs = s.pkgs := rfl
@[simp] theorem State.dropRop_ctxs (n : Nat) : (s.dropRop n).ctxs = s.ctxs := rfl
@[simp] theorem State.dropRop_insts (n : Nat) : (s.dropRop n).insts = s.insts := rfl
@[simp] theorem State.dropRop_groups (n : Nat) : (s.dropRop n).groups = s.groups := rfl
@[simp] theorem State.dropRop_cores (n : Nat) : (s.dropRop n).cores = s.cores := rfl
@[simp] theorem State.dropRop_coreRecs (n : Nat) : (s.dropRop n).coreRecs = s.coreRecs := rfl
@[simp] theorem State.dropRop_pages (n : Nat) : (s.dropRop n).pages = s.pages := rfl
@[simp] theorem State.dropRop_pageWaits (n : Nat) : (s.dropRop n).pageWaits = s.pageWaits := rfl
@[simp] theorem State.dropRop_sessions (n : Nat) : (s.dropRop n).sessions = s.sessions := rfl
@[simp] theorem State.dropRop_loads (n : Nat) : (s.dropRop n).loads = s.loads := rfl
@[simp] theorem State.dropRop_writes (n : Nat) : (s.dropRop n).writes = s.writes := rfl
@[simp] theorem State.dropRop_rops (n : Nat) : (s.dropRop n).rops = s.rops.filter (fun x => x.id != n) := rfl
@[simp] theorem State.dropRop_nms (n : Nat) : (s.dropRop n).nms = s.nms := rfl
@[simp] theorem State.dropRop_steps (n : Nat) : (s.dropRop n).steps = s.steps := rfl
@[simp] theorem State.dropRop_engs (n : Nat) : (s.dropRop n).engs = s.engs := rfl
@[simp] theorem State.dropRop_defOps (n : Nat) : (s.dropRop n).defOps = s.defOps := rfl
@[simp] theorem State.dropRop_heldWrites (n : Nat) : (s.dropRop n).heldWrites = s.heldWrites := rfl
@[simp] theorem State.dropRop_cuu (n : Nat) : (s.dropRop n).cuu = s.cuu := rfl
@[simp] theorem State.dropRop_agenda (n : Nat) : (s.dropRop n).agenda = s.agenda := rfl
@[simp] theorem State.dropRop_choiceCtr (n : Nat) : (s.dropRop n).choiceCtr = s.choiceCtr := rfl
@[simp] theorem State.dropRop_cur (n : Nat) : (s.dropRop n).cur = s.cur := rfl
@[simp] theorem State.dropRop_focus (n : Nat) : (s.dropRop n).focus = s.focus := rfl
@[simp] theorem State.dropRop_nextId (n : Nat) : (s.dropRop n).nextId = s.nextId := rfl

/-! ## State.dropNm -/

@[simp] theorem State.dropNm_tick (n : Nat) : (s.dropNm n).tick = s.tick := rfl
@[simp] theorem State.dropNm_mem (n : Nat) : (s.dropNm n).mem = s.mem := rfl
@[simp] theorem State.dropNm_seals (n : Nat) : (s.dropNm n).seals = s.seals := rfl
@[simp] theorem State.dropNm_poison (n : Nat) : (s.dropNm n).poison = s.poison := rfl
@[simp] theorem State.dropNm_eccCount (n : Nat) : (s.dropNm n).eccCount = s.eccCount := rfl
@[simp] theorem State.dropNm_hostMem (n : Nat) : (s.dropNm n).hostMem = s.hostMem := rfl
@[simp] theorem State.dropNm_leases (n : Nat) : (s.dropNm n).leases = s.leases := rfl
@[simp] theorem State.dropNm_leaseHold (n : Nat) : (s.dropNm n).leaseHold = s.leaseHold := rfl
@[simp] theorem State.dropNm_order (n : Nat) : (s.dropNm n).order = s.order := rfl
@[simp] theorem State.dropNm_guests (n : Nat) : (s.dropNm n).guests = s.guests := rfl
@[simp] theorem State.dropNm_pkgs (n : Nat) : (s.dropNm n).pkgs = s.pkgs := rfl
@[simp] theorem State.dropNm_ctxs (n : Nat) : (s.dropNm n).ctxs = s.ctxs := rfl
@[simp] theorem State.dropNm_insts (n : Nat) : (s.dropNm n).insts = s.insts := rfl
@[simp] theorem State.dropNm_groups (n : Nat) : (s.dropNm n).groups = s.groups := rfl
@[simp] theorem State.dropNm_cores (n : Nat) : (s.dropNm n).cores = s.cores := rfl
@[simp] theorem State.dropNm_coreRecs (n : Nat) : (s.dropNm n).coreRecs = s.coreRecs := rfl
@[simp] theorem State.dropNm_pages (n : Nat) : (s.dropNm n).pages = s.pages := rfl
@[simp] theorem State.dropNm_pageWaits (n : Nat) : (s.dropNm n).pageWaits = s.pageWaits := rfl
@[simp] theorem State.dropNm_sessions (n : Nat) : (s.dropNm n).sessions = s.sessions := rfl
@[simp] theorem State.dropNm_loads (n : Nat) : (s.dropNm n).loads = s.loads := rfl
@[simp] theorem State.dropNm_writes (n : Nat) : (s.dropNm n).writes = s.writes := rfl
@[simp] theorem State.dropNm_rops (n : Nat) : (s.dropNm n).rops = s.rops := rfl
@[simp] theorem State.dropNm_nms (n : Nat) : (s.dropNm n).nms = s.nms.filter (fun x => x.id != n) := rfl
@[simp] theorem State.dropNm_steps (n : Nat) : (s.dropNm n).steps = s.steps := rfl
@[simp] theorem State.dropNm_engs (n : Nat) : (s.dropNm n).engs = s.engs := rfl
@[simp] theorem State.dropNm_defOps (n : Nat) : (s.dropNm n).defOps = s.defOps := rfl
@[simp] theorem State.dropNm_heldWrites (n : Nat) : (s.dropNm n).heldWrites = s.heldWrites := rfl
@[simp] theorem State.dropNm_cuu (n : Nat) : (s.dropNm n).cuu = s.cuu := rfl
@[simp] theorem State.dropNm_agenda (n : Nat) : (s.dropNm n).agenda = s.agenda := rfl
@[simp] theorem State.dropNm_choiceCtr (n : Nat) : (s.dropNm n).choiceCtr = s.choiceCtr := rfl
@[simp] theorem State.dropNm_cur (n : Nat) : (s.dropNm n).cur = s.cur := rfl
@[simp] theorem State.dropNm_focus (n : Nat) : (s.dropNm n).focus = s.focus := rfl
@[simp] theorem State.dropNm_nextId (n : Nat) : (s.dropNm n).nextId = s.nextId := rfl

/-! ## State.mapStep -/

@[simp] theorem State.mapStep_tick (n : Nat) (f : Step → Step) : (s.mapStep n f).tick = s.tick := rfl
@[simp] theorem State.mapStep_mem (n : Nat) (f : Step → Step) : (s.mapStep n f).mem = s.mem := rfl
@[simp] theorem State.mapStep_seals (n : Nat) (f : Step → Step) : (s.mapStep n f).seals = s.seals := rfl
@[simp] theorem State.mapStep_poison (n : Nat) (f : Step → Step) : (s.mapStep n f).poison = s.poison := rfl
@[simp] theorem State.mapStep_eccCount (n : Nat) (f : Step → Step) : (s.mapStep n f).eccCount = s.eccCount := rfl
@[simp] theorem State.mapStep_hostMem (n : Nat) (f : Step → Step) : (s.mapStep n f).hostMem = s.hostMem := rfl
@[simp] theorem State.mapStep_leases (n : Nat) (f : Step → Step) : (s.mapStep n f).leases = s.leases := rfl
@[simp] theorem State.mapStep_leaseHold (n : Nat) (f : Step → Step) : (s.mapStep n f).leaseHold = s.leaseHold := rfl
@[simp] theorem State.mapStep_order (n : Nat) (f : Step → Step) : (s.mapStep n f).order = s.order := rfl
@[simp] theorem State.mapStep_guests (n : Nat) (f : Step → Step) : (s.mapStep n f).guests = s.guests := rfl
@[simp] theorem State.mapStep_pkgs (n : Nat) (f : Step → Step) : (s.mapStep n f).pkgs = s.pkgs := rfl
@[simp] theorem State.mapStep_ctxs (n : Nat) (f : Step → Step) : (s.mapStep n f).ctxs = s.ctxs := rfl
@[simp] theorem State.mapStep_insts (n : Nat) (f : Step → Step) : (s.mapStep n f).insts = s.insts := rfl
@[simp] theorem State.mapStep_groups (n : Nat) (f : Step → Step) : (s.mapStep n f).groups = s.groups := rfl
@[simp] theorem State.mapStep_cores (n : Nat) (f : Step → Step) : (s.mapStep n f).cores = s.cores := rfl
@[simp] theorem State.mapStep_coreRecs (n : Nat) (f : Step → Step) : (s.mapStep n f).coreRecs = s.coreRecs := rfl
@[simp] theorem State.mapStep_pages (n : Nat) (f : Step → Step) : (s.mapStep n f).pages = s.pages := rfl
@[simp] theorem State.mapStep_pageWaits (n : Nat) (f : Step → Step) : (s.mapStep n f).pageWaits = s.pageWaits := rfl
@[simp] theorem State.mapStep_sessions (n : Nat) (f : Step → Step) : (s.mapStep n f).sessions = s.sessions := rfl
@[simp] theorem State.mapStep_loads (n : Nat) (f : Step → Step) : (s.mapStep n f).loads = s.loads := rfl
@[simp] theorem State.mapStep_writes (n : Nat) (f : Step → Step) : (s.mapStep n f).writes = s.writes := rfl
@[simp] theorem State.mapStep_rops (n : Nat) (f : Step → Step) : (s.mapStep n f).rops = s.rops := rfl
@[simp] theorem State.mapStep_nms (n : Nat) (f : Step → Step) : (s.mapStep n f).nms = s.nms := rfl
@[simp] theorem State.mapStep_steps (n : Nat) (f : Step → Step) : (s.mapStep n f).steps = upd s.steps (fun x => x.id == n) f := rfl
@[simp] theorem State.mapStep_engs (n : Nat) (f : Step → Step) : (s.mapStep n f).engs = s.engs := rfl
@[simp] theorem State.mapStep_defOps (n : Nat) (f : Step → Step) : (s.mapStep n f).defOps = s.defOps := rfl
@[simp] theorem State.mapStep_heldWrites (n : Nat) (f : Step → Step) : (s.mapStep n f).heldWrites = s.heldWrites := rfl
@[simp] theorem State.mapStep_cuu (n : Nat) (f : Step → Step) : (s.mapStep n f).cuu = s.cuu := rfl
@[simp] theorem State.mapStep_agenda (n : Nat) (f : Step → Step) : (s.mapStep n f).agenda = s.agenda := rfl
@[simp] theorem State.mapStep_choiceCtr (n : Nat) (f : Step → Step) : (s.mapStep n f).choiceCtr = s.choiceCtr := rfl
@[simp] theorem State.mapStep_cur (n : Nat) (f : Step → Step) : (s.mapStep n f).cur = s.cur := rfl
@[simp] theorem State.mapStep_focus (n : Nat) (f : Step → Step) : (s.mapStep n f).focus = s.focus := rfl
@[simp] theorem State.mapStep_nextId (n : Nat) (f : Step → Step) : (s.mapStep n f).nextId = s.nextId := rfl

/-! ## State.dropStep -/

@[simp] theorem State.dropStep_tick (n : Nat) : (s.dropStep n).tick = s.tick := rfl
@[simp] theorem State.dropStep_mem (n : Nat) : (s.dropStep n).mem = s.mem := rfl
@[simp] theorem State.dropStep_seals (n : Nat) : (s.dropStep n).seals = s.seals := rfl
@[simp] theorem State.dropStep_poison (n : Nat) : (s.dropStep n).poison = s.poison := rfl
@[simp] theorem State.dropStep_eccCount (n : Nat) : (s.dropStep n).eccCount = s.eccCount := rfl
@[simp] theorem State.dropStep_hostMem (n : Nat) : (s.dropStep n).hostMem = s.hostMem := rfl
@[simp] theorem State.dropStep_leases (n : Nat) : (s.dropStep n).leases = s.leases := rfl
@[simp] theorem State.dropStep_leaseHold (n : Nat) : (s.dropStep n).leaseHold = s.leaseHold := rfl
@[simp] theorem State.dropStep_order (n : Nat) : (s.dropStep n).order = s.order := rfl
@[simp] theorem State.dropStep_guests (n : Nat) : (s.dropStep n).guests = s.guests := rfl
@[simp] theorem State.dropStep_pkgs (n : Nat) : (s.dropStep n).pkgs = s.pkgs := rfl
@[simp] theorem State.dropStep_ctxs (n : Nat) : (s.dropStep n).ctxs = s.ctxs := rfl
@[simp] theorem State.dropStep_insts (n : Nat) : (s.dropStep n).insts = s.insts := rfl
@[simp] theorem State.dropStep_groups (n : Nat) : (s.dropStep n).groups = s.groups := rfl
@[simp] theorem State.dropStep_cores (n : Nat) : (s.dropStep n).cores = s.cores := rfl
@[simp] theorem State.dropStep_coreRecs (n : Nat) : (s.dropStep n).coreRecs = s.coreRecs := rfl
@[simp] theorem State.dropStep_pages (n : Nat) : (s.dropStep n).pages = s.pages := rfl
@[simp] theorem State.dropStep_pageWaits (n : Nat) : (s.dropStep n).pageWaits = s.pageWaits := rfl
@[simp] theorem State.dropStep_sessions (n : Nat) : (s.dropStep n).sessions = s.sessions := rfl
@[simp] theorem State.dropStep_loads (n : Nat) : (s.dropStep n).loads = s.loads := rfl
@[simp] theorem State.dropStep_writes (n : Nat) : (s.dropStep n).writes = s.writes := rfl
@[simp] theorem State.dropStep_rops (n : Nat) : (s.dropStep n).rops = s.rops := rfl
@[simp] theorem State.dropStep_nms (n : Nat) : (s.dropStep n).nms = s.nms := rfl
@[simp] theorem State.dropStep_steps (n : Nat) : (s.dropStep n).steps = s.steps.filter (fun x => x.id != n) := rfl
@[simp] theorem State.dropStep_engs (n : Nat) : (s.dropStep n).engs = s.engs := rfl
@[simp] theorem State.dropStep_defOps (n : Nat) : (s.dropStep n).defOps = s.defOps := rfl
@[simp] theorem State.dropStep_heldWrites (n : Nat) : (s.dropStep n).heldWrites = s.heldWrites := rfl
@[simp] theorem State.dropStep_cuu (n : Nat) : (s.dropStep n).cuu = s.cuu := rfl
@[simp] theorem State.dropStep_agenda (n : Nat) : (s.dropStep n).agenda = s.agenda := rfl
@[simp] theorem State.dropStep_choiceCtr (n : Nat) : (s.dropStep n).choiceCtr = s.choiceCtr := rfl
@[simp] theorem State.dropStep_cur (n : Nat) : (s.dropStep n).cur = s.cur := rfl
@[simp] theorem State.dropStep_focus (n : Nat) : (s.dropStep n).focus = s.focus := rfl
@[simp] theorem State.dropStep_nextId (n : Nat) : (s.dropStep n).nextId = s.nextId := rfl

/-! ## State.mapEng -/

@[simp] theorem State.mapEng_tick (n : Nat) (f : Eng → Eng) : (s.mapEng n f).tick = s.tick := rfl
@[simp] theorem State.mapEng_mem (n : Nat) (f : Eng → Eng) : (s.mapEng n f).mem = s.mem := rfl
@[simp] theorem State.mapEng_seals (n : Nat) (f : Eng → Eng) : (s.mapEng n f).seals = s.seals := rfl
@[simp] theorem State.mapEng_poison (n : Nat) (f : Eng → Eng) : (s.mapEng n f).poison = s.poison := rfl
@[simp] theorem State.mapEng_eccCount (n : Nat) (f : Eng → Eng) : (s.mapEng n f).eccCount = s.eccCount := rfl
@[simp] theorem State.mapEng_hostMem (n : Nat) (f : Eng → Eng) : (s.mapEng n f).hostMem = s.hostMem := rfl
@[simp] theorem State.mapEng_leases (n : Nat) (f : Eng → Eng) : (s.mapEng n f).leases = s.leases := rfl
@[simp] theorem State.mapEng_leaseHold (n : Nat) (f : Eng → Eng) : (s.mapEng n f).leaseHold = s.leaseHold := rfl
@[simp] theorem State.mapEng_order (n : Nat) (f : Eng → Eng) : (s.mapEng n f).order = s.order := rfl
@[simp] theorem State.mapEng_guests (n : Nat) (f : Eng → Eng) : (s.mapEng n f).guests = s.guests := rfl
@[simp] theorem State.mapEng_pkgs (n : Nat) (f : Eng → Eng) : (s.mapEng n f).pkgs = s.pkgs := rfl
@[simp] theorem State.mapEng_ctxs (n : Nat) (f : Eng → Eng) : (s.mapEng n f).ctxs = s.ctxs := rfl
@[simp] theorem State.mapEng_insts (n : Nat) (f : Eng → Eng) : (s.mapEng n f).insts = s.insts := rfl
@[simp] theorem State.mapEng_groups (n : Nat) (f : Eng → Eng) : (s.mapEng n f).groups = s.groups := rfl
@[simp] theorem State.mapEng_cores (n : Nat) (f : Eng → Eng) : (s.mapEng n f).cores = s.cores := rfl
@[simp] theorem State.mapEng_coreRecs (n : Nat) (f : Eng → Eng) : (s.mapEng n f).coreRecs = s.coreRecs := rfl
@[simp] theorem State.mapEng_pages (n : Nat) (f : Eng → Eng) : (s.mapEng n f).pages = s.pages := rfl
@[simp] theorem State.mapEng_pageWaits (n : Nat) (f : Eng → Eng) : (s.mapEng n f).pageWaits = s.pageWaits := rfl
@[simp] theorem State.mapEng_sessions (n : Nat) (f : Eng → Eng) : (s.mapEng n f).sessions = s.sessions := rfl
@[simp] theorem State.mapEng_loads (n : Nat) (f : Eng → Eng) : (s.mapEng n f).loads = s.loads := rfl
@[simp] theorem State.mapEng_writes (n : Nat) (f : Eng → Eng) : (s.mapEng n f).writes = s.writes := rfl
@[simp] theorem State.mapEng_rops (n : Nat) (f : Eng → Eng) : (s.mapEng n f).rops = s.rops := rfl
@[simp] theorem State.mapEng_nms (n : Nat) (f : Eng → Eng) : (s.mapEng n f).nms = s.nms := rfl
@[simp] theorem State.mapEng_steps (n : Nat) (f : Eng → Eng) : (s.mapEng n f).steps = s.steps := rfl
@[simp] theorem State.mapEng_engs (n : Nat) (f : Eng → Eng) : (s.mapEng n f).engs = upd s.engs (fun x => x.id == n) f := rfl
@[simp] theorem State.mapEng_defOps (n : Nat) (f : Eng → Eng) : (s.mapEng n f).defOps = s.defOps := rfl
@[simp] theorem State.mapEng_heldWrites (n : Nat) (f : Eng → Eng) : (s.mapEng n f).heldWrites = s.heldWrites := rfl
@[simp] theorem State.mapEng_cuu (n : Nat) (f : Eng → Eng) : (s.mapEng n f).cuu = s.cuu := rfl
@[simp] theorem State.mapEng_agenda (n : Nat) (f : Eng → Eng) : (s.mapEng n f).agenda = s.agenda := rfl
@[simp] theorem State.mapEng_choiceCtr (n : Nat) (f : Eng → Eng) : (s.mapEng n f).choiceCtr = s.choiceCtr := rfl
@[simp] theorem State.mapEng_cur (n : Nat) (f : Eng → Eng) : (s.mapEng n f).cur = s.cur := rfl
@[simp] theorem State.mapEng_focus (n : Nat) (f : Eng → Eng) : (s.mapEng n f).focus = s.focus := rfl
@[simp] theorem State.mapEng_nextId (n : Nat) (f : Eng → Eng) : (s.mapEng n f).nextId = s.nextId := rfl

/-! ## State.dropEng -/

@[simp] theorem State.dropEng_tick (n : Nat) : (s.dropEng n).tick = s.tick := rfl
@[simp] theorem State.dropEng_mem (n : Nat) : (s.dropEng n).mem = s.mem := rfl
@[simp] theorem State.dropEng_seals (n : Nat) : (s.dropEng n).seals = s.seals := rfl
@[simp] theorem State.dropEng_poison (n : Nat) : (s.dropEng n).poison = s.poison := rfl
@[simp] theorem State.dropEng_eccCount (n : Nat) : (s.dropEng n).eccCount = s.eccCount := rfl
@[simp] theorem State.dropEng_hostMem (n : Nat) : (s.dropEng n).hostMem = s.hostMem := rfl
@[simp] theorem State.dropEng_leases (n : Nat) : (s.dropEng n).leases = s.leases := rfl
@[simp] theorem State.dropEng_leaseHold (n : Nat) : (s.dropEng n).leaseHold = s.leaseHold := rfl
@[simp] theorem State.dropEng_order (n : Nat) : (s.dropEng n).order = s.order := rfl
@[simp] theorem State.dropEng_guests (n : Nat) : (s.dropEng n).guests = s.guests := rfl
@[simp] theorem State.dropEng_pkgs (n : Nat) : (s.dropEng n).pkgs = s.pkgs := rfl
@[simp] theorem State.dropEng_ctxs (n : Nat) : (s.dropEng n).ctxs = s.ctxs := rfl
@[simp] theorem State.dropEng_insts (n : Nat) : (s.dropEng n).insts = s.insts := rfl
@[simp] theorem State.dropEng_groups (n : Nat) : (s.dropEng n).groups = s.groups := rfl
@[simp] theorem State.dropEng_cores (n : Nat) : (s.dropEng n).cores = s.cores := rfl
@[simp] theorem State.dropEng_coreRecs (n : Nat) : (s.dropEng n).coreRecs = s.coreRecs := rfl
@[simp] theorem State.dropEng_pages (n : Nat) : (s.dropEng n).pages = s.pages := rfl
@[simp] theorem State.dropEng_pageWaits (n : Nat) : (s.dropEng n).pageWaits = s.pageWaits := rfl
@[simp] theorem State.dropEng_sessions (n : Nat) : (s.dropEng n).sessions = s.sessions := rfl
@[simp] theorem State.dropEng_loads (n : Nat) : (s.dropEng n).loads = s.loads := rfl
@[simp] theorem State.dropEng_writes (n : Nat) : (s.dropEng n).writes = s.writes := rfl
@[simp] theorem State.dropEng_rops (n : Nat) : (s.dropEng n).rops = s.rops := rfl
@[simp] theorem State.dropEng_nms (n : Nat) : (s.dropEng n).nms = s.nms := rfl
@[simp] theorem State.dropEng_steps (n : Nat) : (s.dropEng n).steps = s.steps := rfl
@[simp] theorem State.dropEng_engs (n : Nat) : (s.dropEng n).engs = s.engs.filter (fun x => x.id != n) := rfl
@[simp] theorem State.dropEng_defOps (n : Nat) : (s.dropEng n).defOps = s.defOps := rfl
@[simp] theorem State.dropEng_heldWrites (n : Nat) : (s.dropEng n).heldWrites = s.heldWrites := rfl
@[simp] theorem State.dropEng_cuu (n : Nat) : (s.dropEng n).cuu = s.cuu := rfl
@[simp] theorem State.dropEng_agenda (n : Nat) : (s.dropEng n).agenda = s.agenda := rfl
@[simp] theorem State.dropEng_choiceCtr (n : Nat) : (s.dropEng n).choiceCtr = s.choiceCtr := rfl
@[simp] theorem State.dropEng_cur (n : Nat) : (s.dropEng n).cur = s.cur := rfl
@[simp] theorem State.dropEng_focus (n : Nat) : (s.dropEng n).focus = s.focus := rfl
@[simp] theorem State.dropEng_nextId (n : Nat) : (s.dropEng n).nextId = s.nextId := rfl

/-! ## State.mapDefOp -/

@[simp] theorem State.mapDefOp_tick (n : Nat) (f : DefOp → DefOp) : (s.mapDefOp n f).tick = s.tick := rfl
@[simp] theorem State.mapDefOp_mem (n : Nat) (f : DefOp → DefOp) : (s.mapDefOp n f).mem = s.mem := rfl
@[simp] theorem State.mapDefOp_seals (n : Nat) (f : DefOp → DefOp) : (s.mapDefOp n f).seals = s.seals := rfl
@[simp] theorem State.mapDefOp_poison (n : Nat) (f : DefOp → DefOp) : (s.mapDefOp n f).poison = s.poison := rfl
@[simp] theorem State.mapDefOp_eccCount (n : Nat) (f : DefOp → DefOp) : (s.mapDefOp n f).eccCount = s.eccCount := rfl
@[simp] theorem State.mapDefOp_hostMem (n : Nat) (f : DefOp → DefOp) : (s.mapDefOp n f).hostMem = s.hostMem := rfl
@[simp] theorem State.mapDefOp_leases (n : Nat) (f : DefOp → DefOp) : (s.mapDefOp n f).leases = s.leases := rfl
@[simp] theorem State.mapDefOp_leaseHold (n : Nat) (f : DefOp → DefOp) : (s.mapDefOp n f).leaseHold = s.leaseHold := rfl
@[simp] theorem State.mapDefOp_order (n : Nat) (f : DefOp → DefOp) : (s.mapDefOp n f).order = s.order := rfl
@[simp] theorem State.mapDefOp_guests (n : Nat) (f : DefOp → DefOp) : (s.mapDefOp n f).guests = s.guests := rfl
@[simp] theorem State.mapDefOp_pkgs (n : Nat) (f : DefOp → DefOp) : (s.mapDefOp n f).pkgs = s.pkgs := rfl
@[simp] theorem State.mapDefOp_ctxs (n : Nat) (f : DefOp → DefOp) : (s.mapDefOp n f).ctxs = s.ctxs := rfl
@[simp] theorem State.mapDefOp_insts (n : Nat) (f : DefOp → DefOp) : (s.mapDefOp n f).insts = s.insts := rfl
@[simp] theorem State.mapDefOp_groups (n : Nat) (f : DefOp → DefOp) : (s.mapDefOp n f).groups = s.groups := rfl
@[simp] theorem State.mapDefOp_cores (n : Nat) (f : DefOp → DefOp) : (s.mapDefOp n f).cores = s.cores := rfl
@[simp] theorem State.mapDefOp_coreRecs (n : Nat) (f : DefOp → DefOp) : (s.mapDefOp n f).coreRecs = s.coreRecs := rfl
@[simp] theorem State.mapDefOp_pages (n : Nat) (f : DefOp → DefOp) : (s.mapDefOp n f).pages = s.pages := rfl
@[simp] theorem State.mapDefOp_pageWaits (n : Nat) (f : DefOp → DefOp) : (s.mapDefOp n f).pageWaits = s.pageWaits := rfl
@[simp] theorem State.mapDefOp_sessions (n : Nat) (f : DefOp → DefOp) : (s.mapDefOp n f).sessions = s.sessions := rfl
@[simp] theorem State.mapDefOp_loads (n : Nat) (f : DefOp → DefOp) : (s.mapDefOp n f).loads = s.loads := rfl
@[simp] theorem State.mapDefOp_writes (n : Nat) (f : DefOp → DefOp) : (s.mapDefOp n f).writes = s.writes := rfl
@[simp] theorem State.mapDefOp_rops (n : Nat) (f : DefOp → DefOp) : (s.mapDefOp n f).rops = s.rops := rfl
@[simp] theorem State.mapDefOp_nms (n : Nat) (f : DefOp → DefOp) : (s.mapDefOp n f).nms = s.nms := rfl
@[simp] theorem State.mapDefOp_steps (n : Nat) (f : DefOp → DefOp) : (s.mapDefOp n f).steps = s.steps := rfl
@[simp] theorem State.mapDefOp_engs (n : Nat) (f : DefOp → DefOp) : (s.mapDefOp n f).engs = s.engs := rfl
@[simp] theorem State.mapDefOp_defOps (n : Nat) (f : DefOp → DefOp) : (s.mapDefOp n f).defOps = upd s.defOps (fun x => x.id == n) f := rfl
@[simp] theorem State.mapDefOp_heldWrites (n : Nat) (f : DefOp → DefOp) : (s.mapDefOp n f).heldWrites = s.heldWrites := rfl
@[simp] theorem State.mapDefOp_cuu (n : Nat) (f : DefOp → DefOp) : (s.mapDefOp n f).cuu = s.cuu := rfl
@[simp] theorem State.mapDefOp_agenda (n : Nat) (f : DefOp → DefOp) : (s.mapDefOp n f).agenda = s.agenda := rfl
@[simp] theorem State.mapDefOp_choiceCtr (n : Nat) (f : DefOp → DefOp) : (s.mapDefOp n f).choiceCtr = s.choiceCtr := rfl
@[simp] theorem State.mapDefOp_cur (n : Nat) (f : DefOp → DefOp) : (s.mapDefOp n f).cur = s.cur := rfl
@[simp] theorem State.mapDefOp_focus (n : Nat) (f : DefOp → DefOp) : (s.mapDefOp n f).focus = s.focus := rfl
@[simp] theorem State.mapDefOp_nextId (n : Nat) (f : DefOp → DefOp) : (s.mapDefOp n f).nextId = s.nextId := rfl

/-! ## State.dropDefOp -/

@[simp] theorem State.dropDefOp_tick (n : Nat) : (s.dropDefOp n).tick = s.tick := rfl
@[simp] theorem State.dropDefOp_mem (n : Nat) : (s.dropDefOp n).mem = s.mem := rfl
@[simp] theorem State.dropDefOp_seals (n : Nat) : (s.dropDefOp n).seals = s.seals := rfl
@[simp] theorem State.dropDefOp_poison (n : Nat) : (s.dropDefOp n).poison = s.poison := rfl
@[simp] theorem State.dropDefOp_eccCount (n : Nat) : (s.dropDefOp n).eccCount = s.eccCount := rfl
@[simp] theorem State.dropDefOp_hostMem (n : Nat) : (s.dropDefOp n).hostMem = s.hostMem := rfl
@[simp] theorem State.dropDefOp_leases (n : Nat) : (s.dropDefOp n).leases = s.leases := rfl
@[simp] theorem State.dropDefOp_leaseHold (n : Nat) : (s.dropDefOp n).leaseHold = s.leaseHold := rfl
@[simp] theorem State.dropDefOp_order (n : Nat) : (s.dropDefOp n).order = s.order := rfl
@[simp] theorem State.dropDefOp_guests (n : Nat) : (s.dropDefOp n).guests = s.guests := rfl
@[simp] theorem State.dropDefOp_pkgs (n : Nat) : (s.dropDefOp n).pkgs = s.pkgs := rfl
@[simp] theorem State.dropDefOp_ctxs (n : Nat) : (s.dropDefOp n).ctxs = s.ctxs := rfl
@[simp] theorem State.dropDefOp_insts (n : Nat) : (s.dropDefOp n).insts = s.insts := rfl
@[simp] theorem State.dropDefOp_groups (n : Nat) : (s.dropDefOp n).groups = s.groups := rfl
@[simp] theorem State.dropDefOp_cores (n : Nat) : (s.dropDefOp n).cores = s.cores := rfl
@[simp] theorem State.dropDefOp_coreRecs (n : Nat) : (s.dropDefOp n).coreRecs = s.coreRecs := rfl
@[simp] theorem State.dropDefOp_pages (n : Nat) : (s.dropDefOp n).pages = s.pages := rfl
@[simp] theorem State.dropDefOp_pageWaits (n : Nat) : (s.dropDefOp n).pageWaits = s.pageWaits := rfl
@[simp] theorem State.dropDefOp_sessions (n : Nat) : (s.dropDefOp n).sessions = s.sessions := rfl
@[simp] theorem State.dropDefOp_loads (n : Nat) : (s.dropDefOp n).loads = s.loads := rfl
@[simp] theorem State.dropDefOp_writes (n : Nat) : (s.dropDefOp n).writes = s.writes := rfl
@[simp] theorem State.dropDefOp_rops (n : Nat) : (s.dropDefOp n).rops = s.rops := rfl
@[simp] theorem State.dropDefOp_nms (n : Nat) : (s.dropDefOp n).nms = s.nms := rfl
@[simp] theorem State.dropDefOp_steps (n : Nat) : (s.dropDefOp n).steps = s.steps := rfl
@[simp] theorem State.dropDefOp_engs (n : Nat) : (s.dropDefOp n).engs = s.engs := rfl
@[simp] theorem State.dropDefOp_defOps (n : Nat) : (s.dropDefOp n).defOps = s.defOps.filter (fun x => x.id != n) := rfl
@[simp] theorem State.dropDefOp_heldWrites (n : Nat) : (s.dropDefOp n).heldWrites = s.heldWrites := rfl
@[simp] theorem State.dropDefOp_cuu (n : Nat) : (s.dropDefOp n).cuu = s.cuu := rfl
@[simp] theorem State.dropDefOp_agenda (n : Nat) : (s.dropDefOp n).agenda = s.agenda := rfl
@[simp] theorem State.dropDefOp_choiceCtr (n : Nat) : (s.dropDefOp n).choiceCtr = s.choiceCtr := rfl
@[simp] theorem State.dropDefOp_cur (n : Nat) : (s.dropDefOp n).cur = s.cur := rfl
@[simp] theorem State.dropDefOp_focus (n : Nat) : (s.dropDefOp n).focus = s.focus := rfl
@[simp] theorem State.dropDefOp_nextId (n : Nat) : (s.dropDefOp n).nextId = s.nextId := rfl

/-! ## State.bump -/

@[simp] theorem State.bump_tick : (s.bump).tick = s.tick := rfl
@[simp] theorem State.bump_mem : (s.bump).mem = s.mem := rfl
@[simp] theorem State.bump_seals : (s.bump).seals = s.seals := rfl
@[simp] theorem State.bump_poison : (s.bump).poison = s.poison := rfl
@[simp] theorem State.bump_eccCount : (s.bump).eccCount = s.eccCount := rfl
@[simp] theorem State.bump_hostMem : (s.bump).hostMem = s.hostMem := rfl
@[simp] theorem State.bump_leases : (s.bump).leases = s.leases := rfl
@[simp] theorem State.bump_leaseHold : (s.bump).leaseHold = s.leaseHold := rfl
@[simp] theorem State.bump_order : (s.bump).order = s.order := rfl
@[simp] theorem State.bump_guests : (s.bump).guests = s.guests := rfl
@[simp] theorem State.bump_pkgs : (s.bump).pkgs = s.pkgs := rfl
@[simp] theorem State.bump_ctxs : (s.bump).ctxs = s.ctxs := rfl
@[simp] theorem State.bump_insts : (s.bump).insts = s.insts := rfl
@[simp] theorem State.bump_groups : (s.bump).groups = s.groups := rfl
@[simp] theorem State.bump_cores : (s.bump).cores = s.cores := rfl
@[simp] theorem State.bump_coreRecs : (s.bump).coreRecs = s.coreRecs := rfl
@[simp] theorem State.bump_pages : (s.bump).pages = s.pages := rfl
@[simp] theorem State.bump_pageWaits : (s.bump).pageWaits = s.pageWaits := rfl
@[simp] theorem State.bump_sessions : (s.bump).sessions = s.sessions := rfl
@[simp] theorem State.bump_loads : (s.bump).loads = s.loads := rfl
@[simp] theorem State.bump_writes : (s.bump).writes = s.writes := rfl
@[simp] theorem State.bump_rops : (s.bump).rops = s.rops := rfl
@[simp] theorem State.bump_nms : (s.bump).nms = s.nms := rfl
@[simp] theorem State.bump_steps : (s.bump).steps = s.steps := rfl
@[simp] theorem State.bump_engs : (s.bump).engs = s.engs := rfl
@[simp] theorem State.bump_defOps : (s.bump).defOps = s.defOps := rfl
@[simp] theorem State.bump_heldWrites : (s.bump).heldWrites = s.heldWrites := rfl
@[simp] theorem State.bump_cuu : (s.bump).cuu = s.cuu := rfl
@[simp] theorem State.bump_agenda : (s.bump).agenda = s.agenda := rfl
@[simp] theorem State.bump_choiceCtr : (s.bump).choiceCtr = s.choiceCtr := rfl
@[simp] theorem State.bump_cur : (s.bump).cur = s.cur := rfl
@[simp] theorem State.bump_focus : (s.bump).focus = s.focus := rfl
@[simp] theorem State.bump_nextId : (s.bump).nextId = s.nextId + 1 := rfl

/-! ## State.bumpChoice -/

@[simp] theorem State.bumpChoice_tick : (s.bumpChoice).tick = s.tick := rfl
@[simp] theorem State.bumpChoice_mem : (s.bumpChoice).mem = s.mem := rfl
@[simp] theorem State.bumpChoice_seals : (s.bumpChoice).seals = s.seals := rfl
@[simp] theorem State.bumpChoice_poison : (s.bumpChoice).poison = s.poison := rfl
@[simp] theorem State.bumpChoice_eccCount : (s.bumpChoice).eccCount = s.eccCount := rfl
@[simp] theorem State.bumpChoice_hostMem : (s.bumpChoice).hostMem = s.hostMem := rfl
@[simp] theorem State.bumpChoice_leases : (s.bumpChoice).leases = s.leases := rfl
@[simp] theorem State.bumpChoice_leaseHold : (s.bumpChoice).leaseHold = s.leaseHold := rfl
@[simp] theorem State.bumpChoice_order : (s.bumpChoice).order = s.order := rfl
@[simp] theorem State.bumpChoice_guests : (s.bumpChoice).guests = s.guests := rfl
@[simp] theorem State.bumpChoice_pkgs : (s.bumpChoice).pkgs = s.pkgs := rfl
@[simp] theorem State.bumpChoice_ctxs : (s.bumpChoice).ctxs = s.ctxs := rfl
@[simp] theorem State.bumpChoice_insts : (s.bumpChoice).insts = s.insts := rfl
@[simp] theorem State.bumpChoice_groups : (s.bumpChoice).groups = s.groups := rfl
@[simp] theorem State.bumpChoice_cores : (s.bumpChoice).cores = s.cores := rfl
@[simp] theorem State.bumpChoice_coreRecs : (s.bumpChoice).coreRecs = s.coreRecs := rfl
@[simp] theorem State.bumpChoice_pages : (s.bumpChoice).pages = s.pages := rfl
@[simp] theorem State.bumpChoice_pageWaits : (s.bumpChoice).pageWaits = s.pageWaits := rfl
@[simp] theorem State.bumpChoice_sessions : (s.bumpChoice).sessions = s.sessions := rfl
@[simp] theorem State.bumpChoice_loads : (s.bumpChoice).loads = s.loads := rfl
@[simp] theorem State.bumpChoice_writes : (s.bumpChoice).writes = s.writes := rfl
@[simp] theorem State.bumpChoice_rops : (s.bumpChoice).rops = s.rops := rfl
@[simp] theorem State.bumpChoice_nms : (s.bumpChoice).nms = s.nms := rfl
@[simp] theorem State.bumpChoice_steps : (s.bumpChoice).steps = s.steps := rfl
@[simp] theorem State.bumpChoice_engs : (s.bumpChoice).engs = s.engs := rfl
@[simp] theorem State.bumpChoice_defOps : (s.bumpChoice).defOps = s.defOps := rfl
@[simp] theorem State.bumpChoice_heldWrites : (s.bumpChoice).heldWrites = s.heldWrites := rfl
@[simp] theorem State.bumpChoice_cuu : (s.bumpChoice).cuu = s.cuu := rfl
@[simp] theorem State.bumpChoice_agenda : (s.bumpChoice).agenda = s.agenda := rfl
@[simp] theorem State.bumpChoice_choiceCtr : (s.bumpChoice).choiceCtr = s.choiceCtr + 1 := rfl
@[simp] theorem State.bumpChoice_cur : (s.bumpChoice).cur = s.cur := rfl
@[simp] theorem State.bumpChoice_focus : (s.bumpChoice).focus = s.focus := rfl
@[simp] theorem State.bumpChoice_nextId : (s.bumpChoice).nextId = s.nextId := rfl

/-! ## State.mapSplit -/

@[simp] theorem State.mapSplit_tick (n p : Nat) (f : Split → Split) : (s.mapSplit n p f).tick = s.tick := rfl
@[simp] theorem State.mapSplit_mem (n p : Nat) (f : Split → Split) : (s.mapSplit n p f).mem = s.mem := rfl
@[simp] theorem State.mapSplit_seals (n p : Nat) (f : Split → Split) : (s.mapSplit n p f).seals = s.seals := rfl
@[simp] theorem State.mapSplit_poison (n p : Nat) (f : Split → Split) : (s.mapSplit n p f).poison = s.poison := rfl
@[simp] theorem State.mapSplit_eccCount (n p : Nat) (f : Split → Split) : (s.mapSplit n p f).eccCount = s.eccCount := rfl
@[simp] theorem State.mapSplit_hostMem (n p : Nat) (f : Split → Split) : (s.mapSplit n p f).hostMem = s.hostMem := rfl
@[simp] theorem State.mapSplit_leases (n p : Nat) (f : Split → Split) : (s.mapSplit n p f).leases = s.leases := rfl
@[simp] theorem State.mapSplit_leaseHold (n p : Nat) (f : Split → Split) : (s.mapSplit n p f).leaseHold = s.leaseHold := rfl
@[simp] theorem State.mapSplit_order (n p : Nat) (f : Split → Split) : (s.mapSplit n p f).order = s.order := rfl
@[simp] theorem State.mapSplit_guests (n p : Nat) (f : Split → Split) : (s.mapSplit n p f).guests = s.guests := rfl
@[simp] theorem State.mapSplit_pkgs (n p : Nat) (f : Split → Split) : (s.mapSplit n p f).pkgs = s.pkgs := rfl
@[simp] theorem State.mapSplit_ctxs (n p : Nat) (f : Split → Split) : (s.mapSplit n p f).ctxs = s.ctxs := rfl
@[simp] theorem State.mapSplit_insts (n p : Nat) (f : Split → Split) : (s.mapSplit n p f).insts = s.insts := rfl
@[simp] theorem State.mapSplit_groups (n p : Nat) (f : Split → Split) : (s.mapSplit n p f).groups = upd s.groups (fun g => g.id == n) (fun g => g.mapSplit p f) := rfl
@[simp] theorem State.mapSplit_cores (n p : Nat) (f : Split → Split) : (s.mapSplit n p f).cores = s.cores := rfl
@[simp] theorem State.mapSplit_coreRecs (n p : Nat) (f : Split → Split) : (s.mapSplit n p f).coreRecs = s.coreRecs := rfl
@[simp] theorem State.mapSplit_pages (n p : Nat) (f : Split → Split) : (s.mapSplit n p f).pages = s.pages := rfl
@[simp] theorem State.mapSplit_pageWaits (n p : Nat) (f : Split → Split) : (s.mapSplit n p f).pageWaits = s.pageWaits := rfl
@[simp] theorem State.mapSplit_sessions (n p : Nat) (f : Split → Split) : (s.mapSplit n p f).sessions = s.sessions := rfl
@[simp] theorem State.mapSplit_loads (n p : Nat) (f : Split → Split) : (s.mapSplit n p f).loads = s.loads := rfl
@[simp] theorem State.mapSplit_writes (n p : Nat) (f : Split → Split) : (s.mapSplit n p f).writes = s.writes := rfl
@[simp] theorem State.mapSplit_rops (n p : Nat) (f : Split → Split) : (s.mapSplit n p f).rops = s.rops := rfl
@[simp] theorem State.mapSplit_nms (n p : Nat) (f : Split → Split) : (s.mapSplit n p f).nms = s.nms := rfl
@[simp] theorem State.mapSplit_steps (n p : Nat) (f : Split → Split) : (s.mapSplit n p f).steps = s.steps := rfl
@[simp] theorem State.mapSplit_engs (n p : Nat) (f : Split → Split) : (s.mapSplit n p f).engs = s.engs := rfl
@[simp] theorem State.mapSplit_defOps (n p : Nat) (f : Split → Split) : (s.mapSplit n p f).defOps = s.defOps := rfl
@[simp] theorem State.mapSplit_heldWrites (n p : Nat) (f : Split → Split) : (s.mapSplit n p f).heldWrites = s.heldWrites := rfl
@[simp] theorem State.mapSplit_cuu (n p : Nat) (f : Split → Split) : (s.mapSplit n p f).cuu = s.cuu := rfl
@[simp] theorem State.mapSplit_agenda (n p : Nat) (f : Split → Split) : (s.mapSplit n p f).agenda = s.agenda := rfl
@[simp] theorem State.mapSplit_choiceCtr (n p : Nat) (f : Split → Split) : (s.mapSplit n p f).choiceCtr = s.choiceCtr := rfl
@[simp] theorem State.mapSplit_cur (n p : Nat) (f : Split → Split) : (s.mapSplit n p f).cur = s.cur := rfl
@[simp] theorem State.mapSplit_focus (n p : Nat) (f : Split → Split) : (s.mapSplit n p f).focus = s.focus := rfl
@[simp] theorem State.mapSplit_nextId (n p : Nat) (f : Split → Split) : (s.mapSplit n p f).nextId = s.nextId := rfl

/-! ## State.mapField -/

@[simp] theorem State.mapField_tick (n p : Nat) (f : Field → Field) : (s.mapField n p f).tick = s.tick := rfl
@[simp] theorem State.mapField_mem (n p : Nat) (f : Field → Field) : (s.mapField n p f).mem = s.mem := rfl
@[simp] theorem State.mapField_seals (n p : Nat) (f : Field → Field) : (s.mapField n p f).seals = s.seals := rfl
@[simp] theorem State.mapField_poison (n p : Nat) (f : Field → Field) : (s.mapField n p f).poison = s.poison := rfl
@[simp] theorem State.mapField_eccCount (n p : Nat) (f : Field → Field) : (s.mapField n p f).eccCount = s.eccCount := rfl
@[simp] theorem State.mapField_hostMem (n p : Nat) (f : Field → Field) : (s.mapField n p f).hostMem = s.hostMem := rfl
@[simp] theorem State.mapField_leases (n p : Nat) (f : Field → Field) : (s.mapField n p f).leases = s.leases := rfl
@[simp] theorem State.mapField_leaseHold (n p : Nat) (f : Field → Field) : (s.mapField n p f).leaseHold = s.leaseHold := rfl
@[simp] theorem State.mapField_order (n p : Nat) (f : Field → Field) : (s.mapField n p f).order = s.order := rfl
@[simp] theorem State.mapField_guests (n p : Nat) (f : Field → Field) : (s.mapField n p f).guests = s.guests := rfl
@[simp] theorem State.mapField_pkgs (n p : Nat) (f : Field → Field) : (s.mapField n p f).pkgs = upd s.pkgs (fun x => x.num == n) (fun x => { x with fields := modAt x.fields p f }) := rfl
@[simp] theorem State.mapField_ctxs (n p : Nat) (f : Field → Field) : (s.mapField n p f).ctxs = s.ctxs := rfl
@[simp] theorem State.mapField_insts (n p : Nat) (f : Field → Field) : (s.mapField n p f).insts = s.insts := rfl
@[simp] theorem State.mapField_groups (n p : Nat) (f : Field → Field) : (s.mapField n p f).groups = s.groups := rfl
@[simp] theorem State.mapField_cores (n p : Nat) (f : Field → Field) : (s.mapField n p f).cores = s.cores := rfl
@[simp] theorem State.mapField_coreRecs (n p : Nat) (f : Field → Field) : (s.mapField n p f).coreRecs = s.coreRecs := rfl
@[simp] theorem State.mapField_pages (n p : Nat) (f : Field → Field) : (s.mapField n p f).pages = s.pages := rfl
@[simp] theorem State.mapField_pageWaits (n p : Nat) (f : Field → Field) : (s.mapField n p f).pageWaits = s.pageWaits := rfl
@[simp] theorem State.mapField_sessions (n p : Nat) (f : Field → Field) : (s.mapField n p f).sessions = s.sessions := rfl
@[simp] theorem State.mapField_loads (n p : Nat) (f : Field → Field) : (s.mapField n p f).loads = s.loads := rfl
@[simp] theorem State.mapField_writes (n p : Nat) (f : Field → Field) : (s.mapField n p f).writes = s.writes := rfl
@[simp] theorem State.mapField_rops (n p : Nat) (f : Field → Field) : (s.mapField n p f).rops = s.rops := rfl
@[simp] theorem State.mapField_nms (n p : Nat) (f : Field → Field) : (s.mapField n p f).nms = s.nms := rfl
@[simp] theorem State.mapField_steps (n p : Nat) (f : Field → Field) : (s.mapField n p f).steps = s.steps := rfl
@[simp] theorem State.mapField_engs (n p : Nat) (f : Field → Field) : (s.mapField n p f).engs = s.engs := rfl
@[simp] theorem State.mapField_defOps (n p : Nat) (f : Field → Field) : (s.mapField n p f).defOps = s.defOps := rfl
@[simp] theorem State.mapField_heldWrites (n p : Nat) (f : Field → Field) : (s.mapField n p f).heldWrites = s.heldWrites := rfl
@[simp] theorem State.mapField_cuu (n p : Nat) (f : Field → Field) : (s.mapField n p f).cuu = s.cuu := rfl
@[simp] theorem State.mapField_agenda (n p : Nat) (f : Field → Field) : (s.mapField n p f).agenda = s.agenda := rfl
@[simp] theorem State.mapField_choiceCtr (n p : Nat) (f : Field → Field) : (s.mapField n p f).choiceCtr = s.choiceCtr := rfl
@[simp] theorem State.mapField_cur (n p : Nat) (f : Field → Field) : (s.mapField n p f).cur = s.cur := rfl
@[simp] theorem State.mapField_focus (n p : Nat) (f : Field → Field) : (s.mapField n p f).focus = s.focus := rfl
@[simp] theorem State.mapField_nextId (n p : Nat) (f : Field → Field) : (s.mapField n p f).nextId = s.nextId := rfl

/-! ## State.mapCoreOf -/

@[simp] theorem State.mapCoreOf_tick (g : Group) (f : Core → Core) : (s.mapCoreOf g f).tick = s.tick := by unfold State.mapCoreOf; split <;> rfl
@[simp] theorem State.mapCoreOf_mem (g : Group) (f : Core → Core) : (s.mapCoreOf g f).mem = s.mem := by unfold State.mapCoreOf; split <;> rfl
@[simp] theorem State.mapCoreOf_seals (g : Group) (f : Core → Core) : (s.mapCoreOf g f).seals = s.seals := by unfold State.mapCoreOf; split <;> rfl
@[simp] theorem State.mapCoreOf_poison (g : Group) (f : Core → Core) : (s.mapCoreOf g f).poison = s.poison := by unfold State.mapCoreOf; split <;> rfl
@[simp] theorem State.mapCoreOf_eccCount (g : Group) (f : Core → Core) : (s.mapCoreOf g f).eccCount = s.eccCount := by unfold State.mapCoreOf; split <;> rfl
@[simp] theorem State.mapCoreOf_hostMem (g : Group) (f : Core → Core) : (s.mapCoreOf g f).hostMem = s.hostMem := by unfold State.mapCoreOf; split <;> rfl
@[simp] theorem State.mapCoreOf_leases (g : Group) (f : Core → Core) : (s.mapCoreOf g f).leases = s.leases := by unfold State.mapCoreOf; split <;> rfl
@[simp] theorem State.mapCoreOf_leaseHold (g : Group) (f : Core → Core) : (s.mapCoreOf g f).leaseHold = s.leaseHold := by unfold State.mapCoreOf; split <;> rfl
@[simp] theorem State.mapCoreOf_order (g : Group) (f : Core → Core) : (s.mapCoreOf g f).order = s.order := by unfold State.mapCoreOf; split <;> rfl
@[simp] theorem State.mapCoreOf_guests (g : Group) (f : Core → Core) : (s.mapCoreOf g f).guests = s.guests := by unfold State.mapCoreOf; split <;> rfl
@[simp] theorem State.mapCoreOf_pkgs (g : Group) (f : Core → Core) : (s.mapCoreOf g f).pkgs = s.pkgs := by unfold State.mapCoreOf; split <;> rfl
@[simp] theorem State.mapCoreOf_ctxs (g : Group) (f : Core → Core) : (s.mapCoreOf g f).ctxs = s.ctxs := by unfold State.mapCoreOf; split <;> rfl
@[simp] theorem State.mapCoreOf_insts (g : Group) (f : Core → Core) : (s.mapCoreOf g f).insts = s.insts := by unfold State.mapCoreOf; split <;> rfl
@[simp] theorem State.mapCoreOf_groups (g : Group) (f : Core → Core) : (s.mapCoreOf g f).groups = s.groups := by unfold State.mapCoreOf; split <;> rfl
@[simp] theorem State.mapCoreOf_pages (g : Group) (f : Core → Core) : (s.mapCoreOf g f).pages = s.pages := by unfold State.mapCoreOf; split <;> rfl
@[simp] theorem State.mapCoreOf_pageWaits (g : Group) (f : Core → Core) : (s.mapCoreOf g f).pageWaits = s.pageWaits := by unfold State.mapCoreOf; split <;> rfl
@[simp] theorem State.mapCoreOf_sessions (g : Group) (f : Core → Core) : (s.mapCoreOf g f).sessions = s.sessions := by unfold State.mapCoreOf; split <;> rfl
@[simp] theorem State.mapCoreOf_loads (g : Group) (f : Core → Core) : (s.mapCoreOf g f).loads = s.loads := by unfold State.mapCoreOf; split <;> rfl
@[simp] theorem State.mapCoreOf_writes (g : Group) (f : Core → Core) : (s.mapCoreOf g f).writes = s.writes := by unfold State.mapCoreOf; split <;> rfl
@[simp] theorem State.mapCoreOf_rops (g : Group) (f : Core → Core) : (s.mapCoreOf g f).rops = s.rops := by unfold State.mapCoreOf; split <;> rfl
@[simp] theorem State.mapCoreOf_nms (g : Group) (f : Core → Core) : (s.mapCoreOf g f).nms = s.nms := by unfold State.mapCoreOf; split <;> rfl
@[simp] theorem State.mapCoreOf_steps (g : Group) (f : Core → Core) : (s.mapCoreOf g f).steps = s.steps := by unfold State.mapCoreOf; split <;> rfl
@[simp] theorem State.mapCoreOf_engs (g : Group) (f : Core → Core) : (s.mapCoreOf g f).engs = s.engs := by unfold State.mapCoreOf; split <;> rfl
@[simp] theorem State.mapCoreOf_defOps (g : Group) (f : Core → Core) : (s.mapCoreOf g f).defOps = s.defOps := by unfold State.mapCoreOf; split <;> rfl
@[simp] theorem State.mapCoreOf_heldWrites (g : Group) (f : Core → Core) : (s.mapCoreOf g f).heldWrites = s.heldWrites := by unfold State.mapCoreOf; split <;> rfl
@[simp] theorem State.mapCoreOf_cuu (g : Group) (f : Core → Core) : (s.mapCoreOf g f).cuu = s.cuu := by unfold State.mapCoreOf; split <;> rfl
@[simp] theorem State.mapCoreOf_agenda (g : Group) (f : Core → Core) : (s.mapCoreOf g f).agenda = s.agenda := by unfold State.mapCoreOf; split <;> rfl
@[simp] theorem State.mapCoreOf_choiceCtr (g : Group) (f : Core → Core) : (s.mapCoreOf g f).choiceCtr = s.choiceCtr := by unfold State.mapCoreOf; split <;> rfl
@[simp] theorem State.mapCoreOf_cur (g : Group) (f : Core → Core) : (s.mapCoreOf g f).cur = s.cur := by unfold State.mapCoreOf; split <;> rfl
@[simp] theorem State.mapCoreOf_focus (g : Group) (f : Core → Core) : (s.mapCoreOf g f).focus = s.focus := by unfold State.mapCoreOf; split <;> rfl
@[simp] theorem State.mapCoreOf_nextId (g : Group) (f : Core → Core) : (s.mapCoreOf g f).nextId = s.nextId := by unfold State.mapCoreOf; split <;> rfl

/-! ## Lookups -/

@[simp] theorem State.group_mapGroup (n : Nat) (f : Group → Group) (h : ∀ g, (f g).id = g.id) : (s.mapGroup n f).group? n = (s.group? n).map f :=
  find_upd_same _ _ _ (fun g hg => by simpa [h g] using hg)
theorem State.group_mapGroup_other (n m : Nat) (f : Group → Group) (h : ∀ g, (f g).id = g.id) (hn : n ≠ m) : (s.mapGroup n f).group? m = s.group? m :=
  find_upd_other _ _ _ _ (fun g hg => by simp_all)
@[simp] theorem State.inst_mapGroup (n m : Nat) (f : Group → Group) : (s.mapGroup n f).inst? m = s.inst? m := rfl
@[simp] theorem State.ctx_mapGroup (n p m : Nat) (f : Group → Group) : (s.mapGroup n f).ctx? p m = s.ctx? p m := rfl
@[simp] theorem State.pkg_mapGroup (n m : Nat) (f : Group → Group) : (s.mapGroup n f).pkg? m = s.pkg? m := rfl
@[simp] theorem State.core_mapGroup (n p m : Nat) (f : Group → Group) : (s.mapGroup n f).core? p m = s.core? p m := rfl
@[simp] theorem State.group_mapCores (f : Core → Core) (m : Nat) : (s.mapCores f).group? m = s.group? m := rfl
@[simp] theorem State.group_mapCore (p n m : Nat) (f : Core → Core) : (s.mapCore p n f).group? m = s.group? m := rfl
@[simp] theorem State.group_mapInst (n m : Nat) (f : Inst → Inst) : (s.mapInst n f).group? m = s.group? m := rfl
@[simp] theorem State.group_mapPkg (n m : Nat) (f : Pkg → Pkg) : (s.mapPkg n f).group? m = s.group? m := rfl
@[simp] theorem State.group_mapCtx (p n m : Nat) (f : Ctx → Ctx) : (s.mapCtx p n f).group? m = s.group? m := rfl
@[simp] theorem State.inst_mapInst (n : Nat) (f : Inst → Inst) (h : ∀ k, (f k).id = k.id) : (s.mapInst n f).inst? n = (s.inst? n).map f :=
  find_upd_same _ _ _ (fun k hk => by simpa [h k] using hk)
@[simp] theorem State.pkg_mapPkg (n : Nat) (f : Pkg → Pkg) (h : ∀ p, (f p).num = p.num) : (s.mapPkg n f).pkg? n = (s.pkg? n).map f :=
  find_upd_same _ _ _ (fun p hp => by simpa [h p] using hp)
@[simp] theorem State.ctx_mapCtx (p n : Nat) (f : Ctx → Ctx) (h : ∀ c, (f c).pkg = c.pkg ∧ (f c).num = c.num) : (s.mapCtx p n f).ctx? p n = (s.ctx? p n).map f :=
  find_upd_same _ _ _ (fun c hc => by simpa [h c] using hc)

end Sys2Proof.Machine
end

