-- ==== Sys2Proof/Laws/Memory.lean ====
section
/-! SUPPORT. Memory: a byte read after a write, the canonical form kept by every operation that writes memory, and equal reads make equal memories. -/

namespace Sys2Proof.Machine

open Sys2Proof

/-! ## One byte -/

theorem Memory.wfFrom_mono {lo hi : Nat} {m : List Host.Cell} (h : lo ≤ hi) (hm : Memory.wfFrom hi m = true) : Memory.wfFrom lo m = true := by
  cases m with
  | nil => rfl
  | cons c t =>
    obtain ⟨x, b⟩ := c
    simp only [Memory.wfFrom, Bool.and_eq_true, decide_eq_true_eq] at hm ⊢
    exact ⟨⟨by omega, hm.1.2⟩, hm.2⟩

/-- An address below every listed one reads as an unlisted byte. -/
theorem Memory.read_below {lo a : Nat} {m : List Host.Cell} (hm : Memory.wfFrom lo m = true) (h : a < lo) : Memory.read m a = Memory.unlisted := by
  induction m generalizing lo with
  | nil => rfl
  | cons c t ih =>
    obtain ⟨x, b⟩ := c
    simp only [Memory.wfFrom, Bool.and_eq_true, decide_eq_true_eq] at hm
    rw [Memory.read, if_neg (by omega)]
    exact ih hm.2 (by omega)

theorem Memory.write_wfFrom {lo a : Nat} {m : List Host.Cell} {b : Byte} (hm : Memory.wfFrom lo m = true) (h : lo ≤ a) :
    Memory.wfFrom lo (Memory.write m a b) = true := by
  induction m generalizing lo with
  | nil =>
    simp only [Memory.write]
    split
    · rfl
    · simp [Memory.wfFrom, *]
  | cons c t ih =>
    obtain ⟨x, d⟩ := c
    simp only [Memory.wfFrom, Bool.and_eq_true, decide_eq_true_eq] at hm
    simp only [Memory.write]
    split
    · split
      · simp [Memory.wfFrom, hm]
      · simp [Memory.wfFrom, *]; try omega
    · split
      · split
        · exact Memory.wfFrom_mono (by omega) hm.2
        · subst_vars; simp [Memory.wfFrom, *]
      · simp only [Memory.wfFrom, Bool.and_eq_true, decide_eq_true_eq]
        exact ⟨hm.1, ih hm.2 (by omega)⟩

/-- A write of one byte keeps the canonical form. -/
theorem Memory.write_wf {m : List Host.Cell} (a : Nat) (b : Byte) (hm : Memory.wf m = true) : Memory.wf (Memory.write m a b) = true :=
  Memory.write_wfFrom hm (Nat.zero_le a)

/-- What a byte reads as after a write of one. -/
theorem Memory.read_write {m : List Host.Cell} (hm : Memory.wf m = true) (a c : Nat) (b : Byte) :
    Memory.read (Memory.write m a b) c = if c = a then b else Memory.read m c := by
  suffices h : ∀ lo, Memory.wfFrom lo m = true → Memory.read (Memory.write m a b) c = if c = a then b else Memory.read m c from h 0 hm
  clear hm
  induction m with
  | nil =>
    intro lo _
    simp only [Memory.write]
    split <;> simp [Memory.read, *] <;> split <;> simp_all
    omega
  | cons e t ih =>
    intro lo hm
    obtain ⟨x, d⟩ := e
    simp only [Memory.wfFrom, Bool.and_eq_true, decide_eq_true_eq] at hm
    have ht := ih (x + 1) hm.2
    simp only [Memory.write]
    split
    · split
      · by_cases hc : c = a
        · subst hc; subst_vars
          rw [if_pos rfl, Memory.read, if_neg (by omega), Memory.read_below hm.2 (by omega)]
        · simp [hc]
      · by_cases hc : c = a
        · subst hc; simp [Memory.read]
        · rw [Memory.read, if_neg (fun h => hc h.symm), if_neg hc]
    · split
      · subst_vars
        split
        · by_cases hc : c = x
          · subst hc; subst_vars; rw [if_pos rfl]; exact Memory.read_below hm.2 (by omega)
          · rw [if_neg hc, Memory.read, if_neg (fun h => hc h.symm)]
        · by_cases hc : c = x
          · subst hc; simp [Memory.read]
          · rw [Memory.read, if_neg (fun h => hc h.symm), if_neg hc, Memory.read, if_neg (fun h => hc h.symm)]
      · by_cases hx : x = c
        · subst hx; simp [Memory.read]; try omega
        · simp only [Memory.read, if_neg hx]; exact ht

/-! ## Several bytes -/

theorem Memory.writeN_wf {m : List Host.Cell} (a : Nat) (bs : List Byte) (hm : Memory.wf m = true) : Memory.wf (Memory.writeN m a bs) = true := by
  induction bs generalizing m a with
  | nil => exact hm
  | cons b t ih => exact ih (a + 1) (Memory.write_wf a b hm)

/-- What a byte reads as after a write of several. -/
theorem Memory.read_writeN {m : List Host.Cell} (hm : Memory.wf m = true) (a c : Nat) (bs : List Byte) :
    Memory.read (Memory.writeN m a bs) c = if a ≤ c ∧ c < a + bs.length then bs.getD (c - a) 0 else Memory.read m c := by
  induction bs generalizing m a with
  | nil => rw [if_neg (by simp only [List.length_nil]; omega)]; rfl
  | cons b t ih =>
    rw [Memory.writeN, ih (Memory.write_wf a b hm), Memory.read_write hm]
    by_cases h1 : a + 1 ≤ c ∧ c < a + 1 + t.length
    · rw [if_pos h1, if_pos (by simp only [List.length_cons]; omega)]
      obtain ⟨k, hk⟩ : ∃ k, c - a = k + 1 := ⟨c - a - 1, by omega⟩
      rw [show c - (a + 1) = k by omega, hk]; rfl
    · rw [if_neg h1]
      by_cases h2 : c = a
      · subst h2; simp
      · rw [if_neg h2, if_neg (by simp only [List.length_cons]; omega)]

/-- The bytes written are read back. -/
theorem Memory.readN_writeN {m : List Host.Cell} (hm : Memory.wf m = true) (a : Nat) (bs : List Byte) :
    Memory.readN (Memory.writeN m a bs) a bs.length = bs := by
  apply List.ext_getElem
  · simp [Memory.readN]
  · intro i h1 h2
    simp [Memory.readN, Memory.read_writeN hm, h2]

/-- Canonical memories that read alike are equal. -/
theorem Memory.ext_read {m n : List Host.Cell} (hm : Memory.wf m = true) (hn : Memory.wf n = true) (h : ∀ a, Memory.read m a = Memory.read n a) : m = n := by
  suffices g : ∀ lo, Memory.wfFrom lo m = true → Memory.wfFrom lo n = true → m = n from g 0 hm hn
  clear hm hn
  induction m generalizing n with
  | nil =>
    intro lo _ hn
    cases n with
    | nil => rfl
    | cons c t =>
      obtain ⟨x, b⟩ := c
      simp only [Memory.wfFrom, Bool.and_eq_true, bne_iff_ne] at hn
      exact absurd (by simpa [Memory.read] using (h x).symm) hn.1.2
  | cons c t ih =>
    intro lo hm hn
    obtain ⟨x, b⟩ := c
    simp only [Memory.wfFrom, Bool.and_eq_true, bne_iff_ne, decide_eq_true_eq] at hm
    cases n with
    | nil => exact absurd (by simpa [Memory.read] using h x) hm.1.2
    | cons e u =>
      obtain ⟨y, d⟩ := e
      simp only [Memory.wfFrom, Bool.and_eq_true, bne_iff_ne, decide_eq_true_eq] at hn
      rcases Nat.lt_trichotomy x y with hxy | hxy | hxy
      · refine absurd ?_ hm.1.2
        have := h x
        rw [Memory.read, if_pos rfl, Memory.read, if_neg (by omega), Memory.read_below hn.2 (by omega)] at this
        exact this
      · subst hxy
        have hb : b = d := by simpa [Memory.read] using h x
        subst hb
        have : t = u := by
          refine ih (n := u) ?_ (x + 1) hm.2 hn.2
          intro a
          by_cases ha : x = a
          · subst ha; rw [Memory.read_below hm.2 (by omega), Memory.read_below hn.2 (by omega)]
          · simpa [Memory.read, ha] using h a
        rw [this]
      · refine absurd ?_ hn.1.2
        have := h y
        rw [Memory.read, if_neg (by omega), Memory.read, if_pos rfl, Memory.read_below hm.2 (by omega)] at this
        exact this.symm

/-! ## The operations that write memory -/

theorem writePhys_wf {s : State} (key : List Byte) (tweak a : Nat) (bs : List Byte) (h : Memory.wf s.mem = true) :
    Memory.wf (writePhys s key tweak a bs).mem = true := by
  unfold writePhys
  simp only []
  split <;> (repeat' split) <;> exact Memory.writeN_wf _ _ h

@[simp] theorem writePhys_hostMem (s : State) (key : List Byte) (tweak a : Nat) (bs : List Byte) :
    (writePhys s key tweak a bs).hostMem = s.hostMem := by
  unfold writePhys; simp only []; split <;> (repeat' split) <;> rfl

theorem performAt_wf {s : State} (home ctx va key : Nat) (bs : List Byte) (h : Memory.wf s.mem = true) :
    Memory.wf (performAt s home ctx va key bs).mem = true := by
  have : (performAt s home ctx va key bs).mem = (writePhys s (lineKey s home ctx (lineOf va)) (lineOf va) key bs).mem := by
    simp only [performAt, markWindows, holdLeases]; split <;> rfl
  rw [this]; exact writePhys_wf _ _ _ _ h

@[simp] theorem performAt_hostMem (s : State) (home ctx va key : Nat) (bs : List Byte) : (performAt s home ctx va key bs).hostMem = s.hostMem := by
  have : (performAt s home ctx va key bs).hostMem = (writePhys s (lineKey s home ctx (lineOf va)) (lineOf va) key bs).hostMem := by
    simp only [performAt, markWindows, holdLeases]; split <;> rfl
  simp [this]

theorem writeHome_wf {s : State} (pkg ctx va : Nat) (bs : List Byte) (h : Memory.wf s.mem = true) : Memory.wf (writeHome s pkg ctx va bs).mem = true := by
  unfold writeHome; split
  · exact performAt_wf _ _ _ _ _ h
  · exact h

@[simp] theorem writeHome_hostMem (s : State) (pkg ctx va : Nat) (bs : List Byte) : (writeHome s pkg ctx va bs).hostMem = s.hostMem := by
  unfold writeHome; split <;> simp

/-- A property of the state that every step of a fold keeps holds after the fold. -/
theorem foldl_keeps {σ β : Type} (P : σ → Prop) (f : σ → β → σ) (l : List β) (hf : ∀ s b, P s → P (f s b)) (s : σ) (h : P s) : P (l.foldl f s) := by
  induction l generalizing s with
  | nil => exact h
  | cons b t ih => exact ih _ (hf s b h)

theorem writeSpan_wf {s : State} (pkg ctx va : Nat) (bs : List Byte) (h : Memory.wf s.mem = true) : Memory.wf (writeSpan s pkg ctx va bs).mem = true :=
  foldl_keeps (fun s : State => Memory.wf s.mem = true) _ _ (fun _ _ => writeHome_wf _ _ _ _) s h

theorem writeSpan_hostMem (s : State) (pkg ctx va : Nat) (bs : List Byte) : (writeSpan s pkg ctx va bs).hostMem = s.hostMem :=
  foldl_keeps (fun t : State => t.hostMem = s.hostMem) _ _ (fun _ _ h => by rw [writeHome_hostMem]; exact h) s rfl

theorem writePool_wf {s : State} (pkg a : Nat) (bs : List Byte) (h : Memory.wf s.mem = true) : Memory.wf (writePool s pkg a bs).mem = true :=
  foldl_keeps (fun s : State => Memory.wf s.mem = true) _ _ (fun _ _ => writePhys_wf _ _ _ _) s h

theorem hostPut_wf {s : State} (pkg : Nat) (bs : List Byte) (pl : HostPlace) (h : Memory.wf s.mem = true) : Memory.wf (hostPut s pkg bs pl).mem = true := by
  cases pl
  · exact foldl_keeps (fun s : State => Memory.wf s.mem = true) _ _ (fun _ _ => writeHome_wf _ _ _ _) s h
  · exact foldl_keeps (fun s : State => Memory.wf s.mem = true) _ _ (fun _ _ => writePhys_wf _ _ _ _) s h

/-- Leaving entries out keeps the canonical form. -/
theorem Memory.filter_wfFrom {lo : Nat} {m : List Host.Cell} (p : Host.Cell → Bool) (h : Memory.wfFrom lo m = true) : Memory.wfFrom lo (m.filter p) = true := by
  induction m generalizing lo with
  | nil => rfl
  | cons c t ih =>
    obtain ⟨x, b⟩ := c
    simp only [Memory.wfFrom, Bool.and_eq_true, decide_eq_true_eq] at h
    rw [List.filter_cons]
    split
    · simp only [Memory.wfFrom, Bool.and_eq_true, decide_eq_true_eq]; exact ⟨h.1, ih h.2⟩
    · exact Memory.wfFrom_mono (by omega) (ih h.2)

theorem copyFrame_wf {s : State} (a b n : Nat) (h : Memory.wf s.mem = true) : Memory.wf (copyFrame s a b n).mem = true :=
  foldl_keeps (fun m : List Host.Cell => Memory.wf m = true) _ _ (fun _ _ => Memory.write_wf _ _) _ (Memory.filter_wfFrom _ h)

theorem copyFrames_wf {s : State} (pkg : Nat) (c : Ctx) (e : PtEntry) (p : Page) (h : Memory.wf s.mem = true) :
    Memory.wf (copyFrames s pkg c e p).mem = true :=
  foldl_keeps (fun s : State => Memory.wf s.mem = true) _ _ (fun _ _ => copyFrame_wf _ _ _) s h

/-- The memory of the reset state lists nothing. -/
theorem reset_mem_wf : Memory.wf State.reset.mem = true := rfl

end Sys2Proof.Machine
end

