-- ==== Sys2Proof/Laws/Kept.lean ====
section
/-! SUPPORT. The shared operations keep the memories in their canonical form: register writes, faults and traps, batches, and the end of an issue, so that an instruction's issue does where its body does. -/

namespace Sys2Proof.Machine

open Sys2Proof

/-- A state whose memories are those of a canonical one is canonical. -/
theorem MemCanonical.of_eq {s t : State} (h : MemCanonical s) (h1 : t.mem = s.mem) (h2 : t.hostMem = s.hostMem) : MemCanonical t := by
  unfold MemCanonical; rw [h1, h2]; exact h

theorem MemCanonical.foldl {β : Type} {f : State → β → State} {s : State} (h : MemCanonical s) (l : List β)
    (hf : ∀ s b, MemCanonical s → MemCanonical (f s b)) : MemCanonical (l.foldl f s) :=
  foldl_keeps MemCanonical f l hf s h

/-- A record update that leaves both memories alone. -/
theorem MemCanonical.mk {tick : Nat} {seals : List (Nat × List Byte × Nat)} {poison : List Nat} {eccCount : List (Nat × Nat)} {leases : List (Nat × Nat × Nat)} {leaseHold : List (Nat × Nat × Nat)} {order : List (Nat × Nat × Nat)} {guests : List Guest} {pkgs : List Pkg} {ctxs : List Ctx} {insts : List Inst} {groups : List Group} {cores : List Core} {coreRecs : List CoreRec} {pages : List Page} {pageWaits : List PageWait} {sessions : List NmSession} {loads : List Load} {writes : List Write} {rops : List Rop} {nms : List Nm} {steps : List Step} {engs : List Eng} {defOps : List DefOp} {heldWrites : List HeldWrite} {cuu : List CuuReq} {agenda : List Move} {choiceCtr : Nat} {cur : Option (Nat × Nat)} {focus : Nat × Nat} {nextId : Nat} {s : State}
    (h : MemCanonical s) : MemCanonical (State.mk tick s.mem seals poison eccCount s.hostMem leases leaseHold order guests pkgs ctxs insts groups cores coreRecs pages pageWaits sessions loads writes rops nms steps engs defOps heldWrites cuu agenda choiceCtr cur focus nextId) := h

/-! ## Answers that are optional, and loops -/

/-- The state of an optional answer has property P. -/
def OptAll (P : State → Prop) : Option State → Prop
  | some t => P t
  | none => True

theorem OptAll.some {P : State → Prop} {t : State} (h : P t) : OptAll P (.some t) := h
theorem OptAll.none {P : State → Prop} : OptAll P .none := trivial
theorem OptAll.get {P : State → Prop} {o : Option State} {t : State} (h : OptAll P o) (e : o = .some t) : P t := by
  subst e; exact h
theorem OptAll.getD {P : State → Prop} {o : Option State} {s : State} (h : OptAll P o) (hs : P s) : P (o.getD s) := by
  cases o with
  | none => exact hs
  | some t => exact h
theorem OptAll.map {α : Type} {P : State → Prop} {o : Option α} {f : α → State} (h : ∀ a, P (f a)) : OptAll P (o.map f) := by
  cases o with
  | none => trivial
  | some a => exact h a
theorem OptAll.bind {α : Type} {P : State → Prop} {o : Option α} {f : α → Option State} (h : ∀ a, OptAll P (f a)) : OptAll P (o.bind f) := by
  cases o with
  | none => trivial
  | some a => exact h a
theorem OptAll.mapOf {P : State → Prop} {o : Option State} {f : State → State} (h : OptAll P o) (hf : ∀ t, P t → P (f t)) : OptAll P (o.map f) := by
  cases o with
  | none => trivial
  | some a => exact hf a h
theorem OptAll.bindOf {P : State → Prop} {o : Option State} {f : State → Option State} (h : OptAll P o) (hf : ∀ t, P t → OptAll P (f t)) : OptAll P (o.bind f) := by
  cases o with
  | none => trivial
  | some a => exact hf a h

theorem OptAll.or {P : State → Prop} {o p : Option State} (h : OptAll P o) (hp : OptAll P p) : OptAll P (o.or p) := by
  cases o with
  | none => exact hp
  | some a => exact h
theorem OptAll.filter {P : State → Prop} {o : Option State} {f : State → Bool} (h : OptAll P o) : OptAll P (o.filter f) := by
  cases o with
  | none => trivial
  | some a =>
    rw [Option.filter_some]
    split
    · exact h
    · trivial
theorem OptAll.findSome {α : Type} {P : State → Prop} {f : α → Option State} (h : ∀ a, OptAll P (f a)) {l : List α} : OptAll P (l.findSome? f) := by
  induction l with
  | nil => trivial
  | cons a t ih =>
    rw [List.findSome?_cons]
    split
    · next e => exact (h a).get e
    · exact ih

/-! ## Updates of one table -/

theorem MemCanonical.mapPkg {s : State} (h : MemCanonical s) (n : Nat) (f : Pkg → Pkg) : MemCanonical (s.mapPkg n f) := h
theorem MemCanonical.mapField {s : State} (h : MemCanonical s) (n m : Nat) (f : Field → Field) : MemCanonical (s.mapField n m f) := h
theorem MemCanonical.mapCtx {s : State} (h : MemCanonical s) (p n : Nat) (f : Ctx → Ctx) : MemCanonical (s.mapCtx p n f) := h
theorem MemCanonical.mapInst {s : State} (h : MemCanonical s) (n : Nat) (f : Inst → Inst) : MemCanonical (s.mapInst n f) := h
theorem MemCanonical.mapGroup {s : State} (h : MemCanonical s) (n : Nat) (f : Group → Group) : MemCanonical (s.mapGroup n f) := h
theorem MemCanonical.mapSplit {s : State} (h : MemCanonical s) (n m : Nat) (f : Split → Split) : MemCanonical (s.mapSplit n m f) := h
theorem MemCanonical.mapCore {s : State} (h : MemCanonical s) (p n : Nat) (f : Core → Core) : MemCanonical (s.mapCore p n f) := h
theorem MemCanonical.mapCores {s : State} (h : MemCanonical s) (f : Core → Core) : MemCanonical (s.mapCores f) := h
theorem MemCanonical.mapCoreOf {s : State} (h : MemCanonical s) (g : Group) (f : Core → Core) : MemCanonical (s.mapCoreOf g f) := by
  unfold State.mapCoreOf; split <;> exact h
theorem MemCanonical.mapPage {s : State} (h : MemCanonical s) (c p v : Nat) (f : Page → Page) : MemCanonical (s.mapPage c p v f) := h
theorem MemCanonical.mapLoad {s : State} (h : MemCanonical s) (n : Nat) (f : Load → Load) : MemCanonical (s.mapLoad n f) := h
theorem MemCanonical.dropLoad {s : State} (h : MemCanonical s) (n : Nat) : MemCanonical (s.dropLoad n) := h
theorem MemCanonical.mapWrite {s : State} (h : MemCanonical s) (n : Nat) (f : Write → Write) : MemCanonical (s.mapWrite n f) := h
theorem MemCanonical.dropWrite {s : State} (h : MemCanonical s) (n : Nat) : MemCanonical (s.dropWrite n) := h
theorem MemCanonical.mapRop {s : State} (h : MemCanonical s) (n : Nat) (f : Rop → Rop) : MemCanonical (s.mapRop n f) := h
theorem MemCanonical.dropRop {s : State} (h : MemCanonical s) (n : Nat) : MemCanonical (s.dropRop n) := h
theorem MemCanonical.dropNm {s : State} (h : MemCanonical s) (n : Nat) : MemCanonical (s.dropNm n) := h
theorem MemCanonical.mapStep {s : State} (h : MemCanonical s) (n : Nat) (f : Step → Step) : MemCanonical (s.mapStep n f) := h
theorem MemCanonical.dropStep {s : State} (h : MemCanonical s) (n : Nat) : MemCanonical (s.dropStep n) := h
theorem MemCanonical.mapEng {s : State} (h : MemCanonical s) (n : Nat) (f : Eng → Eng) : MemCanonical (s.mapEng n f) := h
theorem MemCanonical.dropEng {s : State} (h : MemCanonical s) (n : Nat) : MemCanonical (s.dropEng n) := h
theorem MemCanonical.mapDefOp {s : State} (h : MemCanonical s) (n : Nat) (f : DefOp → DefOp) : MemCanonical (s.mapDefOp n f) := h
theorem MemCanonical.dropDefOp {s : State} (h : MemCanonical s) (n : Nat) : MemCanonical (s.dropDefOp n) := h
theorem MemCanonical.bump {s : State} (h : MemCanonical s) : MemCanonical s.bump := h
theorem MemCanonical.bumpChoice {s : State} (h : MemCanonical s) : MemCanonical s.bumpChoice := h
theorem MemCanonical.bumpOrder {s : State} (h : MemCanonical s) (c l : Nat) : MemCanonical (bumpOrder s c l) := h
theorem MemCanonical.passClocks {s : State} (h : MemCanonical s) (dt dc : Nat) (slow : List (Nat × Nat × Nat)) : MemCanonical (passClocks s dt dc slow) := h
theorem MemCanonical.passTime {s : State} (h : MemCanonical s) (dt dc : Nat) (slow : List (Nat × Nat × Nat)) : MemCanonical (passTime s dt dc slow) := h

/-! ## Writes of memory -/

theorem MemCanonical.writeHome {s : State} (h : MemCanonical s) (p c v : Nat) (bs : List Byte) : MemCanonical (writeHome s p c v bs) :=
  ⟨writeHome_wf _ _ _ _ h.1, by rw [writeHome_hostMem]; exact h.2⟩
theorem MemCanonical.writePhys {s : State} (h : MemCanonical s) (key : List Byte) (tw a : Nat) (bs : List Byte) :
    MemCanonical (writePhys s key tw a bs) := ⟨writePhys_wf _ _ _ _ h.1, by rw [writePhys_hostMem]; exact h.2⟩
theorem MemCanonical.performAt {s : State} (h : MemCanonical s) (home c v k : Nat) (bs : List Byte) :
    MemCanonical (performAt s home c v k bs) := ⟨performAt_wf _ _ _ _ _ h.1, by rw [performAt_hostMem]; exact h.2⟩
theorem MemCanonical.writeSpan {s : State} (h : MemCanonical s) (p c v : Nat) (bs : List Byte) : MemCanonical (writeSpan s p c v bs) :=
  ⟨writeSpan_wf _ _ _ _ h.1, by rw [writeSpan_hostMem]; exact h.2⟩
/-- A device's write of its own, or its wait for the pins of a line or a link, or its drop. -/
theorem MemCanonical.sendOwn {s : State} (h : MemCanonical s) (w : HeldWrite) : MemCanonical (sendOwn s w) := by
  unfold Sys2Proof.Machine.sendOwn
  (repeat' split) <;> first | exact h | exact h.writeHome _ _ _ _
theorem MemCanonical.writeOwn {s : State} (h : MemCanonical s) (p c v : Nat) (bs : List Byte) : MemCanonical (writeOwn s p c v bs) :=
  h.foldl _ (fun _ _ h => h.sendOwn _)
theorem MemCanonical.writeHeldOnes {s : State} (h : MemCanonical s) : MemCanonical (writeHeldOnes s) := by
  unfold Sys2Proof.Machine.writeHeldOnes
  split
  · exact h
  · exact MemCanonical.foldl (s := { s with heldWrites := [] }) h _ (fun _ _ h => h.sendOwn _)
/-- The range-lock entries that stay on cores whose state is gone. -/
theorem MemCanonical.keepAt {s : State} (h : MemCanonical s) (p i : Nat) (l : List RltEntry) : MemCanonical (s.keepAt p i l) := by
  unfold State.keepAt
  (repeat' split) <;> exact h
theorem MemCanonical.keepEntries {s : State} (h : MemCanonical s) (cs : List Core) : MemCanonical (s.keepEntries cs) :=
  h.foldl _ (fun _ _ h => h.keepAt _ _ _)
theorem MemCanonical.fillHost {s : State} (h : MemCanonical s) (a : Nat) (bs : List Byte) : MemCanonical (fillHost s a bs) :=
  ⟨h.1, Memory.writeN_wf _ _ h.2⟩
theorem MemCanonical.writePool {s : State} (h : MemCanonical s) (p a : Nat) (bs : List Byte) : MemCanonical (writePool s p a bs) :=
  h.foldl _ (fun _ _ h => h.writePhys _ _ _ _)

/-! ## Registers -/

theorem MemCanonical.putWord {s : State} (h : MemCanonical s) (g sp n : Nat) (m : Mask) (l : Nat) (f : Nat → Word) :
    MemCanonical (putWord s g sp n m l f) := by unfold Sys2Proof.Machine.putWord; (repeat' split) <;> exact h
theorem MemCanonical.putWords {s : State} (h : MemCanonical s) (g sp n : Nat) (m : Mask) (l : Nat) (f : Nat → Nat) (w : Nat) :
    MemCanonical (putWords s g sp n m l f w) := by
  induction w with
  | zero => exact h
  | succ w ih => exact ih.putWord _ _ _ _ _ _
theorem MemCanonical.putPred {s : State} (h : MemCanonical s) (g sp n : Nat) (m : Mask) (f : Nat → Bool) : MemCanonical (putPred s g sp n m f) := h
theorem MemCanonical.setPending {s : State} (h : MemCanonical s) (g : Nat) (rs : List Nat) : MemCanonical (setPending s g rs) := h
theorem MemCanonical.voidRegs {s : State} (h : MemCanonical s) (g : Nat) (rs : List Nat) : MemCanonical (voidRegs s g rs) := h

/-! ## Faults and traps -/

theorem MemCanonical.freeSlot {s : State} (h : MemCanonical s) (g : Group) : MemCanonical (freeSlot s g) := h
theorem MemCanonical.creditCore {s : State} (h : MemCanonical s) (p c i : Nat) : MemCanonical (creditCore s p c i) := by
  unfold Sys2Proof.Machine.creditCore; split <;> exact h
theorem MemCanonical.storeEntry {s : State} (h : MemCanonical s) (p c : Nat) (q : Queue) : MemCanonical (storeEntry s p c q) :=
  ((h.writeOwn _ _ _ _).writeOwn _ _ _ _).writeOwn _ _ _ _
theorem MemCanonical.dropQueues {s : State} (h : MemCanonical s) (p c : Nat) : MemCanonical (dropQueues s p c) := by
  unfold Sys2Proof.Machine.dropQueues
  split
  · exact h
  · refine MemCanonical.mapCtx (h.foldl _ (fun s q h => ?_)) _ _ _
    split
    · exact h.storeEntry _ _ _
    · exact h
theorem MemCanonical.freeEntries {s : State} (h : MemCanonical s) (p c : Nat) : MemCanonical (freeEntries s p c) := h
theorem MemCanonical.endDefs {s : State} (h : MemCanonical s) (p c : Nat) : MemCanonical (endDefs s p c) := h

theorem MemCanonical.undefWork {s : State} (h : MemCanonical s) (e : Eng) : MemCanonical (undefWork s e) :=
  h.foldl _ (fun _ _ h => h.writeSpan _ _ _ _)
/-- What discarding a context's work writes and removes before its queues fall. -/
theorem MemCanonical.discardWork {s : State} (h : MemCanonical s) (p c : Nat) : MemCanonical (discardWork s p c) := by
  unfold Sys2Proof.Machine.discardWork
  refine MemCanonical.dropQueues (MemCanonical.endDefs ?_ p c) p c
  have h0 : ∀ l : List Eng, MemCanonical (l.foldl Sys2Proof.Machine.undefWork s) := fun l => h.foldl l (fun _ _ h => h.undefWork _)
  have h1 : ∀ (l : List Group) (u : State), MemCanonical u →
      MemCanonical (l.foldl (fun s g => if g.state = .saved then s else Sys2Proof.Machine.freeSlot s g) u) := by
    intro l u hu
    refine hu.foldl l (fun s g h => ?_)
    split <;> exact h
  have h2 : ∀ (l : List Core) (u : State), MemCanonical u →
      MemCanonical (l.foldl (fun s c => if coreHeld s c.inst p c.idx then Sys2Proof.Machine.creditCore s p c.idx c.inst else s) u) := by
    intro l u hu
    refine hu.foldl l (fun s c h => ?_)
    split
    · exact h.creditCore _ _ _
    · exact h
  refine ⟨(MemCanonical.keepEntries ?_ _).1, (MemCanonical.keepEntries ?_ _).2⟩ <;> exact ⟨(h2 _ _ (h1 _ _ (h0 _))).1, (h2 _ _ (h1 _ _ (h0 _))).2⟩

theorem MemCanonical.enterFaulted {s : State} (h : MemCanonical s) (p c : Nat) (f : CtxFaultInfo) : MemCanonical (enterFaulted s p c f) := by
  unfold Sys2Proof.Machine.enterFaulted
  split
  · exact h
  · split
    · exact MemCanonical.mapPkg (MemCanonical.mapCtx (MemCanonical.writeOwn (h.discardWork p c) _ _ _ _) _ _ _) _ _
    · exact h
theorem MemCanonical.raiseCtxFault {s : State} (h : MemCanonical s) (p c : Nat) (f : CtxFaultInfo) : MemCanonical (raiseCtxFault s p c f) := by
  unfold Sys2Proof.Machine.raiseCtxFault
  split
  · exact h
  · split
    · exact h.enterFaulted p c _
    · exact h
theorem MemCanonical.deviceFault {s : State} (h : MemCanonical s) (p : Nat) : MemCanonical (deviceFault s p) :=
  h.foldl _ (fun _ _ h => h.raiseCtxFault _ _ _)
theorem MemCanonical.takeTrap {s : State} (h : MemCanonical s) (g : Group) (sp : Split) (k : Inst) (t : Trap) (p : TrapAt) :
    MemCanonical (takeTrap s g sp k t p) := by
  unfold Sys2Proof.Machine.takeTrap
  split
  · split
    · exact h.raiseCtxFault _ _ _
    · exact h
  · exact h.raiseCtxFault _ _ _
theorem MemCanonical.denyTrap {s : State} (h : MemCanonical s) (g sp lane va : Nat) (p : TrapAt) : MemCanonical (denyTrap s g sp lane va p) := by
  unfold Sys2Proof.Machine.denyTrap
  split
  · exact h
  · split
    · exact h.takeTrap _ _ _ _ _
    · exact h.raiseCtxFault _ _ _
    · exact h

theorem MemCanonical.trapReaders {s : State} (h : MemCanonical s) (g : Nat) (rs : List Nat) : MemCanonical (trapReaders s g rs) := by
  unfold Sys2Proof.Machine.trapReaders
  split
  · exact h
  · split
    · exact h
    · refine h.foldl _ (fun s sp h => ?_)
      split
      · exact h.takeTrap _ _ _ _ _
      · exact h
theorem MemCanonical.setVoid {s : State} (h : MemCanonical s) (g : Nat) (rs : List Nat) : MemCanonical (setVoid s g rs) := by
  unfold Sys2Proof.Machine.setVoid
  split
  · exact h
  · exact (h.voidRegs g rs).trapReaders g _

/-! ## The end of an issue -/

theorem MemCanonical.commitOpen {s : State} (h : MemCanonical s) (g : Nat) : MemCanonical (commitOpen s g) := by
  unfold Sys2Proof.Machine.commitOpen
  split
  · exact h
  · split <;> exact h
theorem MemCanonical.liftQuarantine {s : State} (h : MemCanonical s) (g : Group) (rs : List Nat) : MemCanonical (liftQuarantine s g rs) := h
theorem MemCanonical.finish {s : State} (h : MemCanonical s) (x : Iss) (f : Form) : MemCanonical (finish s x f) := by
  unfold Sys2Proof.Machine.finish
  exact (show MemCanonical (noteLogs (Sys2Proof.Machine.liftQuarantine s x.g (f.reads x.k)) x f) by
    unfold noteLogs; split <;> exact h)
theorem MemCanonical.blockOn {s : State} (h : MemCanonical s) (x : Iss) (k : WaitKind) (on : Nat) (regs : List Nat) : MemCanonical (blockOn s x k on regs) := h
theorem MemCanonical.commitFor {s : State} (h : MemCanonical s) (x : Iss) (rs : List Nat) : MemCanonical (commitFor s x rs) := by
  unfold Sys2Proof.Machine.commitFor
  split
  · exact h.commitOpen _
  · exact h
theorem MemCanonical.blockOnRegs {s : State} (h : MemCanonical s) (x : Iss) (rs : List Nat) : MemCanonical (blockOnRegs s x rs) :=
  (h.commitFor x rs).blockOn _ _ _ _
theorem MemCanonical.issueTrap {s : State} (h : MemCanonical s) (x : Iss) (t : Trap) : MemCanonical (issueTrap s x t) := by
  unfold Sys2Proof.Machine.issueTrap
  split
  · exact h
  · exact h.takeTrap _ _ _ _ _
theorem MemCanonical.markDirty {s : State} (h : MemCanonical s) (x : Iss) : MemCanonical (markDirty s x) := h

/-- The states that a body answers with have property P. -/
def Res.All (P : State → Prop) : Res → Prop
  | .done t | .jump t | .blockIn t _ _ => P t
  | .trap _ | .block _ _ | .stall => True

theorem Res.All.done {P : State → Prop} {t : State} (h : P t) : (Res.done t).All P := h
theorem Res.All.jump {P : State → Prop} {t : State} (h : P t) : (Res.jump t).All P := h
theorem Res.All.blockIn {P : State → Prop} {t : State} {k : WaitKind} {l : List Nat} (h : P t) : (Res.blockIn t k l).All P := h
theorem Res.All.trap {P : State → Prop} {t : Trap} : (Res.trap t).All P := trivial
theorem Res.All.block {P : State → Prop} {k : WaitKind} {n : Nat} : (Res.block k n).All P := trivial
theorem Res.All.stall {P : State → Prop} : Res.stall.All P := trivial

theorem MemCanonical.endIssue {s : State} (h : MemCanonical s) (x : Iss) (f : Form) {r : Res} (hr : r.All MemCanonical) :
    MemCanonical (endIssue s x f r) := by
  cases r with
  | done t => exact MemCanonical.finish hr x f
  | jump t => exact hr
  | trap t => exact h.issueTrap x t
  | block k ops => cases k <;> first | exact h | exact (h.commitOpen _).blockOn _ _ _ _
  | blockIn t k rs => exact MemCanonical.blockOn hr x k 0 rs
  | stall => exact h

/-- An issue keeps the memories canonical where its body does. -/
theorem MemCanonical.issueAt {s : State} (h : MemCanonical s) (x : Iss) (f : Form) {body : Iss → Mask → State → Res}
    (hb : ∀ act, (body x act s).All MemCanonical) : MemCanonical (issueAt s x f body) := by
  unfold Sys2Proof.Machine.issueAt
  split
  · exact h
  · split
    · exact h.issueTrap _ _
    · exact h
    · exact h.blockOnRegs _ _
    · exact h.endIssue x f (hb _)

theorem MemCanonical.issueWith {s t : State} {f : Form} {body : Iss → Mask → State → Res} (h : MemCanonical s)
    (hb : ∀ x act, (body x act s).All MemCanonical) (ht : issueWith s f body = .next t) : MemCanonical t := by
  rcases issueWith_cases s f body with ⟨x, -, he⟩ | ⟨-, he⟩
  · rw [he] at ht; cases ht; exact h.issueAt x f (hb x)
  · rw [he] at ht; cases ht

/-- A body that writes registers only. -/
theorem MemCanonical.bodyWords {s : State} (h : MemCanonical s) (d w : Nat) (f : Iss → Nat → Nat) (x : Iss) (act : Mask) :
    (bodyWords d w f x act s).All MemCanonical := h.putWords _ _ _ _ _ _ _
theorem MemCanonical.bodyPred {s : State} (h : MemCanonical s) (d : Nat) (f : Iss → Nat → Bool) (x : Iss) (act : Mask) :
    (bodyPred d f x act s).All MemCanonical := h.putPred _ _ _ _ _
theorem MemCanonical.bodyCmp {s : State} (h : MemCanonical s) (word : Bool) (d : Nat) (f : Iss → Nat → Bool) (x : Iss) (act : Mask) :
    (bodyCmp word d f x act s).All MemCanonical := by
  unfold Sys2Proof.Machine.bodyCmp; split
  · exact MemCanonical.bodyWords h _ _ _ _ _
  · exact MemCanonical.bodyPred h _ _ _ _
theorem ifEnabled_next {o : Option State} {t : State} (h : ifEnabled o = .next t) : o = some t := by
  cases o with
  | none => cases h
  | some s => cases h; rfl

theorem MemCanonical.orTrap {t : Option Trap} {k : Res} (h : k.All MemCanonical) : (orTrap t k).All MemCanonical := by
  cases t with
  | none => exact h
  | some t => exact Res.All.trap
theorem MemCanonical.withTile {s : State} {x : Iss} {n : Nat} {reader : Bool} {k : Nat → Tile → Res}
    (h : ∀ e t, (k e t).All MemCanonical) : (withTile s x n reader k).All MemCanonical := by
  unfold Sys2Proof.Machine.withTile
  dsimp only
  split
  · exact Res.All.trap
  · exact Res.All.block
  · exact h _ _
end Sys2Proof.Machine
end

