-- ==== Sys2Proof/Laws/KeptInstr.lean ====
section
/-! SUPPORT. The memory's canonical form, kept by what every instruction does once its checks have passed: one lemma per body and per operation it calls. -/

namespace Sys2Proof.Machine

open Sys2Proof

/-! ## Machine/Compute.lean -/

theorem MemCanonical.intBody3 {s : State} (h : MemCanonical s) (w : FmtA) (f : Int → Int → Int → Int) (x : Iss) (act : Mask) :
    (intBody3 w f x act s).All MemCanonical := by unfold Sys2Proof.Machine.intBody3; exact h.bodyWords _ _ _ _ _

theorem MemCanonical.intBodyI {s : State} (h : MemCanonical s) (w : FmtI) (f : Int → Int → Int) (x : Iss) (act : Mask) :
    (intBodyI w f x act s).All MemCanonical := by unfold Sys2Proof.Machine.intBodyI; exact h.bodyWords _ _ _ _ _

theorem MemCanonical.bitBody {s : State} (h : MemCanonical s) (w : FmtA) (f : Nat → Nat → Nat → Nat) (x : Iss) (act : Mask) :
    (bitBody w f x act s).All MemCanonical := by unfold Sys2Proof.Machine.bitBody; exact h.bodyWords _ _ _ _ _

theorem MemCanonical.bitBodyI {s : State} (h : MemCanonical s) (w : FmtI) (f : Nat → Nat → Nat) (x : Iss) (act : Mask) :
    (bitBodyI w f x act s).All MemCanonical := by unfold Sys2Proof.Machine.bitBodyI; exact h.bodyWords _ _ _ _ _

/-! ## Machine/Integer.lean -/

theorem MemCanonical.shiftBody {s : State} (h : MemCanonical s) (w : FmtA) (f : Nat → Nat → Nat → Nat) (x : Iss) (act : Mask) :
    (Sys2Proof.Machine.shiftBody w f x act s).All MemCanonical := by
  unfold Sys2Proof.Machine.shiftBody; exact h.bodyWords _ _ _ _ _

theorem MemCanonical.shiftBodyI {s : State} (h : MemCanonical s) (w : FmtI) (f : Nat → Nat → Nat → Nat) (x : Iss) (act : Mask) :
    (Sys2Proof.Machine.shiftBodyI w f x act s).All MemCanonical := by
  unfold Sys2Proof.Machine.shiftBodyI; exact h.bodyWords _ _ _ _ _

theorem MemCanonical.countBody {s : State} (h : MemCanonical s) (w : FmtA) (f : Nat → Nat → Nat) (x : Iss) (act : Mask) :
    (Sys2Proof.Machine.countBody w f x act s).All MemCanonical := by
  unfold Sys2Proof.Machine.countBody; exact h.bodyWords _ _ _ _ _

/-! ## Machine/Float.lean -/

theorem MemCanonical.farithBody {s : State} (h : MemCanonical s) (w : FmtA) (f : RMode → FVal → FVal → FVal → FVal) (x : Iss) (act : Mask) :
    (farithBody w f x act s).All MemCanonical := by unfold Sys2Proof.Machine.farithBody; exact h.bodyWords _ _ _ _ _

theorem MemCanonical.farithBodyI {s : State} (h : MemCanonical s) (w : FmtI) (f : RMode → FVal → FVal → FVal) (x : Iss) (act : Mask) :
    (farithBodyI w f x act s).All MemCanonical := by unfold Sys2Proof.Machine.farithBodyI; exact h.bodyWords _ _ _ _ _

theorem MemCanonical.fminmaxBody {s : State} (h : MemCanonical s) (w : FmtA) (mx : Bool) (x : Iss) (act : Mask) :
    (fminmaxBody w mx x act s).All MemCanonical := by unfold Sys2Proof.Machine.fminmaxBody; exact h.bodyWords _ _ _ _ _

theorem MemCanonical.fminmaxBodyI {s : State} (h : MemCanonical s) (w : FmtI) (mx : Bool) (x : Iss) (act : Mask) :
    (fminmaxBodyI w mx x act s).All MemCanonical := by unfold Sys2Proof.Machine.fminmaxBodyI; exact h.bodyWords _ _ _ _ _

theorem MemCanonical.dminmaxBody {s : State} (h : MemCanonical s) (w : FmtA) (mx : Bool) (x : Iss) (act : Mask) :
    (dminmaxBody w mx x act s).All MemCanonical := by unfold Sys2Proof.Machine.dminmaxBody; exact h.bodyWords _ _ _ _ _

theorem MemCanonical.darithBody {s : State} (h : MemCanonical s) (w : FmtA) (f : RMode → FVal → FVal → FVal → FVal) (x : Iss) (act : Mask) :
    (darithBody w f x act s).All MemCanonical := by unfold Sys2Proof.Machine.darithBody; exact h.bodyWords _ _ _ _ _

theorem MemCanonical.advanceSt {s : State} (h : MemCanonical s) (x : Iss) (act : Mask) (code : Nat) :
    MemCanonical (Sys2Proof.Machine.advanceSt s x act code) := by
  unfold Sys2Proof.Machine.advanceSt
  repeat' first
    | with_reducible assumption
    | with_reducible apply MemCanonical.mapSplit
    | split
    | extract_lets

theorem MemCanonical.bfBody {s : State} (h : MemCanonical s) (w : FmtA) (f : RMode → FVal → FVal → FVal → FVal) (x : Iss) (act : Mask) :
    (Sys2Proof.Machine.bfBody w f x act s).All MemCanonical := by
  unfold Sys2Proof.Machine.bfBody
  repeat' first
    | with_reducible assumption
    | with_reducible apply MemCanonical.bodyWords
    | with_reducible apply MemCanonical.advanceSt
    | split
    | extract_lets

theorem MemCanonical.bodyFcvt {s : State} (h : MemCanonical s) (dst : BitVec 3) (w : FmtA) (x : Iss) (act : Mask) :
    (Sys2Proof.Machine.bodyFcvt dst w x act s).All MemCanonical := by
  unfold Sys2Proof.Machine.bodyFcvt
  repeat' first
    | with_reducible assumption
    | with_reducible apply MemCanonical.bodyWords
    | with_reducible apply MemCanonical.advanceSt
    | split
    | extract_lets

/-! ## Machine/Sfu.lean -/

theorem MemCanonical.sfuBody {s : State} (h : MemCanonical s) (op : Nat) (w : FmtA) (x : Iss) (act : Mask) :
    (Sys2Proof.Machine.sfuBody op w x act s).All MemCanonical := by
  unfold Sys2Proof.Machine.sfuBody; exact h.bodyWords _ _ _ _ _

/-! ## Machine/Lane.lean -/

theorem MemCanonical.shflBody {s : State} (h : MemCanonical s) (d a : Nat) (m : BitVec 8) (b : Iss → Nat → Nat) (x : Iss) (act : Mask) :
    (shflBody d a m b x act s).All MemCanonical := by unfold Sys2Proof.Machine.shflBody; exact h.bodyWords _ _ _ _ _

theorem MemCanonical.bodyVote {s : State} (h : MemCanonical s) (w : FmtA) (x : Iss) (act : Mask) :
    (Sys2Proof.Machine.bodyVote w x act s).All MemCanonical := by
  unfold Sys2Proof.Machine.bodyVote
  repeat' first
    | with_reducible assumption
    | with_reducible apply MemCanonical.bodyWords
    | split
    | extract_lets

theorem MemCanonical.bodyLred {s : State} (h : MemCanonical s) (w : FmtA) (x : Iss) (act : Mask) :
    (Sys2Proof.Machine.bodyLred w x act s).All MemCanonical := by
  unfold Sys2Proof.Machine.bodyLred
  repeat' first
    | with_reducible assumption
    | with_reducible apply MemCanonical.bodyWords
    | split
    | extract_lets

theorem MemCanonical.bodyLscan {s : State} (h : MemCanonical s) (w : FmtA) (x : Iss) (act : Mask) :
    (Sys2Proof.Machine.bodyLscan w x act s).All MemCanonical := by
  unfold Sys2Proof.Machine.bodyLscan
  repeat' first
    | with_reducible assumption
    | with_reducible apply MemCanonical.bodyWords
    | split
    | extract_lets

theorem MemCanonical.bodyPcnt {s : State} (h : MemCanonical s) (w : FmtA) (x : Iss) (act : Mask) :
    (Sys2Proof.Machine.bodyPcnt w x act s).All MemCanonical := by
  unfold Sys2Proof.Machine.bodyPcnt
  repeat' first
    | with_reducible assumption
    | with_reducible apply MemCanonical.bodyWords
    | split
    | extract_lets

/-! ## Machine/Access.lean -/

theorem MemCanonical.returnCt {s : State} (h : MemCanonical s) (gid : Nat) (holders : List Nat) (id ct : Nat) :
    MemCanonical (returnCt s gid holders id ct) := h.mapGroup _ _

theorem MemCanonical.shareHolders {s : State} (h : MemCanonical s) (gid old new : Nat) :
    MemCanonical (Sys2Proof.Machine.shareHolders s gid old new) := by
  unfold Sys2Proof.Machine.shareHolders
  repeat' first
    | with_reducible assumption
    | split
    | extract_lets
    | (with_reducible apply MemCanonical.mk; first | with_reducible assumption)

theorem MemCanonical.acquireAs {s : State} (h : MemCanonical s) (x : Iss) (bind : Nat) :
    MemCanonical (Sys2Proof.Machine.acquireAs s x bind) := by
  unfold Sys2Proof.Machine.acquireAs
  split
  · exact h.mapCore _ _ _
  · exact h

theorem MemCanonical.acquireAt {s : State} (h : MemCanonical s) (x : Iss) (scope : Nat) :
    MemCanonical (Sys2Proof.Machine.acquireAt s x scope) := by
  exact h.acquireAs x _

theorem MemCanonical.queueRecord {s : State} (h : MemCanonical s) (pkg ctx : Nat) (r : FaultRec) :
    MemCanonical (Sys2Proof.Machine.queueRecord s pkg ctx r) := by
  unfold Sys2Proof.Machine.queueRecord
  repeat' first
    | with_reducible assumption
    | with_reducible apply MemCanonical.mapCtx
    | split
    | extract_lets

theorem MemCanonical.unpark {s : State} (h : MemCanonical s) (gid : Nat) :
    MemCanonical (Sys2Proof.Machine.unpark s gid) := by
  unfold Sys2Proof.Machine.unpark
  repeat' first
    | with_reducible assumption
    | with_reducible apply MemCanonical.mapGroup
    | split
    | extract_lets

/-- The register of a denied access, whose lanes that did not fault keep what they read. -/
theorem MemCanonical.endDenied {s : State} (h : MemCanonical s) (gid : Nat) (regs : List Nat) (ls : List LaneAcc) (once : Bool) (f : LaneAcc → Nat) :
    MemCanonical (endDenied s gid regs ls once f) := by
  unfold Sys2Proof.Machine.endDenied
  refine MemCanonical.setVoid ?_ _ _
  split
  · exact h
  · exact h.mapGroup _ _

theorem MemCanonical.endDeniedLoad {s : State} (h : MemCanonical s) (l : Load) : MemCanonical (endDeniedLoad s l) := by
  unfold Sys2Proof.Machine.endDeniedLoad
  split
  · exact (h.dropLoad _).endDenied _ _ _ _ _
  · exact h

theorem MemCanonical.endWindowDenials {s : State} (h : MemCanonical s) (gid spid : Nat) : MemCanonical (endWindowDenials s gid spid) := by
  unfold Sys2Proof.Machine.endWindowDenials
  dsimp only
  have hl := h.foldl (s.loads.filter (fun l => l.gid == gid && l.holders.getLast? == some spid && anyFailed l.lanes))
    (fun _ l (h : MemCanonical _) => h.endDeniedLoad l)
  split
  · exact hl.denyTrap _ _ _ _ _
  · exact hl

theorem MemCanonical.faultRec {s : State} (h : MemCanonical s) (pkg ctx : Nat) (kind cause : Nat) (noreplay : Bool) (gid : Word) (va pch : Nat) (lanes : Mask) :
    MemCanonical (Sys2Proof.Machine.faultRec s pkg ctx kind cause noreplay gid va pch lanes) := by
  unfold Sys2Proof.Machine.faultRec
  repeat' first
    | with_reducible assumption
    | with_reducible apply MemCanonical.queueRecord
    | split
    | extract_lets

/-! ## Machine/MemInstr.lean -/

theorem MemCanonical.issueLoad {s : State} (h : MemCanonical s) (x : Iss) (use : LoadUse) (width : Nat) (plain : Bool) (acq : Option Nat) (kind : Nat) (dst : List Nat) (act : Mask) (la : List (Nat × Nat)) :
    MemCanonical (Sys2Proof.Machine.issueLoad s x use width plain acq kind dst act la) := by
  unfold Sys2Proof.Machine.issueLoad
  repeat' first
    | with_reducible assumption
    | with_reducible apply MemCanonical.setPending
    | with_reducible apply MemCanonical.mapSplit
    | split
    | extract_lets
    | (with_reducible apply MemCanonical.mk; first | with_reducible assumption | with_reducible apply MemCanonical.setPending | with_reducible apply MemCanonical.mapSplit)

theorem MemCanonical.bodyLd {s : State} (h : MemCanonical s) (ty : BitVec 4) (w : FmtM) (x : Iss) (act : Mask) :
    (Sys2Proof.Machine.bodyLd ty w x act s).All MemCanonical := by
  unfold Sys2Proof.Machine.bodyLd
  repeat' first
    | with_reducible assumption
    | with_reducible apply MemCanonical.issueLoad
    | split
    | extract_lets
    | dsimp +zetaDelta only [Res.All, OptAll]

theorem MemCanonical.bodyLdc {s : State} (h : MemCanonical s) (w : FmtM) (x : Iss) (act : Mask) :
    (Sys2Proof.Machine.bodyLdc w x act s).All MemCanonical := by
  unfold Sys2Proof.Machine.bodyLdc
  repeat' first
    | with_reducible assumption
    | with_reducible apply MemCanonical.issueLoad
    | split
    | extract_lets
    | dsimp +zetaDelta only [Res.All, OptAll]

theorem MemCanonical.bodyPref {s : State} (h : MemCanonical s) (u0 : Iss) (u1 : Mask) :
    (Sys2Proof.Machine.bodyPref u0 u1 s).All MemCanonical := by
  unfold Sys2Proof.Machine.bodyPref
  repeat' first
    | with_reducible assumption
    | with_reducible apply Res.All.done
    | split
    | extract_lets

theorem MemCanonical.issueWrite {s : State} (h : MemCanonical s) (x : Iss) (atom : Option Nat) (use : WriteUse) (width : Nat) (acq : Option Nat) (kind : Nat) (act : Mask) (once : Bool) (lanes : List LaneAcc) (rel : Bool) :
    MemCanonical (Sys2Proof.Machine.issueWrite s x atom use width acq kind act once lanes rel) := by
  unfold Sys2Proof.Machine.issueWrite
  repeat' first
    | with_reducible assumption
    | split
    | extract_lets
    | (with_reducible apply MemCanonical.mk; first | with_reducible assumption)

theorem MemCanonical.dropGuests {s : State} (h : MemCanonical s) (pkg ctx : Nat) (vas : List Nat) :
    MemCanonical (Sys2Proof.Machine.dropGuests s pkg ctx vas) := by
  unfold Sys2Proof.Machine.dropGuests
  repeat' first
    | with_reducible assumption
    | split
    | extract_lets
    | (with_reducible apply MemCanonical.mk; first | with_reducible assumption)

theorem MemCanonical.bodySt {s : State} (h : MemCanonical s) (ty : BitVec 4) (w : FmtM) (x : Iss) (act : Mask) :
    (Sys2Proof.Machine.bodySt ty w x act s).All MemCanonical := by
  unfold Sys2Proof.Machine.bodySt
  repeat' first
    | with_reducible assumption
    | with_reducible apply MemCanonical.advanceSt
    | with_reducible apply MemCanonical.issueWrite
    | with_reducible apply MemCanonical.dropGuests
    | split
    | extract_lets
    | dsimp +zetaDelta only [Res.All, OptAll]

theorem MemCanonical.bodyAtom {s : State} (h : MemCanonical s) (op : BitVec 4) (w : FmtM) (x : Iss) (act : Mask) :
    (Sys2Proof.Machine.bodyAtom op w x act s).All MemCanonical := by
  unfold Sys2Proof.Machine.bodyAtom
  repeat' first
    | with_reducible assumption
    | with_reducible apply MemCanonical.markDirty
    | with_reducible apply MemCanonical.setPending
    | with_reducible apply MemCanonical.issueWrite
    | with_reducible apply MemCanonical.dropGuests
    | split
    | extract_lets
    | dsimp +zetaDelta only [Res.All, OptAll]

theorem MemCanonical.bodyRed {s : State} (h : MemCanonical s) (op : BitVec 4) (w : FmtM) (x : Iss) (act : Mask) :
    (Sys2Proof.Machine.bodyRed op w x act s).All MemCanonical := by
  unfold Sys2Proof.Machine.bodyRed
  repeat' first
    | with_reducible assumption
    | with_reducible apply MemCanonical.issueWrite
    | with_reducible apply MemCanonical.dropGuests
    | with_reducible apply MemCanonical.markDirty
    | split
    | extract_lets
    | dsimp +zetaDelta only [Res.All, OptAll]

theorem MemCanonical.bodyFence {s : State} (h : MemCanonical s) (w : FmtM) (x : Iss) (u2 : Mask) :
    (Sys2Proof.Machine.bodyFence w x u2 s).All MemCanonical := by
  unfold Sys2Proof.Machine.bodyFence
  repeat' first
    | with_reducible assumption
    | with_reducible apply Res.All.done
    | with_reducible apply Res.All.block
    | split
    | extract_lets

theorem MemCanonical.bodyFences {s : State} (h : MemCanonical s) (w : FmtM) (x : Iss) (u2 : Mask) :
    (Sys2Proof.Machine.bodyFences w x u2 s).All MemCanonical := by
  unfold Sys2Proof.Machine.bodyFences
  repeat' first
    | with_reducible assumption
    | with_reducible apply MemCanonical.mapSplit
    | split
    | extract_lets
    | dsimp +zetaDelta only [Res.All, OptAll]

/-! ## Machine/Flow.lean -/

theorem MemCanonical.place {s : State} (h : MemCanonical s) (x : Iss) (dest : Nat → Nat) (d0 : Nat) (others : List Nat) :
    MemCanonical (place s x dest d0 others) := by
  unfold Sys2Proof.Machine.place
  exact MemCanonical.foldl (MemCanonical.mapGroup (MemCanonical.mapSplit h _ _ _) _ _) _ (fun _ _ h => h.shareHolders _ _ _)

theorem MemCanonical.transferTo {s : State} (x : Iss) (act : Mask) (dest : Nat → Nat) {pre : State → State}
    (h : MemCanonical (pre s)) (hs : MemCanonical s) : (transferTo s x act dest pre).All MemCanonical := by
  unfold Sys2Proof.Machine.transferTo
  dsimp only
  split
  · exact hs
  · split
    · exact Res.All.stall
    · split
      · exact Res.All.trap
      · exact Res.All.jump (h.place _ _ _ _)

theorem MemCanonical.pushLinks {s : State} (h : MemCanonical s) (x : Iss) (act : Mask) :
    MemCanonical (Sys2Proof.Machine.pushLinks x act s) := by
  unfold Sys2Proof.Machine.pushLinks
  repeat' first
    | with_reducible assumption
    | with_reducible apply MemCanonical.markDirty
    | with_reducible apply MemCanonical.mapGroup
    | split
    | extract_lets

theorem MemCanonical.popLinks {s : State} (h : MemCanonical s) (x : Iss) (act : Mask) :
    MemCanonical (Sys2Proof.Machine.popLinks x act s) := by
  unfold Sys2Proof.Machine.popLinks
  repeat' first
    | with_reducible assumption
    | with_reducible apply MemCanonical.markDirty
    | with_reducible apply MemCanonical.mapGroup
    | split
    | extract_lets

theorem MemCanonical.transferReads {s : State} (h : MemCanonical s) (x : Iss) (f : Form) : MemCanonical (transferReads x f s) :=
  (h.liftQuarantine _ _).mapSplit _ _ _

theorem MemCanonical.bodyBra {s : State} (h : MemCanonical s) (w : FmtC) (x : Iss) (act : Mask) : (bodyBra w x act s).All MemCanonical :=
  MemCanonical.transferTo x act _ (h.transferReads _ _) h

theorem MemCanonical.bodyBrx {s : State} (h : MemCanonical s) (w : FmtC) (x : Iss) (act : Mask) : (bodyBrx w x act s).All MemCanonical :=
  MemCanonical.transferTo x act _ (h.transferReads _ _) h

theorem MemCanonical.bodyCall {s : State} (h : MemCanonical s) (w : FmtC) (x : Iss) (act : Mask) :
    (Sys2Proof.Machine.bodyCall w x act s).All MemCanonical := by
  unfold Sys2Proof.Machine.bodyCall
  repeat' first
    | with_reducible assumption
    | with_reducible apply MemCanonical.transferReads
    | with_reducible apply MemCanonical.transferTo
    | with_reducible apply MemCanonical.pushLinks
    | split
    | extract_lets

theorem MemCanonical.bodyCalli {s : State} (h : MemCanonical s) (w : FmtC) (x : Iss) (act : Mask) :
    (Sys2Proof.Machine.bodyCalli w x act s).All MemCanonical := by
  unfold Sys2Proof.Machine.bodyCalli
  repeat' first
    | with_reducible assumption
    | with_reducible apply MemCanonical.transferTo
    | with_reducible apply MemCanonical.pushLinks
    | with_reducible apply MemCanonical.transferReads
    | split
    | extract_lets

theorem MemCanonical.bodyRet {s : State} (h : MemCanonical s) (u0 : FmtC) (x : Iss) (act : Mask) :
    (Sys2Proof.Machine.bodyRet u0 x act s).All MemCanonical := by
  unfold Sys2Proof.Machine.bodyRet
  repeat' first
    | with_reducible assumption
    | with_reducible apply MemCanonical.transferReads
    | with_reducible apply MemCanonical.transferTo
    | with_reducible apply MemCanonical.popLinks
    | with_reducible apply Res.All.trap
    | split
    | extract_lets

theorem MemCanonical.parkJump {s : State} (h : MemCanonical s) (x : Iss) (act : Mask) (va home pch cause : Nat) :
    MemCanonical (Sys2Proof.Machine.parkJump s x act va home pch cause) := by
  unfold Sys2Proof.Machine.parkJump
  repeat' first
    | with_reducible assumption
    | with_reducible apply MemCanonical.faultRec
    | with_reducible apply MemCanonical.mapGroup
    | split
    | extract_lets
    | (with_reducible apply MemCanonical.mk; first | with_reducible assumption | with_reducible apply MemCanonical.faultRec | with_reducible apply MemCanonical.mapGroup)

theorem MemCanonical.uncorr {s : State} (h : MemCanonical s) (x : Iss) (va : Nat) :
    MemCanonical (Sys2Proof.Machine.uncorr s x va) := by
  unfold Sys2Proof.Machine.uncorr
  repeat' first
    | with_reducible assumption
    | with_reducible apply MemCanonical.raiseCtxFault
    | split
    | extract_lets

theorem MemCanonical.tableWord {s : State} (h : MemCanonical s) (x : Iss) (act : Mask) (w : FmtC) (off : Nat) {k : Nat → Res}
    (hk : ∀ n, (k n).All MemCanonical) : (tableWord s x act w off k).All MemCanonical := by
  unfold Sys2Proof.Machine.tableWord
  dsimp only
  split
  · split
    · exact Res.All.jump (h.uncorr _ _)
    · exact hk _
  · exact Res.All.jump (h.parkJump _ _ _ _ _ _)
  · exact Res.All.trap

theorem MemCanonical.tableDests {s : State} (h : MemCanonical s) (x : Iss) (act : Mask) (w : FmtC) (l : List Nat) :
    ∀ {k : List (Nat × Nat) → Res}, (∀ r, (k r).All MemCanonical) → (tableDests s x act w l k).All MemCanonical := by
  induction l with
  | nil => intro k hk; exact hk _
  | cons i t ih =>
    intro k hk
    exact h.tableWord _ _ _ _ (fun d => ih (fun r => hk _))

theorem MemCanonical.raiseUncorr {s : State} (h : MemCanonical s) (pkg ctx core va : Nat) : MemCanonical (raiseUncorr s pkg ctx core va) :=
  h.raiseCtxFault _ _ _

/-- A fetch dropped at its home. -/
theorem MemCanonical.loseFetch {s : State} (h : MemCanonical s) (x : Iss) (va : Nat) : MemCanonical (loseFetch s x va) :=
  MemCanonical.mapSplit (MemCanonical.mapPkg h _ _) _ _ _

theorem MemCanonical.bodyJmpt {s : State} (h : MemCanonical s) (w : FmtC) (x : Iss) (act : Mask) : (bodyJmpt w x act s).All MemCanonical := by
  unfold Sys2Proof.Machine.bodyJmpt
  dsimp only
  split
  · exact Res.All.stall
  · split
    · exact Res.All.trap
    · split
      · exact Res.All.stall
      · split
        · exact Res.All.jump (h.loseFetch _ _)
        · refine h.tableWord _ _ _ _ (fun m => ?_)
          split
          · exact Res.All.trap
          · split
            · exact Res.All.trap
            · exact h.tableDests _ _ _ _ (fun _ => MemCanonical.transferTo _ _ _ (h.transferReads _ _) h)

theorem MemCanonical.settleBarriers {s : State} (h : MemCanonical s) (iid : Nat) :
    MemCanonical (Sys2Proof.Machine.settleBarriers s iid) := by
  unfold Sys2Proof.Machine.settleBarriers
  repeat' first
    | with_reducible assumption
    | with_reducible apply MemCanonical.mapInst
    | split
    | extract_lets
    | (with_reducible apply MemCanonical.mk; first | with_reducible assumption | with_reducible apply MemCanonical.mapInst | split)

theorem MemCanonical.lastLaneLeft {s : State} (h : MemCanonical s) (x : Iss) :
    MemCanonical (Sys2Proof.Machine.lastLaneLeft s x) := by
  unfold Sys2Proof.Machine.lastLaneLeft
  repeat' first
    | with_reducible assumption
    | with_reducible apply MemCanonical.commitOpen
    | with_reducible apply MemCanonical.mapInst
    | with_reducible apply MemCanonical.settleBarriers
    | with_reducible apply MemCanonical.mapGroup
    | split
    | extract_lets

theorem MemCanonical.bodyExit {s : State} (h : MemCanonical s) (u0 : FmtC) (x : Iss) (act : Mask) :
    (Sys2Proof.Machine.bodyExit u0 x act s).All MemCanonical := by
  unfold Sys2Proof.Machine.bodyExit
  repeat' first
    | with_reducible assumption
    | with_reducible apply MemCanonical.mapGroup
    | with_reducible apply MemCanonical.lastLaneLeft
    | with_reducible apply MemCanonical.settleBarriers
    | with_reducible apply MemCanonical.mapSplit
    | split
    | extract_lets
    | dsimp +zetaDelta only [Res.All, OptAll]

theorem MemCanonical.bodyRte {s : State} (h : MemCanonical s) (w : FmtC) (x : Iss) (u2 : Mask) :
    (Sys2Proof.Machine.bodyRte w x u2 s).All MemCanonical := by
  unfold Sys2Proof.Machine.bodyRte
  repeat' first
    | with_reducible assumption
    | with_reducible apply MemCanonical.mapSplit
    | split
    | extract_lets
    | dsimp +zetaDelta only [Res.All, OptAll]

theorem MemCanonical.bodyRgn {s : State} (h : MemCanonical s) (w : FmtI) (x : Iss) (u2 : Mask) :
    (Sys2Proof.Machine.bodyRgn w x u2 s).All MemCanonical := by
  unfold Sys2Proof.Machine.bodyRgn
  repeat' first
    | with_reducible assumption
    | with_reducible apply MemCanonical.mapSplit
    | split
    | extract_lets
    | dsimp +zetaDelta only [Res.All, OptAll]

theorem MemCanonical.bodyTrap {s : State} (h : MemCanonical s) (w : FmtI) (u1 : Iss) (u2 : Mask) :
    (Sys2Proof.Machine.bodyTrap w u1 u2 s).All MemCanonical := by
  unfold Sys2Proof.Machine.bodyTrap
  repeat' first
    | with_reducible apply Res.All.trap
    | split
    | extract_lets

theorem MemCanonical.bodyNop {s : State} (h : MemCanonical s) (u0 : Iss) (u1 : Mask) :
    (Sys2Proof.Machine.bodyNop u0 u1 s).All MemCanonical := by
  unfold Sys2Proof.Machine.bodyNop
  repeat' first
    | with_reducible assumption
    | with_reducible apply Res.All.done
    | split
    | extract_lets

theorem MemCanonical.waitUntil {s : State} (h : MemCanonical s) (f : Form) (x : Iss) (t : Nat) : (waitUntil f x t s).All MemCanonical := by
  unfold Sys2Proof.Machine.waitUntil
  dsimp only
  split
  · exact Res.All.done h
  · exact Res.All.blockIn ((h.liftQuarantine _ _).mapSplit _ _ _)

theorem MemCanonical.bodyWaitt {s : State} (h : MemCanonical s) (w : FmtA) (x : Iss) (u2 : Mask) : (bodyWaitt w x u2 s).All MemCanonical :=
  h.waitUntil _ _ _

theorem MemCanonical.bodyWaittD {s : State} (h : MemCanonical s) (w : FmtA) (x : Iss) (u2 : Mask) : (bodyWaittD w x u2 s).All MemCanonical :=
  h.waitUntil _ _ _

theorem MemCanonical.bodyYield {s : State} (h : MemCanonical s) (x : Iss) (u1 : Mask) : (bodyYield x u1 s).All MemCanonical :=
  Res.All.done (h.mapSplit _ _ _)

theorem MemCanonical.bodyClk {s : State} (h : MemCanonical s) (w : FmtA) (v : State → Group → Nat) (x : Iss) (act : Mask) :
    (Sys2Proof.Machine.bodyClk w v x act s).All MemCanonical := by
  unfold Sys2Proof.Machine.bodyClk
  repeat' first
    | with_reducible assumption
    | with_reducible exact True.intro
    | with_reducible apply MemCanonical.putWords
    | with_reducible apply Res.All.done
    | with_reducible apply Res.All.jump
    | with_reducible apply Res.All.blockIn
    | with_reducible apply Res.All.trap
    | with_reducible apply Res.All.block
    | with_reducible apply Res.All.stall
    | split
    | extract_lets
    | dsimp +zetaDelta only [Res.All, OptAll]

theorem MemCanonical.bodySrd {s : State} (h : MemCanonical s) (w : FmtI) (x : Iss) (act : Mask) :
    (Sys2Proof.Machine.bodySrd w x act s).All MemCanonical := by
  unfold Sys2Proof.Machine.bodySrd
  repeat' first
    | with_reducible assumption
    | with_reducible exact True.intro
    | with_reducible apply MemCanonical.putWord
    | with_reducible apply Res.All.done
    | with_reducible apply Res.All.jump
    | with_reducible apply Res.All.blockIn
    | with_reducible apply Res.All.trap
    | with_reducible apply Res.All.block
    | with_reducible apply Res.All.stall
    | split
    | extract_lets
    | dsimp +zetaDelta only [Res.All, OptAll]

theorem MemCanonical.bodySwr {s : State} (h : MemCanonical s) (w : FmtI) (x : Iss) (u2 : Mask) :
    (Sys2Proof.Machine.bodySwr w x u2 s).All MemCanonical := by
  unfold Sys2Proof.Machine.bodySwr
  repeat' first
    | with_reducible assumption
    | with_reducible exact True.intro
    | with_reducible apply MemCanonical.markDirty
    | with_reducible apply MemCanonical.mapGroup
    | with_reducible apply MemCanonical.mapSplit
    | with_reducible apply Res.All.done
    | with_reducible apply Res.All.jump
    | with_reducible apply Res.All.blockIn
    | with_reducible apply Res.All.trap
    | with_reducible apply Res.All.block
    | with_reducible apply Res.All.stall
    | split
    | extract_lets
    | dsimp +zetaDelta only [Res.All, OptAll]

/-! ## Machine/Barrier.lean -/

theorem MemCanonical.ensureBarriers {s : State} (h : MemCanonical s) (iid lv : Nat) (nodes : List Nat) :
    MemCanonical (Sys2Proof.Machine.ensureBarriers s iid lv nodes) := by
  unfold Sys2Proof.Machine.ensureBarriers
  repeat' first
    | with_reducible assumption
    | with_reducible exact True.intro
    | with_reducible apply MemCanonical.mapInst
    | split
    | extract_lets

theorem MemCanonical.arriveAt {s : State} (h : MemCanonical s) (x : Iss) (lv node : Nat) :
    MemCanonical (Sys2Proof.Machine.arriveAt s x lv node) := by
  unfold Sys2Proof.Machine.arriveAt
  repeat' first
    | with_reducible assumption
    | with_reducible apply MemCanonical.mapInst
    | with_reducible apply MemCanonical.mapGroup
    | split
    | extract_lets

theorem MemCanonical.arrive {s : State} (h : MemCanonical s) (x : Iss) (lv : Nat) :
    MemCanonical (Sys2Proof.Machine.arrive s x lv).1 := by
  unfold Sys2Proof.Machine.arrive
  repeat' first
    | with_reducible assumption
    | with_reducible apply MemCanonical.settleBarriers
    | with_reducible apply MemCanonical.ensureBarriers
    | with_reducible apply MemCanonical.arriveAt
    | with_reducible refine MemCanonical.foldl ?_ _ (fun _ _ _ => ?_)
    | split
    | extract_lets

theorem MemCanonical.clearMarks {s : State} (h : MemCanonical s) (gid lv : Nat) (m : Mask) :
    MemCanonical (Sys2Proof.Machine.clearMarks s gid lv m) := by
  unfold Sys2Proof.Machine.clearMarks
  repeat' first
    | with_reducible assumption
    | with_reducible apply MemCanonical.mapGroup
    | split
    | extract_lets

theorem MemCanonical.setMarks {s : State} (h : MemCanonical s) (x : Iss) (lv : Nat) (joined : List (Nat × Nat)) :
    MemCanonical (Sys2Proof.Machine.setMarks s x lv joined) := by
  unfold Sys2Proof.Machine.setMarks
  repeat' first
    | with_reducible assumption
    | with_reducible apply MemCanonical.clearMarks
    | with_reducible apply MemCanonical.mapGroup
    | split
    | extract_lets

theorem MemCanonical.putStatus {s : State} (h : MemCanonical s) (gid spid : Nat) (d : Option Nat) (v : Nat) :
    MemCanonical (Sys2Proof.Machine.putStatus s gid spid d v) := by
  unfold Sys2Proof.Machine.putStatus
  repeat' first
    | with_reducible assumption
    | with_reducible apply MemCanonical.putWord
    | split
    | extract_lets

theorem MemCanonical.endNodeWait {s : State} (h : MemCanonical s) (x : Iss) (lv st : Nat) (d : Option Nat) :
    MemCanonical (Sys2Proof.Machine.endNodeWait s x lv st d) := by
  unfold Sys2Proof.Machine.endNodeWait
  repeat' first
    | with_reducible assumption
    | with_reducible apply MemCanonical.acquireAt
    | with_reducible apply MemCanonical.clearMarks
    | with_reducible apply MemCanonical.putStatus
    | split
    | extract_lets

theorem MemCanonical.waitNodes {s : State} (h : MemCanonical s) (x : Iss) (lv : Nat) (waits : List (Nat × Nat)) (d : Option Nat) :
    (Sys2Proof.Machine.waitNodes s x lv waits d).All MemCanonical := by
  unfold Sys2Proof.Machine.waitNodes
  repeat' first
    | with_reducible assumption
    | with_reducible apply MemCanonical.settleBarriers
    | with_reducible apply MemCanonical.endNodeWait
    | with_reducible apply MemCanonical.mapSplit
    | split
    | extract_lets
    | dsimp +zetaDelta only [Res.All, OptAll]

theorem MemCanonical.bodyBar {s : State} (h : MemCanonical s) (w : FmtS) (x : Iss) (u2 : Mask) :
    (Sys2Proof.Machine.bodyBar w x u2 s).All MemCanonical := by
  unfold Sys2Proof.Machine.bodyBar
  repeat' first
    | with_reducible assumption
    | with_reducible apply MemCanonical.waitNodes
    | with_reducible apply MemCanonical.arrive
    | with_reducible apply MemCanonical.markDirty
    | with_reducible apply MemCanonical.setMarks
    | with_reducible apply Res.All.block
    | split
    | extract_lets

theorem MemCanonical.bodyBara {s : State} (h : MemCanonical s) (w : FmtS) (x : Iss) (u2 : Mask) :
    (Sys2Proof.Machine.bodyBara w x u2 s).All MemCanonical := by
  unfold Sys2Proof.Machine.bodyBara
  repeat' first
    | with_reducible assumption
    | with_reducible apply MemCanonical.arrive
    | with_reducible apply MemCanonical.markDirty
    | with_reducible apply MemCanonical.setMarks
    | with_reducible apply Res.All.done
    | split
    | extract_lets
    | dsimp +zetaDelta only [Res.All, OptAll]

theorem MemCanonical.bodyBarw {s : State} (h : MemCanonical s) (w : FmtS) (x : Iss) (u2 : Mask) :
    (Sys2Proof.Machine.bodyBarw w x u2 s).All MemCanonical := by
  unfold Sys2Proof.Machine.bodyBarw
  repeat' first
    | with_reducible assumption
    | with_reducible apply MemCanonical.waitNodes
    | with_reducible apply MemCanonical.settleBarriers
    | with_reducible apply MemCanonical.markDirty
    | with_reducible apply MemCanonical.endNodeWait
    | with_reducible apply Res.All.done
    | with_reducible apply Res.All.trap
    | split
    | extract_lets

theorem MemCanonical.abortObjs {s : State} (h : MemCanonical s) (iid : Nat) :
    MemCanonical (Sys2Proof.Machine.abortObjs s iid) := by
  unfold Sys2Proof.Machine.abortObjs
  repeat' first
    | with_reducible assumption
    | with_reducible apply MemCanonical.mapCores
    | split
    | extract_lets
    | (with_reducible apply MemCanonical.mk; first | with_reducible assumption | split)

theorem MemCanonical.raiseLine (fuel : Nat) : ∀ {s : State}, MemCanonical s → ∀ iid lv node : Nat, MemCanonical (raiseLine s iid lv node fuel) := by
  induction fuel with
  | zero => intro s h _ _ _; exact h
  | succ n ih =>
    intro s h iid lv node
    unfold Sys2Proof.Machine.raiseLine
    split
    · exact h
    · split
      · exact h
      · refine MemCanonical.foldl (MemCanonical.abortObjs (h.mapInst _ _) _) _ (fun t c ht => ?_)
        split
        · exact ht
        · exact ih ht _ _ _

theorem MemCanonical.bodyAbort {s : State} (h : MemCanonical s) (w : FmtS) (x : Iss) (act : Mask) :
    (Sys2Proof.Machine.bodyAbort w x act s).All MemCanonical := by
  unfold Sys2Proof.Machine.bodyAbort
  repeat' first
    | with_reducible assumption
    | with_reducible refine MemCanonical.raiseLine _ ?_ _ _ _
    | with_reducible apply MemCanonical.markDirty
    | with_reducible refine MemCanonical.foldl ?_ _ (fun _ _ _ => ?_)
    | split
    | extract_lets
    | dsimp +zetaDelta only [Res.All, OptAll]

theorem MemCanonical.bodyAbchk {s : State} (h : MemCanonical s) (w : FmtS) (x : Iss) (act : Mask) :
    (Sys2Proof.Machine.bodyAbchk w x act s).All MemCanonical := by
  unfold Sys2Proof.Machine.bodyAbchk
  repeat' first
    | with_reducible assumption
    | with_reducible apply MemCanonical.putWord
    | split
    | extract_lets
    | dsimp +zetaDelta only [Res.All, OptAll]

theorem MemCanonical.setObj {s : State} (h : MemCanonical s) (x : Iss) (id : Nat) (o : AsyncObj) :
    MemCanonical (Sys2Proof.Machine.setObj s x id o) := by
  unfold Sys2Proof.Machine.setObj
  repeat' first
    | with_reducible assumption
    | with_reducible apply MemCanonical.mapCore
    | split
    | extract_lets

theorem MemCanonical.bodyAbinit {s : State} (h : MemCanonical s) (w : FmtS) (x : Iss) (u2 : Mask) :
    (Sys2Proof.Machine.bodyAbinit w x u2 s).All MemCanonical := by
  unfold Sys2Proof.Machine.bodyAbinit
  repeat' first
    | with_reducible assumption
    | with_reducible apply MemCanonical.setObj
    | with_reducible apply MemCanonical.markDirty
    | with_reducible apply Res.All.done
    | with_reducible apply Res.All.trap
    | split
    | extract_lets

theorem MemCanonical.bodyAbarr {s : State} (h : MemCanonical s) (w : FmtS) (x : Iss) (u2 : Mask) :
    (Sys2Proof.Machine.bodyAbarr w x u2 s).All MemCanonical := by
  unfold Sys2Proof.Machine.bodyAbarr
  repeat' first
    | with_reducible assumption
    | with_reducible apply MemCanonical.setObj
    | with_reducible apply MemCanonical.putStatus
    | with_reducible apply MemCanonical.markDirty
    | split
    | extract_lets
    | dsimp +zetaDelta only [Res.All, OptAll]

theorem MemCanonical.trapOrphans {s : State} (h : MemCanonical s) (x : Iss) (id : Nat) :
    MemCanonical (Sys2Proof.Machine.trapOrphans s x id) := by
  unfold Sys2Proof.Machine.trapOrphans
  repeat' first
    | with_reducible assumption
    | with_reducible apply MemCanonical.takeTrap
    | with_reducible refine MemCanonical.foldl ?_ _ (fun _ _ _ => ?_)
    | split
    | extract_lets

theorem MemCanonical.endObjWait {s : State} (h : MemCanonical s) (x : Iss) (id st : Nat) (d : Option Nat) :
    MemCanonical (Sys2Proof.Machine.endObjWait s x id st d) := by
  unfold Sys2Proof.Machine.endObjWait
  repeat' first
    | with_reducible assumption
    | with_reducible apply MemCanonical.acquireAt
    | with_reducible apply MemCanonical.putStatus
    | split
    | extract_lets

theorem MemCanonical.waitObj {s : State} (h : MemCanonical s) (x : Iss) (id : Nat) (parity : Bool) (d : Option Nat) :
    (Sys2Proof.Machine.waitObj s x id parity d).All MemCanonical := by
  unfold Sys2Proof.Machine.waitObj
  repeat' first
    | with_reducible assumption
    | with_reducible apply MemCanonical.setObj
    | with_reducible apply MemCanonical.endObjWait
    | with_reducible apply MemCanonical.mapSplit
    | with_reducible apply MemCanonical.trapOrphans
    | split
    | extract_lets
    | dsimp +zetaDelta only [Res.All, OptAll]

theorem MemCanonical.bodyAbwait {s : State} (h : MemCanonical s) (w : FmtS) (x : Iss) (u2 : Mask) :
    (Sys2Proof.Machine.bodyAbwait w x u2 s).All MemCanonical := by
  unfold Sys2Proof.Machine.bodyAbwait
  repeat' first
    | with_reducible assumption
    | with_reducible apply MemCanonical.liftQuarantine
    | with_reducible apply MemCanonical.waitObj
    | with_reducible apply MemCanonical.markDirty
    | with_reducible apply Res.All.trap
    | split
    | extract_lets

theorem MemCanonical.endBoundaryWait {s : State} (h : MemCanonical s) (x : Iss) (b : BarWait) :
    OptAll MemCanonical (Sys2Proof.Machine.endBoundaryWait s x b) := by
  unfold Sys2Proof.Machine.endBoundaryWait
  repeat' first
    | with_reducible assumption
    | with_reducible apply MemCanonical.mapSplit
    | with_reducible apply MemCanonical.settleBarriers
    | with_reducible apply MemCanonical.endNodeWait
    | with_reducible apply MemCanonical.endObjWait
    | with_reducible refine OptAll.map (fun _ => ?_)
    | split
    | extract_lets

/-! ## Machine/Ashlar.lean -/

theorem MemCanonical.setTile {s : State} (h : MemCanonical s) (x : Iss) (e : Nat) (f : Tile → Tile) :
    MemCanonical (Sys2Proof.Machine.setTile s x e f) := by
  unfold Sys2Proof.Machine.setTile
  repeat' first
    | with_reducible assumption
    | with_reducible apply MemCanonical.mapCore
    | split
    | extract_lets

theorem MemCanonical.bodyTiledef {s : State} (h : MemCanonical s) (w : FmtA) (x : Iss) (u2 : Mask) :
    (Sys2Proof.Machine.bodyTiledef w x u2 s).All MemCanonical := by
  unfold Sys2Proof.Machine.bodyTiledef
  repeat' first
    | with_reducible assumption
    | with_reducible apply MemCanonical.markDirty
    | with_reducible apply MemCanonical.bump
    | with_reducible apply MemCanonical.mapCore
    | with_reducible apply Res.All.done
    | with_reducible apply Res.All.trap
    | split
    | extract_lets

theorem MemCanonical.bodyTilerel {s : State} (h : MemCanonical s) (w : FmtA) (x : Iss) (u2 : Mask) :
    (Sys2Proof.Machine.bodyTilerel w x u2 s).All MemCanonical := by
  unfold Sys2Proof.Machine.bodyTilerel
  repeat' first
    | with_reducible assumption
    | with_reducible apply MemCanonical.setTile
    | with_reducible apply MemCanonical.markDirty
    | with_reducible apply Res.All.done
    | with_reducible apply Res.All.trap
    | with_reducible apply Res.All.block
    | split
    | extract_lets

theorem MemCanonical.bodyLda {s : State} (h : MemCanonical s) (w : FmtA) (x : Iss) (act : Mask) :
    (Sys2Proof.Machine.bodyLda w x act s).All MemCanonical := by
  unfold Sys2Proof.Machine.bodyLda
  repeat' first
    | with_reducible assumption
    | with_reducible apply MemCanonical.raiseUncorr
    | with_reducible apply MemCanonical.putWords
    | split
    | extract_lets
    | dsimp +zetaDelta only [Res.All, OptAll]

theorem MemCanonical.bodySta {s : State} (h : MemCanonical s) (w : FmtA) (x : Iss) (act : Mask) :
    (Sys2Proof.Machine.bodySta w x act s).All MemCanonical := by
  unfold Sys2Proof.Machine.bodySta
  repeat' first
    | with_reducible assumption
    | with_reducible apply MemCanonical.advanceSt
    | with_reducible apply MemCanonical.mapCore
    | with_reducible apply MemCanonical.setTile
    | split
    | extract_lets
    | dsimp +zetaDelta only [Res.All, OptAll]

/-! ## Machine/EngIssue.lean -/

theorem MemCanonical.addRlt {s : State} (h : MemCanonical s) (x : Iss) (new : List RltEntry) :
    MemCanonical (Sys2Proof.Machine.addRlt s x new) := by
  unfold Sys2Proof.Machine.addRlt
  repeat' first
    | with_reducible assumption
    | with_reducible apply MemCanonical.mapCore
    | split
    | extract_lets

theorem MemCanonical.startEng {s : State} (h : MemCanonical s) (x : Iss) (p : EngPlan) (ctl scope : Nat) (status : Option Nat) :
    MemCanonical (Sys2Proof.Machine.startEng s x p ctl scope status) := by
  unfold Sys2Proof.Machine.startEng
  repeat' first
    | with_reducible assumption
    | with_reducible apply MemCanonical.addRlt
    | with_reducible apply MemCanonical.setObj
    | with_reducible apply MemCanonical.setTile
    | with_reducible apply MemCanonical.markDirty
    | with_reducible apply MemCanonical.mapGroup
    | split
    | extract_lets
    | (with_reducible apply MemCanonical.mk; first | with_reducible assumption | with_reducible apply MemCanonical.addRlt | with_reducible apply MemCanonical.setObj | with_reducible apply MemCanonical.setTile | with_reducible apply MemCanonical.markDirty | with_reducible apply MemCanonical.mapGroup | split)

theorem MemCanonical.issueEng {s : State} (h : MemCanonical s) (x : Iss) (p : EngPlan) (ctl scope : Nat) :
    (Sys2Proof.Machine.issueEng s x p ctl scope).All MemCanonical := by
  unfold Sys2Proof.Machine.issueEng
  repeat' first
    | with_reducible assumption
    | with_reducible apply MemCanonical.startEng
    | split
    | extract_lets
    | dsimp +zetaDelta only [Res.All, OptAll]

/-! ## Machine/Matrix.lean -/

theorem MemCanonical.stepTile {s : State} {x : Iss} {n fmt : Nat} {badOr : Bool} {mx : Nat × Nat} {any : Bool} {k : Nat → Res}
    (h : ∀ e, (k e).All MemCanonical) : (stepTile s x n fmt badOr mx any k).All MemCanonical := by
  unfold Sys2Proof.Machine.stepTile
  dsimp only
  split
  · split
    · exact Res.All.trap
    · exact Res.All.block
    · split
      · exact Res.All.trap
      · split
        · exact Res.All.trap
        · exact h _
  · exact Res.All.trap

theorem MemCanonical.startStep {s : State} (h : MemCanonical s) (x : Iss) (w : FmtA) (d : StepDesc) (ranges : List Range) (ea eb : Option Nat) :
    MemCanonical (Sys2Proof.Machine.startStep s x w d ranges ea eb) := by
  unfold Sys2Proof.Machine.startStep
  repeat' first
    | with_reducible assumption
    | with_reducible apply MemCanonical.addRlt
    | with_reducible apply MemCanonical.setTile
    | with_reducible apply MemCanonical.setPending
    | with_reducible apply MemCanonical.mapGroup
    | with_reducible apply MemCanonical.markDirty
    | split
    | extract_lets
    | (with_reducible apply MemCanonical.mk; first | with_reducible assumption | with_reducible apply MemCanonical.addRlt | with_reducible apply MemCanonical.setTile | with_reducible apply MemCanonical.setPending | with_reducible apply MemCanonical.mapGroup | with_reducible apply MemCanonical.markDirty | split)

theorem MemCanonical.admitStep {s : State} (h : MemCanonical s) (x : Iss) (w : FmtA) (d : StepDesc) (ranges : List Range) (ea eb : Option Nat) :
    (Sys2Proof.Machine.admitStep s x w d ranges ea eb).All MemCanonical := by
  unfold Sys2Proof.Machine.admitStep
  repeat' first
    | with_reducible assumption
    | with_reducible apply MemCanonical.startStep
    | with_reducible apply Res.All.done
    | with_reducible apply Res.All.trap
    | with_reducible apply Res.All.block
    | split
    | extract_lets

theorem MemCanonical.stepTiles {s : State} {x : Iss} {w : FmtA} {d : StepDesc} {c : Nat} {k : Option Nat → Option Nat → Res}
    (h : ∀ a b, (k a b).All MemCanonical) : (stepTiles s x w d c k).All MemCanonical := by
  have hB : ∀ ea, Res.All MemCanonical (if isTileOp w.b.toNat then Sys2Proof.Machine.stepTile s x w.b.toNat d.bfmt (!d.bor) (bTileMax d) (d.ks != 0) (fun e => k ea (some e))
      else k ea none) := by
    intro ea
    split
    · exact MemCanonical.stepTile (fun e => h _ _)
    · exact h _ _
  unfold Sys2Proof.Machine.stepTiles
  dsimp only
  split
  · exact MemCanonical.stepTile (fun e => hB _)
  · exact hB _

theorem MemCanonical.bodyStep {s : State} (h : MemCanonical s) (form : Form) (w : FmtA) (sparse : Nat) (x : Iss) :
    (Sys2Proof.Machine.bodyStep form w sparse x s).All MemCanonical := by
  unfold Sys2Proof.Machine.bodyStep
  repeat' first
    | with_reducible assumption
    | with_reducible apply MemCanonical.orTrap
    | with_reducible refine MemCanonical.stepTiles (fun _ _ => ?_)
    | with_reducible apply MemCanonical.admitStep
    | with_reducible apply Res.All.trap
    | split
    | extract_lets

theorem MemCanonical.bodyMma {s : State} (h : MemCanonical s) (w : FmtA) (x : Iss) (u2 : Mask) :
    (Sys2Proof.Machine.bodyMma w x u2 s).All MemCanonical := by
  unfold Sys2Proof.Machine.bodyMma
  repeat' first
    | with_reducible assumption
    | with_reducible apply MemCanonical.bodyStep
    | split
    | extract_lets

theorem MemCanonical.bodyMmas {s : State} (h : MemCanonical s) (w : FmtA) (x : Iss) (u2 : Mask) :
    (Sys2Proof.Machine.bodyMmas w x u2 s).All MemCanonical := by
  unfold Sys2Proof.Machine.bodyMmas
  repeat' first
    | with_reducible assumption
    | with_reducible apply MemCanonical.bodyStep
    | split
    | extract_lets

theorem MemCanonical.bodyMcommit {s : State} (h : MemCanonical s) (x : Iss) (u1 : Mask) :
    (Sys2Proof.Machine.bodyMcommit x u1 s).All MemCanonical := by
  unfold Sys2Proof.Machine.bodyMcommit
  repeat' first
    | with_reducible assumption
    | with_reducible apply MemCanonical.commitOpen
    | with_reducible apply Res.All.done
    | split
    | extract_lets

theorem MemCanonical.bodyMwait {s : State} (h : MemCanonical s) (w : FmtA) (x : Iss) (u2 : Mask) :
    (Sys2Proof.Machine.bodyMwait w x u2 s).All MemCanonical := by
  unfold Sys2Proof.Machine.bodyMwait
  repeat' first
    | with_reducible assumption
    | split
    | extract_lets
    | dsimp +zetaDelta only [Res.All, OptAll]

theorem MemCanonical.bodyMzero {s : State} (h : MemCanonical s) (w : FmtA) (x : Iss) (u2 : Mask) :
    (Sys2Proof.Machine.bodyMzero w x u2 s).All MemCanonical := by
  unfold Sys2Proof.Machine.bodyMzero
  repeat' first
    | with_reducible assumption
    | with_reducible apply MemCanonical.mapGroup
    | with_reducible apply Res.All.done
    | with_reducible apply Res.All.trap
    | split
    | extract_lets

theorem MemCanonical.viewSource {x : Iss} {w : FmtA} {k b : Res} (hk : k.All MemCanonical) (hb : b.All MemCanonical) :
    (viewSource x w k b).All MemCanonical := by
  unfold Sys2Proof.Machine.viewSource
  split
  · exact hk
  · exact Res.All.trap
  · exact Res.All.trap
  · exact hb

theorem MemCanonical.blockOnView {s : State} (h : MemCanonical s) (x : Iss) (rs : List Nat) :
    (Sys2Proof.Machine.blockOnView s x rs).All MemCanonical := by
  unfold Sys2Proof.Machine.blockOnView
  repeat' first
    | with_reducible assumption
    | with_reducible apply MemCanonical.commitFor
    | with_reducible apply MemCanonical.commitOpen
    | with_reducible apply Res.All.blockIn
    | split
    | extract_lets

theorem MemCanonical.bodyMst {s : State} (h : MemCanonical s) (w : FmtA) (x : Iss) (u2 : Mask) :
    (Sys2Proof.Machine.bodyMst w x u2 s).All MemCanonical := by
  unfold Sys2Proof.Machine.bodyMst
  repeat' first
    | with_reducible assumption
    | with_reducible apply MemCanonical.blockOnView
    | with_reducible apply MemCanonical.viewSource
    | with_reducible apply MemCanonical.issueEng
    | with_reducible apply MemCanonical.orTrap
    | with_reducible apply Res.All.trap
    | with_reducible apply Res.All.block
    | split
    | extract_lets

/-! ## Machine/Engine.lean -/

theorem MemCanonical.finishAtIssue {s : State} (h : MemCanonical s) (x : Iss) (ctl : Nat) :
    MemCanonical (Sys2Proof.Machine.finishAtIssue s x ctl) := by
  unfold Sys2Proof.Machine.finishAtIssue
  repeat' first
    | with_reducible assumption
    | with_reducible apply MemCanonical.markDirty
    | with_reducible apply MemCanonical.setObj
    | split
    | extract_lets

theorem MemCanonical.bodyCpy {s : State} (h : MemCanonical s) (w : FmtA) (x : Iss) (u2 : Mask) :
    (Sys2Proof.Machine.bodyCpy w x u2 s).All MemCanonical := by
  unfold Sys2Proof.Machine.bodyCpy
  repeat' first
    | with_reducible assumption
    | with_reducible apply MemCanonical.finishAtIssue
    | with_reducible apply MemCanonical.issueEng
    | with_reducible apply MemCanonical.orTrap
    | split
    | extract_lets
    | dsimp +zetaDelta only [Res.All, OptAll]

theorem MemCanonical.bodyCpy2d {s : State} (h : MemCanonical s) (w : FmtA) (x : Iss) (u2 : Mask) :
    (Sys2Proof.Machine.bodyCpy2d w x u2 s).All MemCanonical := by
  unfold Sys2Proof.Machine.bodyCpy2d
  repeat' first
    | with_reducible assumption
    | with_reducible apply MemCanonical.issueEng
    | with_reducible apply MemCanonical.orTrap
    | with_reducible apply Res.All.trap
    | split
    | extract_lets

theorem MemCanonical.bodyTld {s : State} (h : MemCanonical s) (w : FmtA) (x : Iss) (u2 : Mask) :
    (Sys2Proof.Machine.bodyTld w x u2 s).All MemCanonical := by
  unfold Sys2Proof.Machine.bodyTld
  repeat' first
    | with_reducible assumption
    | with_reducible refine MemCanonical.withTile (fun _ _ => ?_)
    | with_reducible apply MemCanonical.orTrap
    | with_reducible apply MemCanonical.issueEng
    | with_reducible apply Res.All.trap
    | split
    | extract_lets

theorem MemCanonical.bodyTst {s : State} (h : MemCanonical s) (w : FmtA) (x : Iss) (u2 : Mask) :
    (Sys2Proof.Machine.bodyTst w x u2 s).All MemCanonical := by
  unfold Sys2Proof.Machine.bodyTst
  repeat' first
    | with_reducible assumption
    | with_reducible refine MemCanonical.withTile (fun _ _ => ?_)
    | with_reducible apply MemCanonical.orTrap
    | with_reducible apply MemCanonical.issueEng
    | with_reducible apply Res.All.trap
    | split
    | extract_lets

theorem MemCanonical.bodyGath {s : State} (h : MemCanonical s) (w : FmtA) (x : Iss) (u2 : Mask) :
    (Sys2Proof.Machine.bodyGath w x u2 s).All MemCanonical := by
  unfold Sys2Proof.Machine.bodyGath
  repeat' first
    | with_reducible assumption
    | with_reducible apply MemCanonical.issueEng
    | with_reducible apply MemCanonical.orTrap
    | with_reducible apply Res.All.trap
    | split
    | extract_lets

theorem MemCanonical.bodyScat {s : State} (h : MemCanonical s) (w : FmtA) (x : Iss) (u2 : Mask) :
    (Sys2Proof.Machine.bodyScat w x u2 s).All MemCanonical := by
  unfold Sys2Proof.Machine.bodyScat
  repeat' first
    | with_reducible assumption
    | with_reducible apply MemCanonical.issueEng
    | with_reducible apply MemCanonical.orTrap
    | with_reducible apply Res.All.trap
    | split
    | extract_lets

theorem MemCanonical.bodyRowpub {s : State} (h : MemCanonical s) (w : FmtA) (x : Iss) (u2 : Mask) :
    (Sys2Proof.Machine.bodyRowpub w x u2 s).All MemCanonical := by
  unfold Sys2Proof.Machine.bodyRowpub
  repeat' first
    | with_reducible assumption
    | with_reducible apply MemCanonical.orTrap
    | with_reducible apply MemCanonical.issueEng
    | with_reducible apply Res.All.trap
    | split
    | extract_lets

theorem MemCanonical.bodyColl {s : State} (h : MemCanonical s) (w : FmtA) (x : Iss) (u2 : Mask) :
    (Sys2Proof.Machine.bodyColl w x u2 s).All MemCanonical := by
  unfold Sys2Proof.Machine.bodyColl
  repeat' first
    | with_reducible assumption
    | with_reducible apply MemCanonical.startEng
    | with_reducible apply MemCanonical.mapGroup
    | with_reducible apply MemCanonical.orTrap
    | with_reducible apply Res.All.done
    | with_reducible apply Res.All.trap
    | with_reducible apply Res.All.block
    | split
    | extract_lets

theorem MemCanonical.bodyEwait {s : State} (h : MemCanonical s) (w : FmtA) (x : Iss) (u2 : Mask) :
    (Sys2Proof.Machine.bodyEwait w x u2 s).All MemCanonical := by
  unfold Sys2Proof.Machine.bodyEwait
  repeat' first
    | with_reducible assumption
    | with_reducible apply MemCanonical.acquireAt
    | split
    | extract_lets
    | dsimp +zetaDelta only [Res.All, OptAll]

theorem MemCanonical.bodyCpyg {s : State} (h : MemCanonical s) (w : FmtA) (x : Iss) (u2 : Mask) :
    (Sys2Proof.Machine.bodyCpyg w x u2 s).All MemCanonical := by
  unfold Sys2Proof.Machine.bodyCpyg
  repeat' first
    | with_reducible assumption
    | with_reducible apply MemCanonical.orTrap
    | with_reducible apply MemCanonical.setPending
    | with_reducible apply MemCanonical.startEng
    | with_reducible apply Res.All.done
    | with_reducible apply Res.All.trap
    | with_reducible apply Res.All.block
    | split
    | extract_lets

/-! ## Machine/GroupInstr.lean -/

theorem MemCanonical.bodyLoophd {s : State} (h : MemCanonical s) (w : FmtS) (x : Iss) (u2 : Mask) :
    (Sys2Proof.Machine.bodyLoophd w x u2 s).All MemCanonical := by
  unfold Sys2Proof.Machine.bodyLoophd
  repeat' first
    | with_reducible assumption
    | with_reducible apply MemCanonical.mapCore
    | with_reducible apply MemCanonical.putWord
    | with_reducible apply MemCanonical.mapGroup
    | with_reducible apply MemCanonical.markDirty
    | with_reducible apply MemCanonical.mapSplit
    | with_reducible apply Res.All.done
    | split
    | extract_lets

theorem MemCanonical.bodyIdone {s : State} (h : MemCanonical s) (x : Iss) (act : Mask) :
    (Sys2Proof.Machine.bodyIdone x act s).All MemCanonical := by
  unfold Sys2Proof.Machine.bodyIdone
  repeat' first
    | with_reducible assumption
    | with_reducible apply MemCanonical.mapGroup
    | split
    | extract_lets
    | dsimp +zetaDelta only [Res.All, OptAll]

theorem MemCanonical.bodyIput {s : State} (h : MemCanonical s) (w : FmtS) (x : Iss) (act : Mask) :
    (Sys2Proof.Machine.bodyIput w x act s).All MemCanonical := by
  unfold Sys2Proof.Machine.bodyIput
  repeat' first
    | with_reducible assumption
    | with_reducible apply MemCanonical.mapCore
    | with_reducible apply MemCanonical.markDirty
    | with_reducible apply MemCanonical.putPred
    | with_reducible apply Res.All.done
    | split
    | extract_lets

theorem MemCanonical.bodyTreeid {s : State} (h : MemCanonical s) (w : FmtS) (x : Iss) (act : Mask) :
    (Sys2Proof.Machine.bodyTreeid w x act s).All MemCanonical := by
  unfold Sys2Proof.Machine.bodyTreeid
  repeat' first
    | with_reducible assumption
    | with_reducible apply MemCanonical.putWord
    | with_reducible apply Res.All.done
    | split
    | extract_lets

/-! ## Machine/DefImage.lean -/

theorem MemCanonical.setSlot {s : State} (h : MemCanonical s) (pkg ctx n : Nat) (f : DefSlot → DefSlot) :
    MemCanonical (Sys2Proof.Machine.setSlot s pkg ctx n f) := by
  unfold Sys2Proof.Machine.setSlot
  repeat' first
    | with_reducible assumption
    | with_reducible apply MemCanonical.mapCtx
    | split
    | extract_lets

theorem MemCanonical.setSlots {s : State} (h : MemCanonical s) (pkg ctx n : Nat) (f : DefSlot → DefSlot) :
    MemCanonical (Sys2Proof.Machine.setSlots s pkg ctx n f) := by
  unfold Sys2Proof.Machine.setSlots
  repeat' first
    | with_reducible assumption
    | split
    | extract_lets
    | (with_reducible apply MemCanonical.mk; first | with_reducible assumption)

/-! ## Machine/Launch.lean -/

theorem MemCanonical.bodyLaunchOp {s : State} (h : MemCanonical s) (form : Form) (w : FmtA) (ind : Bool) (x : Iss) :
    (Sys2Proof.Machine.bodyLaunchOp form w ind x s).All MemCanonical := by
  unfold Sys2Proof.Machine.bodyLaunchOp
  repeat' first
    | with_reducible assumption
    | with_reducible apply MemCanonical.orTrap
    | with_reducible apply MemCanonical.mapGroup
    | with_reducible apply MemCanonical.markDirty
    | with_reducible apply MemCanonical.setPending
    | split
    | extract_lets
    | dsimp +zetaDelta only [Res.All, OptAll]
    | (with_reducible apply MemCanonical.mk; first | with_reducible assumption | with_reducible apply MemCanonical.orTrap | with_reducible apply MemCanonical.mapGroup | with_reducible apply MemCanonical.markDirty | with_reducible apply MemCanonical.setPending | split | dsimp +zetaDelta only [Res.All, OptAll])

theorem MemCanonical.bodyLaunch {s : State} (h : MemCanonical s) (w : FmtA) (x : Iss) (u2 : Mask) :
    (Sys2Proof.Machine.bodyLaunch w x u2 s).All MemCanonical := by
  unfold Sys2Proof.Machine.bodyLaunch
  repeat' first
    | with_reducible assumption
    | with_reducible apply MemCanonical.bodyLaunchOp
    | split
    | extract_lets

theorem MemCanonical.bodyLaunchi {s : State} (h : MemCanonical s) (w : FmtA) (x : Iss) (u2 : Mask) :
    (Sys2Proof.Machine.bodyLaunchi w x u2 s).All MemCanonical := by
  unfold Sys2Proof.Machine.bodyLaunchi
  repeat' first
    | with_reducible assumption
    | with_reducible apply MemCanonical.bodyLaunchOp
    | split
    | extract_lets

/-! ## Machine/QueueInstr.lean -/

theorem MemCanonical.sendAnswer {s : State} (h : MemCanonical s) (x : Iss) (d : Nat) (act : Mask) (v : Nat) :
    MemCanonical (sendAnswer s x d act v) := h
theorem MemCanonical.bodyGarm {s : State} (h : MemCanonical s) (w : FmtA) (x : Iss) (act : Mask) :
    (Sys2Proof.Machine.bodyGarm w x act s).All MemCanonical := by
  unfold Sys2Proof.Machine.bodyGarm
  repeat' first
    | with_reducible assumption
    | with_reducible apply MemCanonical.markDirty
    | with_reducible apply MemCanonical.sendAnswer
    | with_reducible apply MemCanonical.issueWrite
    | with_reducible apply MemCanonical.dropGuests
    | with_reducible apply MemCanonical.setPending
    | split
    | extract_lets
    | dsimp +zetaDelta only [Res.All, OptAll]

theorem MemCanonical.bodyCuew {s : State} (h : MemCanonical s) (w : FmtM) (x : Iss) (act : Mask) :
    (Sys2Proof.Machine.bodyCuew w x act s).All MemCanonical := by
  unfold Sys2Proof.Machine.bodyCuew
  repeat' first
    | with_reducible assumption
    | with_reducible apply MemCanonical.issueWrite
    | with_reducible apply MemCanonical.dropGuests
    | with_reducible apply MemCanonical.markDirty
    | split
    | extract_lets
    | dsimp +zetaDelta only [Res.All, OptAll]

theorem MemCanonical.hintRecord {s : State} (h : MemCanonical s) (x : Iss) (va : Nat) :
    MemCanonical (Sys2Proof.Machine.hintRecord s x va) := by
  unfold Sys2Proof.Machine.hintRecord
  repeat' first
    | with_reducible assumption
    | with_reducible apply MemCanonical.faultRec
    | split
    | extract_lets

theorem MemCanonical.bodyPghint {s : State} (h : MemCanonical s) (w : FmtM) (x : Iss) (u2 : Mask) :
    (Sys2Proof.Machine.bodyPghint w x u2 s).All MemCanonical := by
  unfold Sys2Proof.Machine.bodyPghint
  repeat' first
    | with_reducible assumption
    | with_reducible apply MemCanonical.hintRecord
    | with_reducible refine MemCanonical.foldl ?_ _ (fun _ _ _ => ?_)
    | split
    | extract_lets
    | dsimp +zetaDelta only [Res.All, OptAll]

/-! ## Machine/NearMem.lean -/

theorem MemCanonical.sendNm {s : State} (h : MemCanonical s) (x : Iss) (act : Mask) (va d : Nat) (kind : NmKind) :
    MemCanonical (Sys2Proof.Machine.sendNm s x act va d kind) := by
  unfold Sys2Proof.Machine.sendNm
  repeat' first
    | with_reducible assumption
    | with_reducible apply MemCanonical.markDirty
    | with_reducible apply MemCanonical.setPending
    | split
    | extract_lets
    | (with_reducible apply MemCanonical.mk; first | with_reducible assumption | with_reducible apply MemCanonical.markDirty | with_reducible apply MemCanonical.setPending)

theorem MemCanonical.issueNm {s : State} (h : MemCanonical s) (x : Iss) (act : Mask) (w : FmtA) (kind : NmKind) :
    (Sys2Proof.Machine.issueNm s x act w kind).All MemCanonical := by
  unfold Sys2Proof.Machine.issueNm
  repeat' first
    | with_reducible assumption
    | with_reducible apply MemCanonical.sendNm
    | with_reducible apply MemCanonical.orTrap
    | split
    | extract_lets
    | dsimp +zetaDelta only [Res.All, OptAll]

theorem MemCanonical.bodyNmmodeOn {s : State} (h : MemCanonical s) (w : FmtA) (x : Iss) (act : Mask) :
    (Sys2Proof.Machine.bodyNmmodeOn w x act s).All MemCanonical := by
  unfold Sys2Proof.Machine.bodyNmmodeOn
  repeat' first
    | with_reducible assumption
    | with_reducible apply MemCanonical.issueNm
    | split
    | extract_lets

theorem MemCanonical.bodyNmmodeOff {s : State} (h : MemCanonical s) (w : FmtA) (x : Iss) (act : Mask) :
    (Sys2Proof.Machine.bodyNmmodeOff w x act s).All MemCanonical := by
  unfold Sys2Proof.Machine.bodyNmmodeOff
  repeat' first
    | with_reducible assumption
    | with_reducible apply MemCanonical.issueNm
    | split
    | extract_lets

theorem MemCanonical.bodyNmbc {s : State} (h : MemCanonical s) (w : FmtA) (x : Iss) (act : Mask) :
    (Sys2Proof.Machine.bodyNmbc w x act s).All MemCanonical := by
  unfold Sys2Proof.Machine.bodyNmbc
  repeat' first
    | with_reducible assumption
    | with_reducible apply MemCanonical.issueNm
    | with_reducible apply Res.All.trap
    | split
    | extract_lets

theorem MemCanonical.bodyNmzero {s : State} (h : MemCanonical s) (w : FmtA) (x : Iss) (act : Mask) :
    (Sys2Proof.Machine.bodyNmzero w x act s).All MemCanonical := by
  unfold Sys2Proof.Machine.bodyNmzero
  repeat' first
    | with_reducible assumption
    | with_reducible apply MemCanonical.issueNm
    | with_reducible apply Res.All.trap
    | split
    | extract_lets

theorem MemCanonical.bodyNmmac {s : State} (h : MemCanonical s) (w : FmtA) (x : Iss) (act : Mask) :
    (Sys2Proof.Machine.bodyNmmac w x act s).All MemCanonical := by
  unfold Sys2Proof.Machine.bodyNmmac
  repeat' first
    | with_reducible assumption
    | with_reducible apply MemCanonical.sendNm
    | with_reducible apply MemCanonical.orTrap
    | split
    | extract_lets
    | dsimp +zetaDelta only [Res.All, OptAll]

theorem MemCanonical.bodyNmrd {s : State} (h : MemCanonical s) (w : FmtA) (x : Iss) (act : Mask) :
    (Sys2Proof.Machine.bodyNmrd w x act s).All MemCanonical := by
  unfold Sys2Proof.Machine.bodyNmrd
  repeat' first
    | with_reducible assumption
    | with_reducible apply MemCanonical.issueNm
    | with_reducible apply Res.All.trap
    | split
    | extract_lets

theorem MemCanonical.bodyRedgo {s : State} (h : MemCanonical s) (w : FmtA) (x : Iss) (u2 : Mask) :
    (Sys2Proof.Machine.bodyRedgo w x u2 s).All MemCanonical := by
  unfold Sys2Proof.Machine.bodyRedgo
  repeat' first
    | with_reducible assumption
    | with_reducible apply MemCanonical.setPending
    | with_reducible apply MemCanonical.startEng
    | with_reducible apply MemCanonical.orTrap
    | split
    | extract_lets
    | dsimp +zetaDelta only [Res.All, OptAll]

/-! ## Machine/Remote.lean -/

theorem MemCanonical.startDefOp {s : State} (h : MemCanonical s) (x : Iss) (slot d : Nat) (load : Bool) (va len : Nat) (code : Option Nat) (lead : Bool) :
    MemCanonical (Sys2Proof.Machine.startDefOp s x slot d load va len code lead) := by
  unfold Sys2Proof.Machine.startDefOp
  repeat' first
    | with_reducible assumption
    | with_reducible apply MemCanonical.markDirty
    | with_reducible apply MemCanonical.setPending
    | split
    | extract_lets
    | (with_reducible apply MemCanonical.mk; first | with_reducible assumption | with_reducible apply MemCanonical.markDirty | with_reducible apply MemCanonical.setPending)

theorem MemCanonical.bodyRopld {s : State} (h : MemCanonical s) (w : FmtA) (x : Iss) (u2 : Mask) :
    (Sys2Proof.Machine.bodyRopld w x u2 s).All MemCanonical := by
  unfold Sys2Proof.Machine.bodyRopld
  repeat' first
    | with_reducible assumption
    | with_reducible apply MemCanonical.startDefOp
    | with_reducible apply MemCanonical.setSlots
    | with_reducible apply MemCanonical.orTrap
    | with_reducible apply Res.All.done
    | with_reducible apply Res.All.trap
    | split
    | extract_lets

theorem MemCanonical.bodyRopdrop {s : State} (h : MemCanonical s) (w : FmtA) (x : Iss) (u2 : Mask) :
    (Sys2Proof.Machine.bodyRopdrop w x u2 s).All MemCanonical := by
  unfold Sys2Proof.Machine.bodyRopdrop
  repeat' first
    | with_reducible assumption
    | with_reducible apply MemCanonical.startDefOp
    | with_reducible apply MemCanonical.setSlots
    | split
    | extract_lets
    | dsimp +zetaDelta only [Res.All, OptAll]

theorem MemCanonical.sendRop {s : State} (h : MemCanonical s) (x : Iss) (w : FmtA) (slot va : Nat) (sl : DefSlot) (isReturn : Bool) :
    MemCanonical (Sys2Proof.Machine.sendRop s x w slot va sl isReturn) := by
  unfold Sys2Proof.Machine.sendRop
  repeat' first
    | with_reducible assumption
    | with_reducible apply MemCanonical.dropGuests
    | with_reducible apply MemCanonical.mapGroup
    | with_reducible apply MemCanonical.markDirty
    | with_reducible apply MemCanonical.setPending
    | split
    | extract_lets
    | (with_reducible apply MemCanonical.mk; first | with_reducible assumption | with_reducible apply MemCanonical.dropGuests | with_reducible apply MemCanonical.mapGroup | with_reducible apply MemCanonical.markDirty | with_reducible apply MemCanonical.setPending)

theorem MemCanonical.bodyRopOp {s : State} (h : MemCanonical s) (form : Form) (w : FmtA) (isReturn : Bool) (x : Iss) :
    (Sys2Proof.Machine.bodyRopOp form w isReturn x s).All MemCanonical := by
  unfold Sys2Proof.Machine.bodyRopOp
  repeat' first
    | with_reducible assumption
    | with_reducible apply MemCanonical.orTrap
    | with_reducible apply MemCanonical.sendRop
    | split
    | extract_lets
    | dsimp +zetaDelta only [Res.All, OptAll]

theorem MemCanonical.bodyRop {s : State} (h : MemCanonical s) (w : FmtA) (x : Iss) (u2 : Mask) :
    (Sys2Proof.Machine.bodyRop w x u2 s).All MemCanonical := by
  unfold Sys2Proof.Machine.bodyRop
  repeat' first
    | with_reducible assumption
    | with_reducible apply MemCanonical.bodyRopOp
    | split
    | extract_lets

theorem MemCanonical.bodyRopr {s : State} (h : MemCanonical s) (w : FmtA) (x : Iss) (u2 : Mask) :
    (Sys2Proof.Machine.bodyRopr w x u2 s).All MemCanonical := by
  unfold Sys2Proof.Machine.bodyRopr
  repeat' first
    | with_reducible assumption
    | with_reducible apply MemCanonical.bodyRopOp
    | split
    | extract_lets

theorem MemCanonical.bodyMask {s : State} (h : MemCanonical s) (op : Nat) (u1 : Iss) (u2 : Mask) :
    (Sys2Proof.Machine.bodyMask op u1 u2 s).All MemCanonical := by
  unfold Sys2Proof.Machine.bodyMask
  repeat' first
    | split
    | extract_lets
    | dsimp +zetaDelta only [Res.All, OptAll]

theorem MemCanonical.bodyUnassigned {s : State} (h : MemCanonical s) (w : DWord) (u1 : Iss) (u2 : Mask) :
    (Sys2Proof.Machine.bodyUnassigned w u1 u2 s).All MemCanonical := by
  unfold Sys2Proof.Machine.bodyUnassigned
  repeat' first
    | with_reducible apply Res.All.trap
    | split
    | extract_lets

/-! ## Machine/Barrier.lean: what settles between moves -/

theorem MemCanonical.completeWaiter {s : State} (h : MemCanonical s) (gid spid : Nat) :
    MemCanonical (Sys2Proof.Machine.completeWaiter s gid spid) := by
  unfold Sys2Proof.Machine.completeWaiter
  repeat' first
    | with_reducible assumption
    | with_reducible apply MemCanonical.mapSplit
    | with_reducible apply MemCanonical.endNodeWait
    | with_reducible apply MemCanonical.endObjWait
    | split
    | extract_lets

theorem MemCanonical.orphanWaiter {s : State} (h : MemCanonical s) (gid spid : Nat) :
    MemCanonical (Sys2Proof.Machine.orphanWaiter s gid spid) := by
  unfold Sys2Proof.Machine.orphanWaiter
  repeat' first
    | with_reducible assumption
    | with_reducible apply MemCanonical.trapOrphans
    | split
    | extract_lets

theorem MemCanonical.settleAll {s : State} (h : MemCanonical s) : MemCanonical (Sys2Proof.Machine.settleAll s) :=
  ((h.foldl _ (fun _ _ h => h.settleBarriers _)).foldl _ (fun _ _ h => h.completeWaiter _ _)).foldl _ (fun _ _ h => h.orphanWaiter _ _)

end Sys2Proof.Machine
end

