-- ==== Sys2Proof/Laws/KeptMemory.lean ====
section
/-! SUPPORT. The memory's canonical form, kept by the schedule's steps and by reads, writes, engine operations and remote requests at their homes. -/

namespace Sys2Proof.Machine

open Sys2Proof

/-! ## Machine/Sched.lean -/

theorem MemCanonical.dropPacket {s : State} (h : MemCanonical s) (pkg : Nat) : MemCanonical (dropPacket s pkg) := h.mapPkg _ _

theorem MemCanonical.countCorrected {s : State} (h : MemCanonical s) (pkg core : Nat) :
    MemCanonical (Sys2Proof.Machine.countCorrected s pkg core) := by
  unfold Sys2Proof.Machine.countCorrected
  repeat' first
    | with_reducible assumption
    | with_reducible apply MemCanonical.mapField
    | split
    | extract_lets

theorem MemCanonical.coreUpset {s : State} (h : MemCanonical s) (pkg ctx core : Nat) (up : Upset) :
    MemCanonical (Sys2Proof.Machine.coreUpset s pkg ctx core up).1 := by
  unfold Sys2Proof.Machine.coreUpset
  repeat' first
    | with_reducible assumption
    | with_reducible apply MemCanonical.countCorrected
    | with_reducible apply MemCanonical.raiseUncorr
    | with_reducible apply MemCanonical.deviceFault
    | split
    | extract_lets

theorem MemCanonical.addPoison {s : State} (h : MemCanonical s) (us : List Nat) :
    MemCanonical (Sys2Proof.Machine.addPoison s us) := by
  unfold Sys2Proof.Machine.addPoison
  repeat' first
    | with_reducible assumption
    | split
    | extract_lets
    | (with_reducible apply MemCanonical.mk; first | with_reducible assumption)

theorem MemCanonical.hbmError {s : State} (h : MemCanonical s) (a : Site) :
    MemCanonical (Sys2Proof.Machine.hbmError s a) := by
  unfold Sys2Proof.Machine.hbmError
  repeat' first
    | with_reducible assumption
    | with_reducible apply MemCanonical.addPoison
    | with_reducible apply MemCanonical.faultRec
    | with_reducible apply MemCanonical.mapPage
    | split
    | extract_lets
    | (with_reducible apply MemCanonical.mk; first | with_reducible assumption | with_reducible apply MemCanonical.addPoison | with_reducible apply MemCanonical.faultRec | with_reducible apply MemCanonical.mapPage | split)

theorem MemCanonical.countStack {s : State} (h : MemCanonical s) (home pch : Nat) :
    MemCanonical (Sys2Proof.Machine.countStack s home pch) := by
  unfold Sys2Proof.Machine.countStack
  repeat' first
    | with_reducible assumption
    | with_reducible apply MemCanonical.mapPkg
    | split
    | extract_lets

theorem MemCanonical.countSlice {s : State} (h : MemCanonical s) (pkg va : Nat) : MemCanonical (countSlice s pkg va) := h

theorem MemCanonical.countL2 {s : State} (h : MemCanonical s) (a : Site) :
    MemCanonical (Sys2Proof.Machine.countL2 s a) := by
  unfold Sys2Proof.Machine.countL2
  repeat' first
    | with_reducible assumption
    | with_reducible apply MemCanonical.countSlice
    | with_reducible apply MemCanonical.countStack
    | with_reducible apply MemCanonical.mapField
    | split
    | extract_lets

theorem MemCanonical.homeUpset {s : State} (h : MemCanonical s) (a : Site) (up : Upset) :
    MemCanonical (Sys2Proof.Machine.homeUpset s a up).1 := by
  unfold Sys2Proof.Machine.homeUpset
  repeat' first
    | with_reducible assumption
    | with_reducible apply MemCanonical.countStack
    | with_reducible apply MemCanonical.countL2
    | with_reducible apply MemCanonical.hbmError
    | with_reducible apply MemCanonical.addPoison
    | with_reducible apply MemCanonical.deviceFault
    | with_reducible apply MemCanonical.raiseUncorr
    | split
    | extract_lets

theorem MemCanonical.softError {s : State} (h : MemCanonical s) (pkg ctx va kind gid : Nat) (up : Upset) :
    OptAll MemCanonical (Sys2Proof.Machine.softError s pkg ctx va kind gid up) := by
  unfold Sys2Proof.Machine.softError
  repeat' first
    | with_reducible assumption
    | with_reducible apply MemCanonical.homeUpset
    | split
    | extract_lets
    | dsimp +zetaDelta only [Res.All, OptAll]

theorem MemCanonical.codeUpset {s : State} (h : MemCanonical s) (g : Group) (va : Nat) (up : Upset) :
    MemCanonical (Sys2Proof.Machine.codeUpset s g va up).1 := by
  unfold Sys2Proof.Machine.codeUpset
  split
  · exact (h.softError _ _ va _ _ _).getD h
  · exact (h.softError _ _ va _ _ _).getD h
  · exact (h.softError _ _ va _ _ _).getD h
  · exact h.coreUpset _ _ _ _

theorem MemCanonical.moveHolders {s : State} (h : MemCanonical s) (gid old new : Nat) :
    MemCanonical (Sys2Proof.Machine.moveHolders s gid old new) := by
  unfold Sys2Proof.Machine.moveHolders
  repeat' first
    | with_reducible assumption
    | split
    | extract_lets
    | (with_reducible apply MemCanonical.mk; first | with_reducible assumption)

theorem MemCanonical.mergeAll (n : Nat) : ∀ {s : State}, MemCanonical s → ∀ gid : Nat, MemCanonical (mergeAll s gid n) := by
  induction n with
  | zero => intro s h _; exact h
  | succ n ih =>
    intro s h gid
    unfold Sys2Proof.Machine.mergeAll
    split
    · exact h
    · split
      · exact h
      · exact ih (MemCanonical.moveHolders (h.mapGroup _ _) _ _ _) _

theorem MemCanonical.startBoundaryWait {s : State} (h : MemCanonical s) (x : Iss) (kind : WaitKind) (wctr : Nat) (ws : List DWord) :
    OptAll MemCanonical (Sys2Proof.Machine.startBoundaryWait s x kind wctr ws) := by
  unfold Sys2Proof.Machine.startBoundaryWait
  repeat' first
    | with_reducible assumption
    | with_reducible apply MemCanonical.commitFor
    | with_reducible apply MemCanonical.commitOpen
    | with_reducible apply MemCanonical.mapSplit
    | split
    | extract_lets
    | dsimp +zetaDelta only [Res.All, OptAll]

theorem MemCanonical.firstAcquire {s : State} (h : MemCanonical s) (x : Iss) :
    MemCanonical (Sys2Proof.Machine.firstAcquire s x) := by
  unfold Sys2Proof.Machine.firstAcquire
  repeat' first
    | with_reducible assumption
    | with_reducible apply MemCanonical.acquireAt
    | with_reducible apply MemCanonical.acquireAs
    | split
    | extract_lets

theorem MemCanonical.beginClause {s : State} (h : MemCanonical s) (x : Iss) (h : ClauseHdr) (ws : List DWord) :
    MemCanonical (Sys2Proof.Machine.beginClause s x h ws) := by
  unfold Sys2Proof.Machine.beginClause
  repeat' first
    | with_reducible assumption
    | with_reducible apply MemCanonical.mapGroup
    | with_reducible apply MemCanonical.mapInst
    | with_reducible apply MemCanonical.acquireAt
    | with_reducible apply MemCanonical.firstAcquire
    | split
    | extract_lets

theorem MemCanonical.fetchTrap {s : State} (h : MemCanonical s) (x : Iss) (t : Trap) (p : TrapAt) :
    OptAll MemCanonical (Sys2Proof.Machine.fetchTrap s x t p) := by
  unfold Sys2Proof.Machine.fetchTrap
  repeat' first
    | with_reducible assumption
    | with_reducible apply MemCanonical.takeTrap
    | split
    | extract_lets
    | dsimp +zetaDelta only [Res.All, OptAll]

theorem MemCanonical.resumeClause {s : State} (h : MemCanonical s) (x : Iss) (i : Nat) :
    OptAll MemCanonical (Sys2Proof.Machine.resumeClause s x i) := by
  unfold Sys2Proof.Machine.resumeClause
  repeat' first
    | with_reducible assumption
    | with_reducible apply MemCanonical.mapSplit
    | with_reducible apply MemCanonical.fetchTrap
    | with_reducible apply MemCanonical.raiseUncorr
    | split
    | extract_lets
    | dsimp +zetaDelta only [Res.All, OptAll]

theorem MemCanonical.fetchAtBoundary {s : State} (h : MemCanonical s) (x : Iss) :
    OptAll MemCanonical (Sys2Proof.Machine.fetchAtBoundary s x) := by
  unfold Sys2Proof.Machine.fetchAtBoundary
  repeat' first
    | with_reducible assumption
    | with_reducible apply MemCanonical.endBoundaryWait
    | with_reducible apply MemCanonical.fetchTrap
    | with_reducible apply MemCanonical.raiseUncorr
    | with_reducible apply MemCanonical.startBoundaryWait
    | with_reducible apply MemCanonical.beginClause
    | with_reducible apply MemCanonical.mapGroup
    | split
    | extract_lets
    | dsimp +zetaDelta only [Res.All, OptAll]

theorem MemCanonical.clauseFetch {s : State} (h : MemCanonical s) (gid spid : Nat) (up : Upset) :
    OptAll MemCanonical (Sys2Proof.Machine.clauseFetch s gid spid up) := by
  unfold Sys2Proof.Machine.clauseFetch
  repeat' first
    | with_reducible assumption
    | with_reducible apply MemCanonical.loseFetch
    | with_reducible apply MemCanonical.resumeClause
    | with_reducible refine MemCanonical.mergeAll _ ?_ _
    | with_reducible apply MemCanonical.codeUpset
    | with_reducible apply MemCanonical.fetchAtBoundary
    | split
    | extract_lets
    | dsimp +zetaDelta only [Res.All, OptAll]

theorem MemCanonical.splitHoldEnd {s : State} (h : MemCanonical s) (gid spid : Nat) :
    OptAll MemCanonical (Sys2Proof.Machine.splitHoldEnd s gid spid) := by
  unfold Sys2Proof.Machine.splitHoldEnd
  repeat' first
    | with_reducible assumption
    | with_reducible apply MemCanonical.mapSplit
    | split
    | extract_lets
    | dsimp +zetaDelta only [Res.All, OptAll]

theorem MemCanonical.activeSetEnter {s : State} (h : MemCanonical s) (gid : Nat) :
    OptAll MemCanonical (Sys2Proof.Machine.activeSetEnter s gid) := by
  unfold Sys2Proof.Machine.activeSetEnter
  repeat' first
    | with_reducible assumption
    | with_reducible apply MemCanonical.mapGroup
    | split
    | extract_lets
    | dsimp +zetaDelta only [Res.All, OptAll]

theorem MemCanonical.leaveActive {s : State} (h : MemCanonical s) (g : Group) :
    MemCanonical (Sys2Proof.Machine.leaveActive s g) := by
  unfold Sys2Proof.Machine.leaveActive
  repeat' first
    | with_reducible assumption
    | with_reducible apply MemCanonical.mapCore
    | with_reducible apply MemCanonical.mapGroup
    | split
    | extract_lets

theorem MemCanonical.activeSetLeave {s : State} (h : MemCanonical s) (gid : Nat) :
    OptAll MemCanonical (Sys2Proof.Machine.activeSetLeave s gid) := by
  unfold Sys2Proof.Machine.activeSetLeave
  repeat' first
    | with_reducible assumption
    | with_reducible apply MemCanonical.leaveActive
    | split
    | extract_lets
    | dsimp +zetaDelta only [Res.All, OptAll]

theorem MemCanonical.swapTimeout {s : State} (h : MemCanonical s) (gid : Nat) :
    OptAll MemCanonical (Sys2Proof.Machine.swapTimeout s gid) := by
  unfold Sys2Proof.Machine.swapTimeout
  repeat' first
    | with_reducible assumption
    | with_reducible apply MemCanonical.leaveActive
    | split
    | extract_lets
    | dsimp +zetaDelta only [Res.All, OptAll]

theorem MemCanonical.waitto {s : State} (h : MemCanonical s) (gid spid : Nat) :
    OptAll MemCanonical (Sys2Proof.Machine.waitto s gid spid) := by
  unfold Sys2Proof.Machine.waitto
  repeat' first
    | with_reducible assumption
    | with_reducible apply MemCanonical.mapSplit
    | with_reducible apply MemCanonical.takeTrap
    | split
    | extract_lets
    | dsimp +zetaDelta only [Res.All, OptAll]

theorem MemCanonical.closeLoads {s : State} (h : MemCanonical s) (gid spid first : Nat) : MemCanonical (closeLoads s gid spid first) := h

theorem MemCanonical.fencesWindowClose {s : State} (h : MemCanonical s) (gid spid : Nat) :
    OptAll MemCanonical (Sys2Proof.Machine.fencesWindowClose s gid spid) := by
  unfold Sys2Proof.Machine.fencesWindowClose
  repeat' first
    | with_reducible assumption
    | with_reducible apply MemCanonical.closeLoads
    | with_reducible apply MemCanonical.mapGroup
    | with_reducible apply MemCanonical.endWindowDenials
    | with_reducible apply MemCanonical.mapSplit
    | split
    | extract_lets
    | dsimp +zetaDelta only [Res.All, OptAll]

theorem MemCanonical.rollback {s : State} (h : MemCanonical s) (g : Group) (sp : Split) (w : Window) (counts : Bool) :
    MemCanonical (Sys2Proof.Machine.rollback s g sp w counts) := by
  unfold Sys2Proof.Machine.rollback
  repeat' first
    | with_reducible assumption
    | with_reducible apply MemCanonical.mapGroup
    | with_reducible apply MemCanonical.mapSplit
    | with_reducible apply MemCanonical.unpark
    | split
    | extract_lets
    | (with_reducible apply MemCanonical.mk; first | with_reducible assumption | with_reducible apply MemCanonical.mapGroup | with_reducible apply MemCanonical.mapSplit | with_reducible apply MemCanonical.unpark)

theorem MemCanonical.fencesRollback {s : State} (h : MemCanonical s) (gid spid : Nat) :
    OptAll MemCanonical (Sys2Proof.Machine.fencesRollback s gid spid) := by
  unfold Sys2Proof.Machine.fencesRollback
  repeat' first
    | with_reducible assumption
    | with_reducible apply MemCanonical.rollback
    | split
    | extract_lets
    | dsimp +zetaDelta only [Res.All, OptAll]

/-! ## Machine/MemEvents.lean -/

/-- The state of a read at its home has property P. -/
def HomeGot.All (P : State → Prop) : HomeGot → Prop
  | .ok t _ _ | .ended t => P t
  | .fault _ _ _ | .unrouted => True

theorem MemCanonical.homeRead {s : State} (h : MemCanonical s) (pkg ctx va n kind : Nat) (gid : Word) (up : Upset) :
    (Sys2Proof.Machine.homeRead s pkg ctx va n kind gid up).All MemCanonical := by
  unfold Sys2Proof.Machine.homeRead
  repeat' (first | trivial | exact h.homeUpset _ _ | dsimp only | split)
theorem MemCanonical.homeRead_ok {s t : State} {pkg ctx va n kind : Nat} {gid : Word} {up : Upset} {bs : List Byte} {q : Bool}
    (h : MemCanonical s) (e : Sys2Proof.Machine.homeRead s pkg ctx va n kind gid up = .ok t bs q) : MemCanonical t := by
  have := h.homeRead pkg ctx va n kind gid up; rw [e] at this; exact this
theorem MemCanonical.homeRead_ended {s t : State} {pkg ctx va n kind : Nat} {gid : Word} {up : Upset}
    (h : MemCanonical s) (e : Sys2Proof.Machine.homeRead s pkg ctx va n kind gid up = .ended t) : MemCanonical t := by
  have := h.homeRead pkg ctx va n kind gid up; rw [e] at this; exact this

theorem MemCanonical.dropLate {s : State} (h : MemCanonical s) (pkg core : Nat) :
    MemCanonical (Sys2Proof.Machine.dropLate s pkg core) := by
  unfold Sys2Proof.Machine.dropLate
  repeat' first
    | with_reducible assumption
    | with_reducible apply MemCanonical.mapField
    | split
    | extract_lets

theorem MemCanonical.clearPoison {s : State} (h : MemCanonical s) (key : Nat) :
    MemCanonical (Sys2Proof.Machine.clearPoison s key) := by
  unfold Sys2Proof.Machine.clearPoison
  repeat' first
    | with_reducible assumption
    | split
    | extract_lets
    | (with_reducible apply MemCanonical.mk; first | with_reducible assumption)

theorem MemCanonical.dropResponse {s : State} (h : MemCanonical s) (pkg core ctx epoch : Nat) :
    MemCanonical (Sys2Proof.Machine.dropResponse s pkg core ctx epoch) := by
  unfold Sys2Proof.Machine.dropResponse
  repeat' first
    | with_reducible assumption
    | with_reducible apply MemCanonical.dropLate
    | with_reducible apply MemCanonical.dropPacket
    | split
    | extract_lets

theorem MemCanonical.loseWrite {s : State} (h : MemCanonical s) (w : Write) (a : LaneAcc) :
    MemCanonical (Sys2Proof.Machine.loseWrite s w a) := by
  unfold Sys2Proof.Machine.loseWrite
  repeat' first
    | with_reducible assumption
    | with_reducible apply MemCanonical.dropPacket
    | with_reducible apply MemCanonical.mapWrite
    | split
    | extract_lets

theorem MemCanonical.loseUnit {s : State} (h : MemCanonical s) (e : Eng) (w : Bool) (u va : Nat) :
    MemCanonical (Sys2Proof.Machine.loseUnit s e w u va) := by
  unfold Sys2Proof.Machine.loseUnit
  repeat' first
    | with_reducible assumption
    | with_reducible apply MemCanonical.dropPacket
    | with_reducible apply MemCanonical.mapEng
    | split
    | extract_lets

theorem MemCanonical.markSeen {s : State} (h : MemCanonical s) (gid : Nat) (holders : List Nat) (line n : Nat) :
    MemCanonical (Sys2Proof.Machine.markSeen s gid holders line n) := by
  unfold Sys2Proof.Machine.markSeen
  repeat' first
    | with_reducible assumption
    | with_reducible apply MemCanonical.mapGroup
    | split
    | extract_lets

theorem MemCanonical.acquired {s : State} (h : MemCanonical s) (gid pkg core scope : Nat) :
    MemCanonical (Sys2Proof.Machine.acquired s gid pkg core scope) := by
  unfold Sys2Proof.Machine.acquired
  repeat' first
    | with_reducible assumption
    | with_reducible apply MemCanonical.mapCore
    | split
    | extract_lets

theorem MemCanonical.parkAccess {s : State} (h : MemCanonical s) (gid ctx kind : Nat) (ls : List LaneAcc) (va home pch cause : Nat) :
    MemCanonical (Sys2Proof.Machine.parkAccess s gid ctx kind ls va home pch cause) := by
  unfold Sys2Proof.Machine.parkAccess
  repeat' first
    | with_reducible assumption
    | with_reducible apply MemCanonical.faultRec
    | with_reducible apply MemCanonical.mapGroup
    | split
    | extract_lets

theorem MemCanonical.laneRead {s : State} (h : MemCanonical s) (l : Load) (a : LaneAcc) (bs : List Byte) (poisoned : Bool) (seen : Option Nat) :
    MemCanonical (Sys2Proof.Machine.laneRead s l a bs poisoned seen) := by
  unfold Sys2Proof.Machine.laneRead
  repeat' first
    | with_reducible assumption
    | with_reducible apply MemCanonical.raiseUncorr
    | with_reducible apply MemCanonical.mapLoad
    | with_reducible apply MemCanonical.markSeen
    | with_reducible apply MemCanonical.acquired
    | split
    | extract_lets
    | dsimp +zetaDelta only [Res.All, OptAll]

theorem MemCanonical.registerLine {s : State} (h : MemCanonical s) (l : Load) (line : Nat) :
    MemCanonical (Sys2Proof.Machine.registerLine s l line) := by
  unfold Sys2Proof.Machine.registerLine
  repeat' first
    | with_reducible assumption
    | with_reducible apply MemCanonical.mapGroup
    | split
    | extract_lets

theorem MemCanonical.readL1 {s : State} (h : MemCanonical s) (l : Load) (a : LaneAcc) (k : Nat) (up : Upset) :
    OptAll MemCanonical (Sys2Proof.Machine.readL1 s l a k up) := by
  unfold Sys2Proof.Machine.readL1
  repeat' first
    | with_reducible assumption
    | with_reducible apply MemCanonical.mapCore
    | with_reducible apply MemCanonical.coreUpset
    | with_reducible apply MemCanonical.laneRead
    | split
    | extract_lets
    | dsimp +zetaDelta only [Res.All, OptAll]

theorem MemCanonical.readGuest {s : State} (h : MemCanonical s) (l : Load) (a : LaneAcc) (k : Nat) (up : Upset) :
    OptAll MemCanonical (Sys2Proof.Machine.readGuest s l a k up) := by
  unfold Sys2Proof.Machine.readGuest
  repeat' first
    | with_reducible assumption
    | with_reducible apply MemCanonical.countSlice
    | with_reducible apply MemCanonical.coreUpset
    | with_reducible apply MemCanonical.laneRead
    | split
    | extract_lets
    | dsimp +zetaDelta only [Res.All, OptAll]
    | (with_reducible apply MemCanonical.mk; first | with_reducible assumption)

theorem MemCanonical.readLane {s : State} (h : MemCanonical s) (l : Load) (a : LaneAcc) (up : Upset) :
    OptAll MemCanonical (Sys2Proof.Machine.readLane s l a up) := by
  unfold Sys2Proof.Machine.readLane
  repeat' first
    | with_reducible assumption
    | with_reducible exact MemCanonical.homeRead_ok (by assumption) (by assumption)
    | with_reducible exact MemCanonical.homeRead_ended (by assumption) (by assumption)
    | with_reducible apply MemCanonical.laneRead
    | with_reducible apply MemCanonical.registerLine
    | with_reducible apply MemCanonical.parkAccess
    | with_reducible apply MemCanonical.mapLoad
    | split
    | extract_lets
    | dsimp +zetaDelta only [Res.All, OptAll]

theorem MemCanonical.performLane {s : State} (h : MemCanonical s) (id lane : Nat) (src : ReadSrc) (up : Upset) :
    OptAll MemCanonical (Sys2Proof.Machine.performLane s id lane src up) := by
  unfold Sys2Proof.Machine.performLane
  repeat' first
    | with_reducible assumption
    | with_reducible apply MemCanonical.dropPacket
    | with_reducible apply MemCanonical.mapLoad
    | with_reducible apply MemCanonical.readLane
    | with_reducible apply MemCanonical.readL1
    | with_reducible apply MemCanonical.readGuest
    | split
    | extract_lets
    | dsimp +zetaDelta only [Res.All, OptAll]

theorem MemCanonical.performStepLine {s : State} (h : MemCanonical s) (id line : Nat) (up : Upset) :
    OptAll MemCanonical (Sys2Proof.Machine.performStepLine s id line up) := by
  unfold Sys2Proof.Machine.performStepLine
  repeat' first
    | with_reducible assumption
    | with_reducible apply MemCanonical.dropPacket
    | with_reducible apply MemCanonical.homeRead
    | with_reducible exact MemCanonical.homeRead_ok (by assumption) (by assumption)
    | with_reducible exact MemCanonical.homeRead_ended (by assumption) (by assumption)
    | with_reducible apply MemCanonical.raiseUncorr
    | with_reducible apply MemCanonical.mapStep
    | with_reducible apply MemCanonical.faultRec
    | split
    | extract_lets
    | dsimp +zetaDelta only [Res.All, OptAll]

theorem MemCanonical.parkEng {s : State} (h : MemCanonical s) (e : Eng) (va home pch cause : Nat) :
    MemCanonical (Sys2Proof.Machine.parkEng s e va home pch cause) := by
  unfold Sys2Proof.Machine.parkEng
  repeat' first
    | with_reducible assumption
    | with_reducible apply MemCanonical.faultRec
    | with_reducible apply MemCanonical.mapEng
    | split
    | extract_lets

theorem MemCanonical.indexFault {s : State} (h : MemCanonical s) (e : Eng) (va : Nat) :
    MemCanonical (Sys2Proof.Machine.indexFault s e va) := by
  unfold Sys2Proof.Machine.indexFault
  repeat' first
    | with_reducible assumption
    | with_reducible apply MemCanonical.raiseCtxFault
    | split
    | extract_lets

theorem MemCanonical.scatRequests {s : State} (h : MemCanonical s) (e : Eng) (table src n rowb stride list slot gen : Nat) :
    MemCanonical (Sys2Proof.Machine.scatRequests s e table src n rowb stride list slot gen) := by
  unfold Sys2Proof.Machine.scatRequests
  repeat' first
    | with_reducible assumption
    | with_reducible apply MemCanonical.indexFault
    | with_reducible apply MemCanonical.mapEng
    | with_reducible refine MemCanonical.foldl ?_ _ (fun _ _ _ => ?_)
    | split
    | extract_lets
    | (with_reducible apply MemCanonical.mk; first | with_reducible assumption | with_reducible apply MemCanonical.indexFault | with_reducible apply MemCanonical.mapEng | with_reducible refine MemCanonical.foldl ?_ _ (fun _ _ _ => ?_) | split)

theorem MemCanonical.afterRead {s : State} (h : MemCanonical s) (id : Nat) :
    MemCanonical (Sys2Proof.Machine.afterRead s id) := by
  unfold Sys2Proof.Machine.afterRead
  repeat' first
    | with_reducible assumption
    | with_reducible apply MemCanonical.scatRequests
    | split
    | extract_lets

theorem MemCanonical.holdCuu {s : State} (h : MemCanonical s) (q : CuuReq) : OptAll MemCanonical (Sys2Proof.Machine.holdCuu s q) := by
  unfold Sys2Proof.Machine.holdCuu
  split
  · trivial
  · exact h

theorem MemCanonical.performEngRead {s : State} (h : MemCanonical s) (id u : Nat) (up : Upset) :
    OptAll MemCanonical (Sys2Proof.Machine.performEngRead s id u up) := by
  unfold Sys2Proof.Machine.performEngRead
  repeat' first
    | with_reducible assumption
    | with_reducible apply MemCanonical.holdCuu
    | with_reducible apply MemCanonical.loseUnit
    | with_reducible apply MemCanonical.homeRead
    | with_reducible exact MemCanonical.homeRead_ok (by assumption) (by assumption)
    | with_reducible exact MemCanonical.homeRead_ended (by assumption) (by assumption)
    | with_reducible apply MemCanonical.afterRead
    | with_reducible apply MemCanonical.mapEng
    | with_reducible apply MemCanonical.parkEng
    | with_reducible apply MemCanonical.indexFault
    | split
    | extract_lets
    | dsimp +zetaDelta only [Res.All, OptAll]

theorem MemCanonical.endDefLoad {s : State} (h : MemCanonical s) (o : DefOp) (code : Nat) :
    MemCanonical (Sys2Proof.Machine.endDefLoad s o code) := by
  unfold Sys2Proof.Machine.endDefLoad
  repeat' first
    | with_reducible assumption
    | with_reducible apply MemCanonical.setSlots
    | split
    | extract_lets
    | (with_reducible apply MemCanonical.mk; first | with_reducible assumption | with_reducible apply MemCanonical.setSlots)

theorem MemCanonical.performDefUnit {s : State} (h : MemCanonical s) (id j : Nat) (up : Upset) :
    OptAll MemCanonical (Sys2Proof.Machine.performDefUnit s id j up) := by
  unfold Sys2Proof.Machine.performDefUnit
  repeat' first
    | with_reducible assumption
    | with_reducible apply MemCanonical.dropPacket
    | with_reducible apply MemCanonical.homeRead
    | with_reducible apply MemCanonical.endDefLoad
    | with_reducible exact MemCanonical.homeRead_ok (by assumption) (by assumption)
    | with_reducible exact MemCanonical.homeRead_ended (by assumption) (by assumption)
    | with_reducible apply MemCanonical.mapDefOp
    | split
    | extract_lets
    | dsimp +zetaDelta only [Res.All, OptAll]

theorem MemCanonical.guestFill {s : State} (h : MemCanonical s) (pkg ctx line lease : Nat) :
    OptAll MemCanonical (Sys2Proof.Machine.guestFill s pkg ctx line lease) := by
  unfold Sys2Proof.Machine.guestFill
  repeat' first
    | with_reducible assumption
    | split
    | extract_lets
    | dsimp +zetaDelta only [Res.All, OptAll]
    | (with_reducible apply MemCanonical.mk; first | with_reducible assumption | split | extract_lets | dsimp +zetaDelta only [Res.All, OptAll])

theorem MemCanonical.guestExpire {s : State} (h : MemCanonical s) (pkg ctx line : Nat) :
    OptAll MemCanonical (Sys2Proof.Machine.guestExpire s pkg ctx line) := by
  unfold Sys2Proof.Machine.guestExpire
  repeat' first
    | with_reducible assumption
    | split
    | extract_lets
    | dsimp +zetaDelta only [Res.All, OptAll]
    | (with_reducible apply MemCanonical.mk; first | with_reducible assumption | split | extract_lets | dsimp +zetaDelta only [Res.All, OptAll])

theorem MemCanonical.prefetchFill {s : State} (h : MemCanonical s) (pkg core line : Nat) :
    OptAll MemCanonical (Sys2Proof.Machine.prefetchFill s pkg core line) := by
  unfold Sys2Proof.Machine.prefetchFill
  repeat' first
    | with_reducible assumption
    | with_reducible apply MemCanonical.mapCore
    | split
    | extract_lets
    | dsimp +zetaDelta only [Res.All, OptAll]

theorem MemCanonical.standWrites {s : State} (h : MemCanonical s) (l : Load) : MemCanonical (standWrites s l) := by
  unfold Sys2Proof.Machine.standWrites
  (repeat' split) <;> exact h

theorem MemCanonical.deliverLoad {s : State} (h : MemCanonical s) (l : Load) :
    OptAll MemCanonical (Sys2Proof.Machine.deliverLoad s l) := by
  unfold Sys2Proof.Machine.deliverLoad
  repeat' first
    | with_reducible assumption
    | with_reducible apply MemCanonical.standWrites
    | with_reducible apply MemCanonical.endDeniedLoad
    | with_reducible apply MemCanonical.dropResponse
    | with_reducible apply MemCanonical.dropLoad
    | with_reducible apply MemCanonical.dropLate
    | with_reducible apply MemCanonical.putWords
    | split
    | extract_lets
    | dsimp +zetaDelta only [Res.All, OptAll]

theorem MemCanonical.deliverWrite {s : State} (h : MemCanonical s) (w : Write) :
    OptAll MemCanonical (Sys2Proof.Machine.deliverWrite s w) := by
  unfold Sys2Proof.Machine.deliverWrite
  repeat' first
    | with_reducible assumption
    | with_reducible apply MemCanonical.endDenied
    | with_reducible apply MemCanonical.setVoid
    | with_reducible apply MemCanonical.dropResponse
    | with_reducible apply MemCanonical.dropWrite
    | with_reducible apply MemCanonical.mapWrite
    | with_reducible apply MemCanonical.dropLate
    | with_reducible apply MemCanonical.putWords
    | with_reducible apply MemCanonical.putWord
    | split
    | extract_lets
    | dsimp +zetaDelta only [Res.All, OptAll]

theorem MemCanonical.deliverDef {s : State} (h : MemCanonical s) (o : DefOp) :
    OptAll MemCanonical (Sys2Proof.Machine.deliverDef s o) := by
  unfold Sys2Proof.Machine.deliverDef
  repeat' first
    | with_reducible assumption
    | with_reducible apply MemCanonical.dropLate
    | with_reducible apply MemCanonical.dropDefOp
    | with_reducible apply MemCanonical.putWord
    | split
    | extract_lets
    | dsimp +zetaDelta only [Res.All, OptAll]

theorem MemCanonical.loadDeliver {s : State} (h : MemCanonical s) (id : Nat) :
    OptAll MemCanonical (Sys2Proof.Machine.loadDeliver s id) := by
  unfold Sys2Proof.Machine.loadDeliver
  repeat' first
    | with_reducible assumption
    | with_reducible apply MemCanonical.deliverLoad
    | with_reducible apply MemCanonical.deliverWrite
    | with_reducible apply MemCanonical.deliverDef
    | split
    | extract_lets
    | dsimp +zetaDelta only [Res.All, OptAll]

theorem MemCanonical.laneWritten {s : State} (h : MemCanonical s) (w : Write) (a : LaneAcc) (home key : Nat) (old bs : List Byte) :
    MemCanonical (Sys2Proof.Machine.laneWritten s w a home key old bs) := by
  unfold Sys2Proof.Machine.laneWritten
  repeat' first
    | with_reducible assumption
    | with_reducible apply MemCanonical.performAt
    | with_reducible apply MemCanonical.clearPoison
    | with_reducible apply MemCanonical.mapWrite
    | with_reducible apply MemCanonical.markSeen
    | with_reducible apply MemCanonical.acquired
    | split
    | extract_lets
    | dsimp +zetaDelta only [Res.All, OptAll]

theorem MemCanonical.parkWrite {s : State} (h : MemCanonical s) (w : Write) (a : LaneAcc) (home pch cause : Nat) :
    MemCanonical (Sys2Proof.Machine.parkWrite s w a home pch cause) := by
  unfold Sys2Proof.Machine.parkWrite
  repeat' first
    | with_reducible assumption
    | with_reducible apply MemCanonical.parkAccess
    | with_reducible apply MemCanonical.mapWrite
    | split
    | extract_lets

theorem MemCanonical.performStore {s : State} (h : MemCanonical s) (id lane : Nat) (up : Upset) :
    OptAll MemCanonical (Sys2Proof.Machine.performStore s id lane up) := by
  unfold Sys2Proof.Machine.performStore
  repeat' first
    | with_reducible assumption
    | with_reducible apply MemCanonical.loseWrite
    | with_reducible apply MemCanonical.parkWrite
    | with_reducible apply MemCanonical.homeUpset
    | with_reducible apply MemCanonical.laneWritten
    | split
    | extract_lets
    | dsimp +zetaDelta only [Res.All, OptAll]

theorem MemCanonical.linePoisoned {s : State} (h : MemCanonical s) (e : Eng) (u : Nat) (r : EngRow) (base key : Nat) :
    MemCanonical (Sys2Proof.Machine.linePoisoned s e u r base key) := by
  unfold Sys2Proof.Machine.linePoisoned
  repeat' first
    | with_reducible assumption
    | with_reducible apply MemCanonical.addPoison
    | with_reducible apply MemCanonical.clearPoison
    | split
    | extract_lets

theorem MemCanonical.engPoison {s : State} (h : MemCanonical s) (e : Eng) (u : Nat) (r : EngRow) (p : Nat × Nat) (key : Nat) :
    MemCanonical (Sys2Proof.Machine.engPoison s e u r p key) :=
  h.foldl _ (fun _ _ h => h.linePoisoned _ _ _ _ _)

theorem MemCanonical.performEngWrite {s : State} (h : MemCanonical s) (id u : Nat) (up : Upset) :
    OptAll MemCanonical (Sys2Proof.Machine.performEngWrite s id u up) := by
  unfold Sys2Proof.Machine.performEngWrite
  repeat' first
    | with_reducible assumption
    | with_reducible apply MemCanonical.holdCuu
    | with_reducible apply MemCanonical.loseUnit
    | with_reducible apply MemCanonical.parkEng
    | with_reducible apply MemCanonical.homeUpset
    | with_reducible apply MemCanonical.writeSpan
    | with_reducible apply MemCanonical.engPoison
    | with_reducible apply MemCanonical.mapEng
    | split
    | extract_lets
    | dsimp +zetaDelta only [Res.All, OptAll]

theorem MemCanonical.atomicExecute {s : State} (h : MemCanonical s) (id lane : Nat) :
    OptAll MemCanonical (Sys2Proof.Machine.atomicExecute s id lane) := by
  unfold Sys2Proof.Machine.atomicExecute
  repeat' first
    | with_reducible assumption
    | with_reducible apply MemCanonical.loseWrite
    | with_reducible apply MemCanonical.parkWrite
    | with_reducible apply MemCanonical.raiseUncorr
    | with_reducible apply MemCanonical.laneWritten
    | split
    | extract_lets
    | dsimp +zetaDelta only [Res.All, OptAll]

theorem MemCanonical.returnRelease {s : State} (h : MemCanonical s) (w : Write) :
    MemCanonical (Sys2Proof.Machine.returnRelease s w) := by
  unfold Sys2Proof.Machine.returnRelease
  repeat' first
    | with_reducible assumption
    | with_reducible apply MemCanonical.mapGroup
    | split
    | extract_lets
    | (with_reducible apply MemCanonical.mk; first | with_reducible assumption | with_reducible apply MemCanonical.mapGroup | split)

theorem MemCanonical.ctReturn {s : State} (h : MemCanonical s) (id : Nat) :
    OptAll MemCanonical (Sys2Proof.Machine.ctReturn s id) := by
  unfold Sys2Proof.Machine.ctReturn
  repeat' first
    | with_reducible assumption
    | with_reducible apply MemCanonical.returnRelease
    | with_reducible apply MemCanonical.dropResponse
    | with_reducible apply MemCanonical.returnCt
    | with_reducible apply MemCanonical.mapInst
    | with_reducible apply MemCanonical.dropLate
    | with_reducible apply MemCanonical.dropWrite
    | with_reducible apply MemCanonical.mapWrite
    | split
    | extract_lets
    | dsimp +zetaDelta only [Res.All, OptAll]

/-! ## Machine/EngEvents.lean -/

theorem MemCanonical.releaseOp {s : State} (h : MemCanonical s) (pkg core id : Nat) (tiles : List Nat) :
    MemCanonical (Sys2Proof.Machine.releaseOp s pkg core id tiles) := by
  unfold Sys2Proof.Machine.releaseOp
  repeat' first
    | with_reducible assumption
    | with_reducible apply MemCanonical.mapCores
    | with_reducible apply MemCanonical.mapCore
    | split
    | extract_lets
    | dsimp +zetaDelta only [Res.All, OptAll]

theorem MemCanonical.matrixDone {s : State} (h : MemCanonical s) (id : Nat) :
    OptAll MemCanonical (Sys2Proof.Machine.matrixDone s id) := by
  unfold Sys2Proof.Machine.matrixDone
  repeat' first
    | with_reducible assumption
    | with_reducible apply MemCanonical.raiseUncorr
    | with_reducible exact True.intro
    | with_reducible apply MemCanonical.releaseOp
    | with_reducible apply MemCanonical.mapGroup
    | with_reducible apply MemCanonical.dropStep
    | with_reducible refine MemCanonical.foldl ?_ _ (fun _ _ _ => ?_)
    | with_reducible apply OptAll.getD
    | with_reducible refine OptAll.map (fun _ => ?_)
    | with_reducible apply OptAll.some
    | split
    | extract_lets
    | dsimp +zetaDelta only [Res.All, OptAll]

theorem MemCanonical.engArrive {s : State} (h : MemCanonical s) (k : Inst) (g : Group) (e : Eng) :
    MemCanonical (Sys2Proof.Machine.engArrive s k g e) := by
  unfold Sys2Proof.Machine.engArrive
  repeat' first
    | with_reducible assumption
    | with_reducible exact True.intro
    | with_reducible apply MemCanonical.mapCoreOf
    | with_reducible apply MemCanonical.arrive
    | split
    | extract_lets
    | dsimp +zetaDelta only [Res.All, OptAll]

theorem MemCanonical.engStatus {s : State} (h : MemCanonical s) (e : Eng) :
    MemCanonical (Sys2Proof.Machine.engStatus s e) := by
  unfold Sys2Proof.Machine.engStatus
  repeat' first
    | with_reducible assumption
    | with_reducible exact True.intro
    | with_reducible apply MemCanonical.mapGroup
    | with_reducible apply MemCanonical.putWord
    | split
    | extract_lets
    | dsimp +zetaDelta only [Res.All, OptAll]

theorem MemCanonical.quarantine {s : State} (h : MemCanonical s) (e : Eng) :
    MemCanonical (Sys2Proof.Machine.quarantine s e) := by
  unfold Sys2Proof.Machine.quarantine
  repeat' first
    | with_reducible assumption
    | with_reducible exact True.intro
    | with_reducible apply MemCanonical.mapCores
    | split
    | extract_lets
    | dsimp +zetaDelta only [Res.All, OptAll]

theorem MemCanonical.endEng {s : State} (h : MemCanonical s) (e : Eng) :
    MemCanonical (Sys2Proof.Machine.endEng s e) := by
  unfold Sys2Proof.Machine.endEng
  repeat' first
    | with_reducible assumption
    | with_reducible exact True.intro
    | with_reducible apply MemCanonical.mapCore
    | with_reducible apply MemCanonical.quarantine
    | with_reducible apply MemCanonical.releaseOp
    | with_reducible apply MemCanonical.engStatus
    | with_reducible apply MemCanonical.dropEng
    | with_reducible apply MemCanonical.mapInst
    | with_reducible apply MemCanonical.engArrive
    | with_reducible apply MemCanonical.trapOrphans
    | split
    | extract_lets
    | dsimp +zetaDelta only [Res.All, OptAll]

theorem MemCanonical.engComplete {s : State} (h : MemCanonical s) (id : Nat) :
    OptAll MemCanonical (Sys2Proof.Machine.engComplete s id) := by
  unfold Sys2Proof.Machine.engComplete
  repeat' first
    | with_reducible assumption
    | with_reducible exact True.intro
    | with_reducible apply MemCanonical.endEng
    | with_reducible refine MemCanonical.foldl ?_ _ (fun _ _ _ => ?_)
    | with_reducible apply OptAll.some
    | split
    | extract_lets
    | dsimp +zetaDelta only [Res.All, OptAll]

theorem MemCanonical.readUnits {s : State} (h : MemCanonical s) (e : Eng) (i : Nat) (r : EngRow) (n : Nat) :
    OptAll MemCanonical (readUnits s e i r n) := by
  induction n with
  | zero => exact h
  | succ n ih =>
    unfold Sys2Proof.Machine.readUnits
    split
    · trivial
    · have ht := OptAll.get ih (by assumption)
      split
      · exact ht
      · split
        · exact ht
        · exact ht.performEngRead _ _ _

theorem MemCanonical.readRowsFrom {s : State} (h : MemCanonical s) (id n : Nat) : OptAll MemCanonical (readRowsFrom s id n) := by
  induction n with
  | zero => exact h
  | succ n ih =>
    unfold Sys2Proof.Machine.readRowsFrom
    split
    · trivial
    · have ht := OptAll.get ih (by assumption)
      split
      · exact ht
      · split
        · exact ht.readUnits _ _ _ _
        · exact ht

theorem MemCanonical.rdeUndef {s : State} (h : MemCanonical s) (e : Eng) (b : RdeBlock) : MemCanonical (rdeUndef s e b) :=
  h.writeOwn _ _ _ _

theorem MemCanonical.rdeDecide {s : State} (h : MemCanonical s) (e : Eng) (block : Nat) :
    MemCanonical (Sys2Proof.Machine.rdeDecide s e block) := by
  unfold Sys2Proof.Machine.rdeDecide
  repeat' first
    | with_reducible assumption
    | with_reducible apply MemCanonical.rdeUndef
    | with_reducible exact True.intro
    | with_reducible apply MemCanonical.mapEng
    | split
    | extract_lets
    | dsimp +zetaDelta only [Res.All, OptAll]

theorem MemCanonical.redgoExecute {s : State} (h : MemCanonical s) (id : Nat) : OptAll MemCanonical (redgoExecute s id) := by
  unfold Sys2Proof.Machine.redgoExecute
  split
  · trivial
  · split
    · split
      · trivial
      · split
        · trivial
        · have h1 := OptAll.get (h.readRowsFrom _ _) (by assumption)
          split
          · trivial
          · have h2 := OptAll.get (h1.readRowsFrom _ _) (by assumption)
            split
            · exact h2
            · refine OptAll.some ?_
              split
              · exact h2.rdeDecide _ _
              · exact h2
    · trivial

theorem MemCanonical.redgoFlag {s : State} (h : MemCanonical s) (id : Nat) :
    OptAll MemCanonical (Sys2Proof.Machine.redgoFlag s id) := by
  unfold Sys2Proof.Machine.redgoFlag
  repeat' first
    | with_reducible assumption
    | with_reducible apply MemCanonical.loseUnit
    | with_reducible apply MemCanonical.indexFault
    | with_reducible apply MemCanonical.parkEng
    | with_reducible apply MemCanonical.endEng
    | with_reducible apply MemCanonical.performAt
    | split
    | extract_lets
    | dsimp +zetaDelta only [Res.All, OptAll]

theorem MemCanonical.cpygExecute {s : State} (h : MemCanonical s) (id : Nat) :
    OptAll MemCanonical (Sys2Proof.Machine.cpygExecute s id) := by
  unfold Sys2Proof.Machine.cpygExecute
  repeat' first
    | with_reducible assumption
    | with_reducible apply MemCanonical.parkEng
    | with_reducible apply MemCanonical.bumpChoice
    | with_reducible apply MemCanonical.mapCtx
    | with_reducible apply MemCanonical.mapEng
    | split
    | extract_lets
    | dsimp +zetaDelta only [Res.All, OptAll]

theorem MemCanonical.breakRedgo {s : State} (h : MemCanonical s) (link : Nat) (e : Eng) :
    MemCanonical (Sys2Proof.Machine.breakRedgo link s e) := by
  unfold Sys2Proof.Machine.breakRedgo
  repeat' first
    | with_reducible assumption
    | with_reducible apply MemCanonical.mapEng
    | with_reducible apply MemCanonical.rdeUndef
    | split
    | extract_lets

theorem MemCanonical.linkFail {s : State} (h : MemCanonical s) (pkg link : Nat) :
    OptAll MemCanonical (Sys2Proof.Machine.linkFail s pkg link) := by
  unfold Sys2Proof.Machine.linkFail
  repeat' first
    | with_reducible assumption
    | with_reducible apply MemCanonical.mapPkg
    | with_reducible apply MemCanonical.breakRedgo
    | with_reducible refine MemCanonical.foldl ?_ _ (fun _ _ _ => ?_)
    | split
    | extract_lets
    | dsimp +zetaDelta only [Res.All, OptAll]

/-! ## Machine/RemoteEvents.lean -/

theorem MemCanonical.ackRop {s : State} (h : MemCanonical s) (id home ct : Nat) (status : Word) (line : Nat) (ret : List Word) :
    MemCanonical (Sys2Proof.Machine.ackRop s id home ct status line ret) := by
  unfold Sys2Proof.Machine.ackRop
  repeat' first
    | with_reducible assumption
    | with_reducible apply MemCanonical.mapRop
    | split
    | extract_lets

theorem MemCanonical.fatalRop {s : State} (h : MemCanonical s) (r : Rop) (home : Nat) : MemCanonical (fatalRop s r home) := by
  unfold Sys2Proof.Machine.fatalRop
  extract_lets
  (repeat' split) <;> first | exact h.raiseCtxFault _ _ _ | exact h.dropPacket _

theorem MemCanonical.faultRop {s : State} (h : MemCanonical s) (r : Rop) (home cause line : Nat) :
    MemCanonical (Sys2Proof.Machine.faultRop s r home cause line) := by
  unfold Sys2Proof.Machine.faultRop
  repeat' first
    | with_reducible assumption
    | with_reducible apply MemCanonical.fatalRop
    | with_reducible apply MemCanonical.ackRop
    | with_reducible apply MemCanonical.raiseCtxFault
    | with_reducible apply MemCanonical.dropRop
    | split
    | extract_lets

theorem MemCanonical.writeLine {s : State} (h : MemCanonical s) (r : Rop) (va : Nat) (bs : List Byte) :
    MemCanonical (Sys2Proof.Machine.writeLine s r va bs) := by
  unfold Sys2Proof.Machine.writeLine
  repeat' first
    | with_reducible assumption
    | with_reducible apply MemCanonical.performAt
    | with_reducible apply MemCanonical.addPoison
    | with_reducible apply MemCanonical.markSeen
    | with_reducible refine MemCanonical.foldl ?_ _ (fun _ _ _ => ?_)
    | split
    | extract_lets

theorem MemCanonical.applyGranule {s : State} (h : MemCanonical s) (r : Rop) (home : Nat) (img : DefImage) :
    MemCanonical (Sys2Proof.Machine.applyGranule s r home img) := by
  unfold Sys2Proof.Machine.applyGranule
  repeat' first
    | with_reducible assumption
    | with_reducible apply MemCanonical.writeLine
    | with_reducible apply MemCanonical.ackRop
    | with_reducible refine MemCanonical.foldl ?_ _ (fun _ _ _ => ?_)
    | split
    | extract_lets

theorem MemCanonical.runGranule {s : State} (h : MemCanonical s) (r : Rop) (home : Nat) :
    MemCanonical (Sys2Proof.Machine.runGranule s r home) := by
  unfold Sys2Proof.Machine.runGranule
  repeat' first
    | with_reducible assumption
    | with_reducible apply MemCanonical.faultRop
    | with_reducible apply MemCanonical.faultRec
    | with_reducible apply MemCanonical.applyGranule
    | split
    | extract_lets
    | dsimp +zetaDelta only [Res.All, OptAll]

theorem MemCanonical.holdRop {s : State} (h : MemCanonical s) (r : Rop) : MemCanonical (Sys2Proof.Machine.holdRop s r) := by
  unfold Sys2Proof.Machine.holdRop
  exact ((h.mapRop _ _).holdCuu _).getD (h.mapRop _ _)

theorem MemCanonical.ropGranule {s : State} (h : MemCanonical s) (id : Nat) :
    OptAll MemCanonical (Sys2Proof.Machine.ropGranule s id) := by
  unfold Sys2Proof.Machine.ropGranule
  repeat' first
    | with_reducible assumption
    | with_reducible apply MemCanonical.holdRop
    | with_reducible apply MemCanonical.faultRop
    | with_reducible apply MemCanonical.dropPacket
    | with_reducible apply MemCanonical.dropRop
    | with_reducible apply MemCanonical.runGranule
    | split
    | extract_lets
    | dsimp +zetaDelta only [Res.All, OptAll]

theorem MemCanonical.ropCombine {s : State} (h : MemCanonical s) (earlier later : Nat) :
    OptAll MemCanonical (Sys2Proof.Machine.ropCombine s earlier later) := by
  unfold Sys2Proof.Machine.ropCombine
  repeat' first
    | with_reducible assumption
    | split
    | extract_lets
    | dsimp +zetaDelta only [Res.All, OptAll]
    | (with_reducible apply MemCanonical.mk; first | with_reducible assumption | split | dsimp +zetaDelta only [Res.All, OptAll])

theorem MemCanonical.ropReturn {s : State} (h : MemCanonical s) (r : Rop) (i : RopIssuer) (d : Nat) :
    MemCanonical (Sys2Proof.Machine.ropReturn s r i d) := by
  unfold Sys2Proof.Machine.ropReturn
  repeat' first
    | with_reducible assumption
    | with_reducible apply MemCanonical.putWord
    | with_reducible apply MemCanonical.setVoid
    | split
    | extract_lets

theorem MemCanonical.ackIssuer {s : State} (h : MemCanonical s) (r : Rop) (i : RopIssuer) :
    MemCanonical (Sys2Proof.Machine.ackIssuer s r i) := by
  unfold Sys2Proof.Machine.ackIssuer
  repeat' first
    | with_reducible assumption
    | with_reducible apply MemCanonical.dropResponse
    | with_reducible apply MemCanonical.dropLate
    | with_reducible apply MemCanonical.mapGroup
    | with_reducible apply MemCanonical.returnCt
    | with_reducible apply MemCanonical.mapInst
    | with_reducible apply MemCanonical.mapEng
    | with_reducible apply MemCanonical.putWord
    | with_reducible apply MemCanonical.ropReturn
    | with_reducible apply MemCanonical.acquired
    | split
    | extract_lets

theorem MemCanonical.ropAck {s : State} (h : MemCanonical s) (id : Nat) :
    OptAll MemCanonical (Sys2Proof.Machine.ropAck s id) := by
  unfold Sys2Proof.Machine.ropAck
  repeat' first
    | with_reducible assumption
    | with_reducible apply MemCanonical.ackIssuer
    | with_reducible apply MemCanonical.dropRop
    | with_reducible refine MemCanonical.foldl ?_ _ (fun _ _ _ => ?_)
    | split
    | extract_lets
    | dsimp +zetaDelta only [Res.All, OptAll]

theorem MemCanonical.ringWrite {s : State} (h : MemCanonical s) (home : Nat) (c : Ctx) (id : Nat) :
    MemCanonical (Sys2Proof.Machine.ringWrite s home c id) := by
  unfold Sys2Proof.Machine.ringWrite
  repeat' first
    | with_reducible assumption
    | with_reducible apply MemCanonical.writeOwn
    | with_reducible apply MemCanonical.writeSpan
    | split
    | extract_lets

theorem MemCanonical.wingsAppend {s : State} (h : MemCanonical s) (id : Nat) :
    OptAll MemCanonical (Sys2Proof.Machine.wingsAppend s id) := by
  unfold Sys2Proof.Machine.wingsAppend
  repeat' first
    | with_reducible assumption
    | with_reducible apply MemCanonical.ringWrite
    | with_reducible apply MemCanonical.mapRop
    | with_reducible apply MemCanonical.mapCtx
    | with_reducible apply MemCanonical.faultRop
    | split
    | extract_lets
    | dsimp +zetaDelta only [Res.All, OptAll]

theorem MemCanonical.setSession {s : State} (h : MemCanonical s) (pkg pch : Nat) (n : Option NmSession) :
    MemCanonical (Sys2Proof.Machine.setSession s pkg pch n) := by
  unfold Sys2Proof.Machine.setSession
  repeat' first
    | with_reducible assumption
    | split
    | extract_lets
    | (with_reducible apply MemCanonical.mk; first | with_reducible assumption)

theorem MemCanonical.endNm {s : State} (h : MemCanonical s) (n : Nm) (code : Nat) (lanes : Option (Mask × (Nat → Word))) :
    MemCanonical (Sys2Proof.Machine.endNm s n code lanes) := by
  unfold Sys2Proof.Machine.endNm
  repeat' first
    | with_reducible assumption
    | with_reducible apply MemCanonical.dropResponse
    | with_reducible apply MemCanonical.dropNm
    | with_reducible apply MemCanonical.dropLate
    | with_reducible apply MemCanonical.putWord
    | with_reducible apply MemCanonical.setVoid
    | split
    | extract_lets
    | dsimp +zetaDelta only [Res.All, OptAll]

theorem MemCanonical.runNm {s : State} (h : MemCanonical s) (n : Nm) (ns : NmSession) :
    OptAll MemCanonical (Sys2Proof.Machine.runNm s n ns) := by
  unfold Sys2Proof.Machine.runNm
  repeat' first
    | with_reducible assumption
    | with_reducible apply MemCanonical.holdCuu
    | with_reducible apply MemCanonical.endNm
    | with_reducible apply MemCanonical.setSession
    | with_reducible apply MemCanonical.faultRec
    | split
    | extract_lets
    | dsimp +zetaDelta only [Res.All, OptAll]

theorem MemCanonical.nmExecute {s : State} (h : MemCanonical s) (id : Nat) :
    OptAll MemCanonical (Sys2Proof.Machine.nmExecute s id) := by
  unfold Sys2Proof.Machine.nmExecute
  repeat' first
    | with_reducible assumption
    | with_reducible apply MemCanonical.endNm
    | with_reducible apply MemCanonical.setSession
    | with_reducible apply MemCanonical.runNm
    | split
    | extract_lets
    | dsimp +zetaDelta only [Res.All, OptAll]

theorem MemCanonical.nmTimeout {s : State} (h : MemCanonical s) (pkg pch : Nat) :
    OptAll MemCanonical (Sys2Proof.Machine.nmTimeout s pkg pch) := by
  unfold Sys2Proof.Machine.nmTimeout
  repeat' first
    | with_reducible assumption
    | with_reducible apply MemCanonical.setSession
    | split
    | extract_lets
    | dsimp +zetaDelta only [Res.All, OptAll]

theorem MemCanonical.definitionLoaded {s : State} (h : MemCanonical s) (id : Nat) :
    OptAll MemCanonical (Sys2Proof.Machine.definitionLoaded s id) := by
  unfold Sys2Proof.Machine.definitionLoaded
  repeat' first
    | with_reducible assumption
    | with_reducible apply MemCanonical.endDefLoad
    | with_reducible refine OptAll.map (fun _ => ?_)
    | split
    | extract_lets
    | dsimp +zetaDelta only [Res.All, OptAll]

theorem MemCanonical.definitionDropped {s : State} (h : MemCanonical s) (id : Nat) :
    OptAll MemCanonical (Sys2Proof.Machine.definitionDropped s id) := by
  unfold Sys2Proof.Machine.definitionDropped
  repeat' first
    | with_reducible assumption
    | with_reducible apply MemCanonical.setSlots
    | with_reducible apply MemCanonical.mapDefOp
    | split
    | extract_lets
    | dsimp +zetaDelta only [Res.All, OptAll]

end Sys2Proof.Machine
end

