-- ==== Sys2Proof/Laws/KeptDevice.lean ====
section
/-! SUPPORT. The memory's canonical form, kept by the device's steps: launches, groups, queues, contexts, pages, the host link, ports and fields. -/

namespace Sys2Proof.Machine

open Sys2Proof

/-! ## Machine/Prompt.lean -/

theorem MemCanonical.endPageWait {s : State} (h : MemCanonical s) (w : PageWaiter) (pkg ctx : Nat) :
    MemCanonical (Sys2Proof.Machine.endPageWait s w pkg ctx) := by
  unfold Sys2Proof.Machine.endPageWait
  repeat' first
    | with_reducible assumption
    | split
    | extract_lets
    | (with_reducible apply MemCanonical.mk; first | with_reducible assumption)

theorem MemCanonical.meetPages {s t : State} (h : MemCanonical s) {w : PageWaiter} {pkg ctx kind : Nat} {gid : Word} {va n : Nat}
    (e : meetPages s w pkg ctx kind gid va n = .waits t) : MemCanonical t := by
  unfold Sys2Proof.Machine.meetPages at e
  split at e
  · cases e
  split at e
  · cases e
  split at e
  · cases e
  split at e
  · cases e
    exact MemCanonical.dropPacket (MemCanonical.mk h) _
  split at e
  · cases e
  split at e
  · cases e
  · cases e
    exact MemCanonical.faultRec (MemCanonical.mk h) _ _ _ _ _ _ _ _ _

theorem MemCanonical.setQueue {s : State} (h : MemCanonical s) (pkg ctx q : Nat) (f : Queue → Queue) :
    MemCanonical (Sys2Proof.Machine.setQueue s pkg ctx q f) := by
  unfold Sys2Proof.Machine.setQueue
  repeat' first
    | with_reducible assumption
    | with_reducible apply MemCanonical.storeEntry
    | with_reducible apply MemCanonical.mapCtx
    | split
    | extract_lets

theorem MemCanonical.noteQueue {s : State} (h : MemCanonical s) (pkg ctx q : Nat) (f : Queue → Queue) :
    MemCanonical (Sys2Proof.Machine.noteQueue s pkg ctx q f) := by
  unfold Sys2Proof.Machine.noteQueue
  repeat' first
    | with_reducible assumption
    | with_reducible apply MemCanonical.mapCtx
    | split
    | extract_lets

theorem MemCanonical.drainQueue {s : State} (h : MemCanonical s) (pkg ctx q err : Nat) :
    MemCanonical (Sys2Proof.Machine.drainQueue s pkg ctx q err) := by
  unfold Sys2Proof.Machine.drainQueue
  repeat' first
    | with_reducible assumption
    | with_reducible apply MemCanonical.endPageWait
    | with_reducible apply MemCanonical.setQueue
    | split
    | extract_lets

theorem MemCanonical.armQueue {s : State} (h : MemCanonical s) (pkg ctx q : Nat) :
    MemCanonical (Sys2Proof.Machine.armQueue s pkg ctx q) := by
  unfold Sys2Proof.Machine.armQueue
  repeat' first
    | with_reducible assumption
    | with_reducible apply MemCanonical.setQueue
    | split
    | extract_lets

theorem MemCanonical.failNode {s : State} (h : MemCanonical s) (pkg ctx q id node err : Nat) :
    MemCanonical (Sys2Proof.Machine.failNode s pkg ctx q id node err) := by
  unfold Sys2Proof.Machine.failNode
  repeat' first
    | with_reducible assumption
    | with_reducible apply MemCanonical.drainQueue
    | with_reducible apply MemCanonical.noteQueue
    | split
    | extract_lets

/-! ## Machine/Verify.lean -/

theorem MemCanonical.writeLaunchRecord {s : State} (h : MemCanonical s) (k : Inst) (code level : Nat) :
    MemCanonical (Sys2Proof.Machine.writeLaunchRecord s k code level) := by
  unfold Sys2Proof.Machine.writeLaunchRecord
  repeat' first
    | with_reducible assumption
    | with_reducible apply MemCanonical.writeOwn
    | with_reducible apply MemCanonical.writeSpan
    | split
    | extract_lets

theorem MemCanonical.launchStatus {s : State} (h : MemCanonical s) (k : Inst) (v : Nat) :
    MemCanonical (Sys2Proof.Machine.launchStatus s k v) := by
  unfold Sys2Proof.Machine.launchStatus
  repeat' first
    | with_reducible assumption
    | with_reducible apply MemCanonical.putWord
    | split
    | extract_lets

theorem MemCanonical.kidsFall {s : State} (h : MemCanonical s) (k : Inst) :
    MemCanonical (Sys2Proof.Machine.kidsFall s k) := by
  unfold Sys2Proof.Machine.kidsFall
  repeat' first
    | with_reducible assumption
    | with_reducible apply MemCanonical.mapGroup
    | split
    | extract_lets

theorem MemCanonical.dropInst {s : State} (h : MemCanonical s) (k : Inst) : MemCanonical (dropInst s k) :=
  MemCanonical.keepEntries (MemCanonical.mk ((h.endPageWait _ _ _).endPageWait _ _ _)) _

theorem MemCanonical.refuseLaunch {s : State} (h : MemCanonical s) (k : Inst) (code level : Nat) :
    MemCanonical (Sys2Proof.Machine.refuseLaunch s k code level) := by
  unfold Sys2Proof.Machine.refuseLaunch
  repeat' first
    | with_reducible assumption
    | with_reducible apply MemCanonical.writeLaunchRecord
    | with_reducible apply MemCanonical.kidsFall
    | with_reducible apply MemCanonical.launchStatus
    | with_reducible apply MemCanonical.dropInst
    | with_reducible apply MemCanonical.failNode
    | split
    | extract_lets

theorem MemCanonical.loadEntry {s : State} (h : MemCanonical s) (k : Inst) (img : List Byte) (e : DefEntry) :
    OptAll MemCanonical (Sys2Proof.Machine.loadEntry s k img e) := by
  unfold Sys2Proof.Machine.loadEntry
  repeat' first
    | with_reducible assumption
    | with_reducible apply MemCanonical.setSlots
    | split
    | extract_lets
    | dsimp +zetaDelta only [Res.All, OptAll]

theorem MemCanonical.loadEntries (k : Inst) (img : List Byte) (l : List DefEntry) :
    ∀ {s : State}, MemCanonical s → MemCanonical (loadEntries k img l s).1 := by
  induction l with
  | nil => intro s h; exact h
  | cons e t ih =>
    intro s h
    unfold Sys2Proof.Machine.loadEntries
    split
    · exact ih (OptAll.get (h.loadEntry k img e) (by assumption))
    · exact h

/-- The state of a part of a verification has property P. -/
def Phase.All (P : State → Prop) : Phase → Prop
  | .on t | .done t => P t
  | .held => True

theorem Phase.All.refuse {s : State} (h : MemCanonical s) (k : Inst) (c l : Nat) : (Phase.refuse s k c l).All MemCanonical := h.refuseLaunch _ _ _
theorem MemCanonical.meetImage {s : State} (h : MemCanonical s) (k : Inst) (n : Nat) (reads : List Byte → List Section) {go : List Byte → Phase}
    (hg : ∀ b, (go b).All MemCanonical) : (meetImage s k n reads go).All MemCanonical := by
  unfold Sys2Proof.Machine.meetImage
  split
  · dsimp only
    split
    · exact h.raiseUncorr _ _ _ _
    · exact hg _
  · exact h.meetPages (by assumption)
  · trivial
  · exact Phase.All.refuse h _ _ _
  · exact Phase.All.refuse h _ _ _

theorem MemCanonical.phaseImage {s : State} (h : MemCanonical s) (k : Inst) : (phaseImage s k).All MemCanonical := by
  unfold Sys2Proof.Machine.phaseImage
  split
  · exact Phase.All.refuse h _ _ _
  · refine h.meetImage _ _ _ (fun hb => ?_)
    dsimp only
    split
    · exact Phase.All.refuse h _ _ _
    · refine h.meetImage _ _ _ (fun img => ?_)
      split
      · exact Phase.All.refuse h _ _ _
      · have hl := MemCanonical.loadEntries k img (defEntries img (imgHdr hb)) h
        split
        · exact Phase.All.refuse hl _ _ _
        · split
          · exact Phase.All.refuse hl _ _ _
          · exact hl

theorem MemCanonical.zeroCount {s : State} (h : MemCanonical s) (k : Inst) :
    MemCanonical (Sys2Proof.Machine.zeroCount s k) := by
  unfold Sys2Proof.Machine.zeroCount
  repeat' first
    | with_reducible assumption
    | with_reducible apply MemCanonical.launchStatus
    | with_reducible apply MemCanonical.mapInst
    | split
    | extract_lets

theorem MemCanonical.takeCount {s : State} (h : MemCanonical s) (k : Inst) (n : Nat) : (takeCount s k n).All MemCanonical := by
  unfold Sys2Proof.Machine.takeCount
  split
  · exact Phase.All.refuse h _ _ _
  · split
    · exact h.zeroCount _
    · exact h

theorem MemCanonical.phaseCount {s : State} (h : MemCanonical s) (k : Inst) : (phaseCount s k).All MemCanonical := by
  unfold Sys2Proof.Machine.phaseCount
  split
  · split
    · dsimp only
      split
      · exact h.raiseUncorr _ _ _ _
      · exact h.takeCount _ _
    · exact h.meetPages (by assumption)
    · trivial
    · exact Phase.All.refuse h _ _ _
    · exact Phase.All.refuse h _ _ _
  · exact h.takeCount _ _

theorem MemCanonical.phaseBuild {s : State} (h : MemCanonical s) (k : Inst) (c : Ctx) (area : Nat) : (Sys2Proof.Machine.phaseBuild s k c area).All MemCanonical := by
  have hf : ∀ va, Phase.All MemCanonical (.done (Sys2Proof.Machine.raiseCtxFault s k.pkg k.ctx { cause := cADDR, pkg := k.pkg, addr := va })) :=
    fun _ => h.raiseCtxFault _ _ _
  unfold Sys2Proof.Machine.phaseBuild
  extract_lets size used fault gid base pad ls k' finish r
  split
  · split
    · exact h.raiseCtxFault _ _ _
    · trivial
  have hfin : ∀ par, (finish par).All MemCanonical := by
    intro par
    dsimp only [finish]
    split
    · split
      · trivial
      · exact MemCanonical.launchStatus (MemCanonical.mapInst (h.writeSpan _ _ _ _) _ _) _ _
    · rename_i e
      split at e
      · contradiction
      · exact h.meetPages e
    · trivial
    · exact hf _
    · exact hf _
  · split
    · exact hfin _
    · split
      · split
        · exact h.raiseUncorr _ _ _ _
        · exact hfin _
      · exact h.meetPages (by assumption)
      · trivial
      · exact hf _
      · exact hf _

theorem MemCanonical.phaseTree {s : State} (h : MemCanonical s) (k : Inst) (c : Ctx) (area : Nat) : (phaseTree s k c area).All MemCanonical := by
  unfold Sys2Proof.Machine.phaseTree
  split
  · exact Phase.All.refuse h _ _ _
  · exact h.phaseBuild _ _ _

theorem MemCanonical.verifyFrom (id area n : Nat) : ∀ {s : State}, MemCanonical s → (Sys2Proof.Machine.verifyFrom id area n s).All MemCanonical := by
  induction n with
  | zero => intro s h; exact h
  | succ n ih =>
    intro s h
    unfold Sys2Proof.Machine.verifyFrom
    split
    · trivial
    · rename_i k _
      split
      · trivial
      · rename_i c _
        cases hk : k.state <;> dsimp only
        case ready =>
          have hr := h.phaseImage k
          split
          · next heq => rw [heq] at hr; exact ih hr
          · exact hr
        case loaded =>
          have hr := h.phaseCount k
          split
          · next heq => rw [heq] at hr; exact ih hr
          · exact hr
        case launched =>
          have hr := h.phaseTree k c area
          split
          · next heq => rw [heq] at hr; exact ih hr
          · exact hr
        all_goals trivial

theorem MemCanonical.launchVerify {s : State} (h : MemCanonical s) (id area : Nat) : OptAll MemCanonical (launchVerify s id area) := by
  have hv := MemCanonical.verifyFrom id area 4 h
  unfold Sys2Proof.Machine.launchVerify
  split
  · trivial
  · split
    · trivial
    · split
      · split
        · next heq => rw [heq] at hv; exact hv
        · next heq => rw [heq] at hv; exact hv
        · trivial
      · trivial

/-! ## Machine/GroupEvents.lean -/

theorem MemCanonical.debitCore {s : State} (h : MemCanonical s) (k : Inst) (pkg core : Nat) :
    MemCanonical (Sys2Proof.Machine.debitCore s k pkg core) := by
  unfold Sys2Proof.Machine.debitCore
  repeat' first
    | with_reducible assumption
    | with_reducible apply MemCanonical.mapField
    | split
    | extract_lets

theorem MemCanonical.openCore {s : State} (h : MemCanonical s) (k : Inst) (pkg core : Nat) :
    MemCanonical (Sys2Proof.Machine.openCore s k pkg core) := by
  unfold Sys2Proof.Machine.openCore
  repeat' first
    | with_reducible assumption
    | with_reducible exact True.intro
    | split
    | extract_lets
    | dsimp +zetaDelta only [Res.All, OptAll]
    | (with_reducible apply MemCanonical.mk; first | with_reducible assumption | with_reducible exact True.intro | split | extract_lets | dsimp +zetaDelta only [Res.All, OptAll])

theorem MemCanonical.seat {s : State} (h : MemCanonical s) (k : Inst) (rank pkg core : Nat) :
    MemCanonical (Sys2Proof.Machine.seat s k rank pkg core) := by
  unfold Sys2Proof.Machine.seat
  split
  · exact h
  · split
    · exact h
    · exact MemCanonical.mapInst (MemCanonical.mk ((h.debitCore _ _ _).openCore _ _ _)) _ _

/-- The state that a save has led to has property P. -/
def Saved.All (P : State → Prop) : Saved → Prop
  | .ok t | .full t _ _ => P t
  | .waits => True
theorem MemCanonical.putRecord {s : State} (h : MemCanonical s) (pkg ctx n : Nat) (head : List Byte) {k : GreenRec → State → State}
    (hk : ∀ r t, MemCanonical t → MemCanonical (k r t)) : (Sys2Proof.Machine.putRecord s pkg ctx n head k).All MemCanonical := by
  unfold Sys2Proof.Machine.putRecord
  repeat' first
    | trivial
    | exact h
    | exact hk _ _ (MemCanonical.writeOwn (MemCanonical.mk h) _ _ _ _)
    | split

theorem MemCanonical.leaveCore {s : State} (h : MemCanonical s) (k : Inst) (pkg core : Nat) :
    (Sys2Proof.Machine.leaveCore s k pkg core).All MemCanonical := by
  unfold Sys2Proof.Machine.leaveCore
  split
  · exact h
  extract_lets s1 keep
  have h1 : MemCanonical s1 := h.creditCore _ _ _
  repeat' first
    | exact h1
    | exact h1.putRecord _ _ _ _ (fun _ _ h => h)
    | split

theorem MemCanonical.savedState {r : Saved} (hr : r.All MemCanonical) : OptAll MemCanonical r.state := by
  cases r with
  | ok t => exact hr
  | full t p c => exact MemCanonical.raiseCtxFault hr _ _ _
  | waits => trivial

theorem MemCanonical.freeObjs {s : State} (h : MemCanonical s) (k : Inst) (g : Group) :
    MemCanonical (Sys2Proof.Machine.freeObjs s k g) := by
  unfold Sys2Proof.Machine.freeObjs
  repeat' first
    | with_reducible assumption
    | with_reducible exact True.intro
    | with_reducible apply MemCanonical.mapCoreOf
    | split
    | extract_lets
    | dsimp +zetaDelta only [Res.All, OptAll]

theorem MemCanonical.orphansAfter {s : State} (h : MemCanonical s) (k : Inst) (g : Group) :
    MemCanonical (Sys2Proof.Machine.orphansAfter s k g) := by
  unfold Sys2Proof.Machine.orphansAfter
  repeat' first
    | with_reducible assumption
    | with_reducible exact True.intro
    | with_reducible apply MemCanonical.trapOrphans
    | with_reducible refine MemCanonical.foldl ?_ _ (fun _ _ _ => ?_)
    | split
    | extract_lets
    | dsimp +zetaDelta only [Res.All, OptAll]

theorem MemCanonical.liftAll {s : State} (h : MemCanonical s) (gid : Nat) :
    MemCanonical (Sys2Proof.Machine.liftAll s gid) := by
  unfold Sys2Proof.Machine.liftAll
  repeat' first
    | with_reducible assumption
    | with_reducible exact True.intro
    | with_reducible apply MemCanonical.mapCores
    | with_reducible apply MemCanonical.quarantine
    | split
    | extract_lets
    | dsimp +zetaDelta only [Res.All, OptAll]

theorem MemCanonical.groupRetire {s : State} (h : MemCanonical s) (gid : Nat) : OptAll MemCanonical (Sys2Proof.Machine.groupRetire s gid) := by
  unfold Sys2Proof.Machine.groupRetire
  split
  · trivial
  split
  · trivial
  split
  · trivial
  extract_lets s1 s2 s3 s4
  have h1 : MemCanonical s1 := (h.freeSlot _).liftAll _
  have h3 : MemCanonical s3 := MemCanonical.orphansAfter (MemCanonical.freeObjs (MemCanonical.mk h1) _ _) _ _
  have h4 : MemCanonical s4 := h3.mapInst _ _
  clear_value s4
  exact MemCanonical.savedState (h4.leaveCore _ _ _)

theorem MemCanonical.beginSave {s : State} (h : MemCanonical s) (g : Group) :
    MemCanonical (Sys2Proof.Machine.beginSave s g) := by
  unfold Sys2Proof.Machine.beginSave
  repeat' first
    | with_reducible assumption
    | with_reducible exact True.intro
    | with_reducible apply MemCanonical.rollback
    | with_reducible apply MemCanonical.commitOpen
    | with_reducible apply MemCanonical.mapGroup
    | with_reducible refine MemCanonical.foldl ?_ _ (fun _ _ _ => ?_)
    | split
    | extract_lets
    | dsimp +zetaDelta only [Res.All, OptAll]

theorem MemCanonical.abandonLoads {s : State} (h : MemCanonical s) (gid : Nat) :
    MemCanonical (Sys2Proof.Machine.abandonLoads s gid) := by
  unfold Sys2Proof.Machine.abandonLoads
  repeat' first
    | with_reducible assumption
    | with_reducible exact True.intro
    | split
    | extract_lets
    | dsimp +zetaDelta only [Res.All, OptAll]
    | (with_reducible apply MemCanonical.mk; first | with_reducible assumption | with_reducible exact True.intro | split | extract_lets | dsimp +zetaDelta only [Res.All, OptAll])

theorem MemCanonical.saveOne {s : State} (h : MemCanonical s) (g : Group) : (Sys2Proof.Machine.saveOne s g).All MemCanonical := by
  unfold Sys2Proof.Machine.saveOne
  split
  · trivial
  · next k _ =>
    have hp := h.putRecord g.pkg g.ctx (groupRecLen k.regs) [] (k := fun r t => (Sys2Proof.Machine.freeSlot (Sys2Proof.Machine.abandonLoads t g.id) g).mapGroup g.id (fun o => o.asSaved r (kidsLimit t k g)))
      (fun _ _ ht => ((ht.abandonLoads _).freeSlot _).mapGroup _ _)
    split
    · next e => exact MemCanonical.leaveCore (by have := hp; rw [e] at this; exact this) _ _ _
    · exact hp

theorem MemCanonical.saveAll (gs : List Group) : ∀ {s : State}, MemCanonical s → (Sys2Proof.Machine.saveAll gs s).All MemCanonical := by
  induction gs with
  | nil => intro s h; exact h
  | cons g t ih =>
    intro s h
    unfold Sys2Proof.Machine.saveAll
    have h1 := h.saveOne g
    split
    · next e => exact ih (show Saved.All MemCanonical (.ok _) from e ▸ h1)
    · exact h1

theorem MemCanonical.beginAll {s : State} (h : MemCanonical s) (gs : List Group) :
    MemCanonical (gs.foldl (fun s g => if g.saving then s else Sys2Proof.Machine.beginSave s g) s) :=
  h.foldl _ (fun _ _ h => by split; exact h; exact h.beginSave _)
theorem MemCanonical.saveStep {s : State} (h : MemCanonical s) (gs : List Group) {k : List Group → State → Saved}
    (hk : ∀ gs t, MemCanonical t → (k gs t).All MemCanonical) : OptAll MemCanonical (Sys2Proof.Machine.saveStep s gs k) := by
  have h1 := h.beginAll gs
  unfold Sys2Proof.Machine.saveStep
  dsimp only
  repeat' first
    | trivial
    | exact h1
    | exact MemCanonical.savedState (hk _ _ h1)
    | split

theorem MemCanonical.groupSave {s : State} (h : MemCanonical s) (gid : Nat) : OptAll MemCanonical (Sys2Proof.Machine.groupSave s gid) := by
  unfold Sys2Proof.Machine.groupSave
  repeat' first
    | trivial
    | exact h.saveStep _ (fun gs _ ht => ht.saveAll gs)
    | split
    | extract_lets

theorem MemCanonical.restoreCore {s : State} (h : MemCanonical s) (k : Inst) (r : CoreRec) (pkg core : Nat) :
    MemCanonical (Sys2Proof.Machine.restoreCore s k r pkg core) := by
  unfold Sys2Proof.Machine.restoreCore
  exact MemCanonical.keepEntries (MemCanonical.mk h) _

theorem MemCanonical.enterCore {s : State} (h : MemCanonical s) (g : Group) (p : Pkg) (core slot : Nat) :
    MemCanonical (Sys2Proof.Machine.enterCore s g p core slot) := by
  unfold Sys2Proof.Machine.enterCore
  repeat' first
    | with_reducible assumption
    | with_reducible apply MemCanonical.mapGroup
    | with_reducible apply MemCanonical.mapInst
    | split
    | extract_lets

theorem MemCanonical.targetCore {s : State} (h : MemCanonical s) (k : Inst) (g : Group) (core : Nat) :
    OptAll MemCanonical (Sys2Proof.Machine.targetCore s k g core) := by
  unfold Sys2Proof.Machine.targetCore
  (repeat' split) <;> first | exact h | trivial | exact OptAll.map (fun _ => h.restoreCore _ _ _ _)

theorem MemCanonical.loseRecord {s : State} (h : MemCanonical s) (r : GreenRec) (home : Nat) : MemCanonical (loseRecord s r home) :=
  MemCanonical.dropPacket (MemCanonical.mk h) _

/-- What a restore meets in place of intact records. -/
theorem MemCanonical.badRecord {s : State} (h : MemCanonical s) (g : Group) (core : Nat) {r : Option State}
    (e : Sys2Proof.Machine.badRecord s g core = some r) : OptAll MemCanonical r := by
  obtain ⟨q, -, hq⟩ := List.exists_of_findSome?_eq_some e
  split at hq <;> cases hq
  · exact h.raiseUncorr _ _ _ _
  · trivial
  · exact h.loseRecord _ _

theorem MemCanonical.restoreOne {s : State} (h : MemCanonical s) (gid core : Nat) :
    OptAll MemCanonical (Sys2Proof.Machine.restoreOne s gid core) := by
  unfold Sys2Proof.Machine.restoreOne
  split
  · trivial
  split
  case h_2 => trivial
  split
  · trivial
  split
  · next e => exact h.badRecord _ _ e
  split
  case h_2 => trivial
  next e _ =>
    have h1 := OptAll.get ((h.debitCore _ _ _).targetCore _ _ _) e
    repeat' first
      | trivial
      | exact h1
      | exact h1.enterCore _ _ _ _
      | split

theorem MemCanonical.restoreRest (l : List Nat) : ∀ {s : State}, MemCanonical s → OptAll MemCanonical (Sys2Proof.Machine.restoreRest l s) := by
  induction l with
  | nil => intro s h; exact h
  | cons gid t ih =>
    intro s h
    rw [Sys2Proof.Machine.restoreRest]
    split
    · exact h
    · split
      · have hf : ∀ core, OptAll MemCanonical ((Sys2Proof.Machine.restoreOne s gid core).bind (Sys2Proof.Machine.restoreRest t)) :=
          fun core => (h.restoreOne gid core).bindOf (fun _ ht => ih ht)
        generalize List.range 672 = l
        exact OptAll.findSome hf
      · exact ih h

theorem MemCanonical.launchPlaced {s : State} (h : MemCanonical s) (k : Inst) : MemCanonical (launchPlaced s k) := by
  unfold Sys2Proof.Machine.launchPlaced
  split
  · split
    · exact h.setQueue _ _ _ _
    · exact h
  · exact h

theorem MemCanonical.placeOne {s : State} (h : MemCanonical s) (k : Inst) (rank pkg core : Nat) : OptAll MemCanonical (placeOne s k rank pkg core) := by
  unfold Sys2Proof.Machine.placeOne
  split
  · trivial
  · dsimp only
    split
    · exact h.seat _ _ _ _
    · trivial

theorem MemCanonical.groupPlace {s : State} (h : MemCanonical s) (inst rank pkg core : Nat) : OptAll MemCanonical (groupPlace s inst rank pkg core) := by
  unfold Sys2Proof.Machine.groupPlace
  split
  · trivial
  · split
    · trivial
    · exact (h.placeOne _ _ _ _).mapOf (fun _ ht => ht.launchPlaced _)

theorem MemCanonical.groupRestore {s : State} (h : MemCanonical s) (gid core : Nat) : OptAll MemCanonical (groupRestore s gid core) := by
  unfold Sys2Proof.Machine.groupRestore
  split
  · trivial
  split
  · trivial
  · exact ((h.restoreOne _ _).bindOf (fun _ ht => MemCanonical.restoreRest _ ht)).filter

theorem MemCanonical.moveCoreState {s : State} (h : MemCanonical s) (k : Inst) (lv node pkg a b : Nat) (gids : List Nat) :
    OptAll MemCanonical (Sys2Proof.Machine.moveCoreState s k lv node pkg a b gids) := by
  unfold Sys2Proof.Machine.moveCoreState
  repeat' first
    | with_reducible assumption
    | with_reducible apply MemCanonical.mapCore
    | split
    | extract_lets
    | dsimp +zetaDelta only [Res.All, OptAll]
    | (with_reducible apply MemCanonical.mk; first | with_reducible assumption | with_reducible apply MemCanonical.mapCore | split | extract_lets | dsimp +zetaDelta only [Res.All, OptAll])

theorem MemCanonical.reseat (p core : Nat) (gs : List Group) : ∀ {s : State}, MemCanonical s → (Sys2Proof.Machine.reseat p core gs s).All MemCanonical := by
  induction gs with
  | nil => intro s h; exact h
  | cons g t ih =>
    intro s h
    unfold Sys2Proof.Machine.reseat
    split
    · split
      · trivial
      · generalize groupRecLen _ = n
        split
        · next e =>
          refine ih (show Saved.All MemCanonical (.ok _) from ?_)
          rw [← e]
          exact h.putRecord _ _ _ _ (fun r _ ht => (((ht.abandonLoads g.id).freeSlot g).mapGroup g.id (fun g => g.asSaved r none)).enterCore g _ core _)
        · exact h.putRecord _ _ _ _ (fun r _ ht => (((ht.abandonLoads g.id).freeSlot g).mapGroup g.id (fun g => g.asSaved r none)).enterCore g _ core _)
    · trivial

theorem MemCanonical.moveTo {s : State} (h : MemCanonical s) (k : Inst) (lv node pkg a b : Nat) (gs : List Group) :
    OptAll MemCanonical (Sys2Proof.Machine.moveTo s k lv node pkg a b gs) := by
  unfold Sys2Proof.Machine.moveTo
  split
  · trivial
  · split
    · trivial
    · exact OptAll.filter (((h.debitCore _ _ _).openCore _ _ _).moveCoreState _ _ _ _ _ _ _)

theorem MemCanonical.moveNow {s : State} (h : MemCanonical s) (k : Inst) (lv node pkg a b : Nat) (gs : List Group) :
    OptAll MemCanonical (Sys2Proof.Machine.moveNow s k lv node pkg a b gs) := by
  refine OptAll.bindOf (h.moveTo _ _ _ _ _ _ _) (fun t ht => ?_)
  have hr := MemCanonical.reseat pkg b gs ht
  split
  · next e => exact MemCanonical.savedState (MemCanonical.leaveCore (show Saved.All MemCanonical (.ok _) from e ▸ hr) _ _ _)
  · exact MemCanonical.savedState hr

theorem MemCanonical.giveUpMove {s : State} (h : MemCanonical s) (gs : List Group) :
    OptAll MemCanonical (Sys2Proof.Machine.giveUpMove s gs) := by
  unfold Sys2Proof.Machine.giveUpMove
  split
  · exact h
  · trivial

theorem MemCanonical.beginMove {s : State} (h : MemCanonical s) (g : Group) : MemCanonical (beginMove s g) := (h.beginSave g).mapGroup _ _

theorem MemCanonical.nodeMove {s : State} (h : MemCanonical s) (inst level node core : Nat) :
    OptAll MemCanonical (Sys2Proof.Machine.nodeMove s inst level node core) := by
  unfold Sys2Proof.Machine.nodeMove
  split
  · trivial
  extract_lets gs fresh s1 gs1
  have h1 : MemCanonical s1 := h.foldl _ (fun _ _ h => by split; exact h; exact h.beginMove _)
  clear_value gs1 s1 fresh gs
  split
  · trivial
  split
  · exact h.giveUpMove _
  split
  · refine OptAll.or (h1.moveNow _ _ _ _ _ _ _) ?_
    split
    · exact h1
    · trivial
  split
  · exact h1
  · trivial

theorem MemCanonical.holdQueue {s : State} (h : MemCanonical s) (k : Inst) (ct : Nat) : MemCanonical (holdQueue s k ct) := by
  unfold Sys2Proof.Machine.holdQueue
  split
  · exact h
  · exact h.noteQueue _ _ _ _

/-- The image of a saved core's objects in the green room. -/
theorem MemCanonical.refreshRec {s : State} (h : MemCanonical s) (r : CoreRec) : MemCanonical (refreshRec s r) := by
  unfold Sys2Proof.Machine.refreshRec
  repeat' first
    | with_reducible assumption
    | exact MemCanonical.mk (h.writeOwn _ _ _ _)
    | split
    | extract_lets

theorem MemCanonical.settleRecs {s : State} (h : MemCanonical s) : MemCanonical (settleRecs s) := h.foldl _ (fun _ _ h => h.refreshRec _)

theorem MemCanonical.completeInst {s : State} (h : MemCanonical s) (k : Inst) (ct : Nat) :
    MemCanonical (Sys2Proof.Machine.completeInst s k ct) := by
  unfold Sys2Proof.Machine.completeInst
  have h1 : MemCanonical (if k.count = 0 then Sys2Proof.Machine.launchStatus s k 0 else s) := by
    split
    · exact h.launchStatus _ _
    · exact h
  refine MemCanonical.dropInst (MemCanonical.holdQueue ?_ _ _) _
  split
  · exact (h1.kidsFall _).mapInst _ _
  · exact h1.kidsFall _

theorem MemCanonical.deniedCompletion {s : State} (h : MemCanonical s) (k : Inst) :
    MemCanonical (Sys2Proof.Machine.deniedCompletion s k) := by
  unfold Sys2Proof.Machine.deniedCompletion
  repeat' first
    | with_reducible assumption
    | with_reducible apply MemCanonical.failNode
    | with_reducible apply MemCanonical.dropInst
    | with_reducible apply MemCanonical.raiseCtxFault
    | split
    | extract_lets

theorem MemCanonical.instanceComplete {s : State} (h : MemCanonical s) (id : Nat) :
    OptAll MemCanonical (Sys2Proof.Machine.instanceComplete s id) := by
  unfold Sys2Proof.Machine.instanceComplete
  repeat' first
    | with_reducible assumption
    | with_reducible apply MemCanonical.completeInst
    | with_reducible exact MemCanonical.meetPages (by assumption) (by assumption)
    | with_reducible apply MemCanonical.writeHome
    | with_reducible apply MemCanonical.deniedCompletion
    | split
    | extract_lets
    | dsimp +zetaDelta only [Res.All, OptAll]

/-! ## Machine/QueueEvents.lean -/

theorem MemCanonical.graphUncorr {s : State} (h : MemCanonical s) (pkg ctx va : Nat) :
    MemCanonical (Sys2Proof.Machine.graphUncorr s pkg ctx va) := by
  unfold Sys2Proof.Machine.graphUncorr
  repeat' first
    | with_reducible assumption
    | with_reducible apply MemCanonical.raiseUncorr
    | split
    | extract_lets

theorem MemCanonical.absentQueue {s : State} (h : MemCanonical s) (pkg ctx q gen : Nat) :
    MemCanonical (Sys2Proof.Machine.absentQueue s pkg ctx q gen) := by
  unfold Sys2Proof.Machine.absentQueue
  repeat' first
    | with_reducible assumption
    | with_reducible apply MemCanonical.noteQueue
    | with_reducible apply MemCanonical.endPageWait
    | split
    | extract_lets

theorem MemCanonical.drainTake {s : State} (h : MemCanonical s) (pkg ctx q err : Nat) (e : QEntry) :
    MemCanonical (Sys2Proof.Machine.drainTake s pkg ctx q err e) := by
  unfold Sys2Proof.Machine.drainTake
  repeat' first
    | with_reducible assumption
    | with_reducible apply MemCanonical.setQueue
    | with_reducible apply MemCanonical.endPageWait
    | split
    | extract_lets

theorem MemCanonical.goodTake {s : State} (h : MemCanonical s) (pkg ctx q : Nat) (e : QEntry) (arm : Nat) :
    MemCanonical (Sys2Proof.Machine.goodTake s pkg ctx q e arm) := by
  unfold Sys2Proof.Machine.goodTake
  repeat' first
    | with_reducible assumption
    | with_reducible apply MemCanonical.setQueue
    | with_reducible apply MemCanonical.endPageWait
    | split
    | extract_lets

theorem MemCanonical.takeEntry {s : State} (h : MemCanonical s) (pkg ctx q : Nat) (e : QEntry) :
    OptAll MemCanonical (Sys2Proof.Machine.takeEntry s pkg ctx q e) := by
  unfold Sys2Proof.Machine.takeEntry
  repeat' first
    | with_reducible assumption
    | with_reducible apply MemCanonical.absentQueue
    | with_reducible apply MemCanonical.drainTake
    | with_reducible exact MemCanonical.meetPages (by assumption) (by assumption)
    | with_reducible apply MemCanonical.graphUncorr
    | with_reducible apply MemCanonical.goodTake
    | with_reducible apply MemCanonical.noteQueue
    | split
    | extract_lets
    | dsimp +zetaDelta only [Res.All, OptAll]

theorem MemCanonical.queueTake {s : State} (h : MemCanonical s) (pkg ctx q : Nat) :
    OptAll MemCanonical (Sys2Proof.Machine.queueTake s pkg ctx q) := by
  unfold Sys2Proof.Machine.queueTake
  repeat' first
    | with_reducible assumption
    | with_reducible exact MemCanonical.meetPages (by assumption) (by assumption)
    | with_reducible apply MemCanonical.graphUncorr
    | with_reducible exact OptAll.get (MemCanonical.takeEntry (by assumption) _ _ _ _) (by assumption)
    | with_reducible apply MemCanonical.noteQueue
    | with_reducible apply MemCanonical.drainTake
    | split
    | extract_lets
    | dsimp +zetaDelta only [Res.All, OptAll]

theorem MemCanonical.watcherNotify {s : State} (h : MemCanonical s) (pkg ctx q : Nat) :
    OptAll MemCanonical (Sys2Proof.Machine.watcherNotify s pkg ctx q) := by
  unfold Sys2Proof.Machine.watcherNotify
  repeat' first
    | with_reducible assumption
    | with_reducible apply MemCanonical.armQueue
    | with_reducible apply MemCanonical.noteQueue
    | split
    | extract_lets
    | dsimp +zetaDelta only [Res.All, OptAll]

theorem MemCanonical.readNode {s : State} (h : MemCanonical s) (pkg ctx q : Nat) :
    MemCanonical (Sys2Proof.Machine.readNode s pkg ctx q) := by
  unfold Sys2Proof.Machine.readNode
  repeat' first
    | with_reducible assumption
    | with_reducible apply MemCanonical.drainQueue
    | with_reducible exact MemCanonical.meetPages (by assumption) (by assumption)
    | with_reducible apply MemCanonical.graphUncorr
    | with_reducible apply MemCanonical.noteQueue
    | split
    | extract_lets

theorem MemCanonical.prompterChoose {s : State} (h : MemCanonical s) (pkg ctx q : Nat) :
    OptAll MemCanonical (Sys2Proof.Machine.prompterChoose s pkg ctx q) := by
  unfold Sys2Proof.Machine.prompterChoose
  repeat' first
    | with_reducible assumption
    | with_reducible apply MemCanonical.readNode
    | with_reducible apply MemCanonical.setQueue
    | split
    | extract_lets
    | dsimp +zetaDelta only [Res.All, OptAll]

theorem MemCanonical.walk {s : State} (h : MemCanonical s) (pkg ctx q kind : Nat) {body : Queue → Node → Option State}
    (hb : ∀ e n, OptAll MemCanonical (body e n)) : OptAll MemCanonical (Sys2Proof.Machine.walk s pkg ctx q kind body) := by
  unfold Sys2Proof.Machine.walk
  repeat' first
    | trivial
    | exact hb _ _
    | exact h.drainQueue _ _ _ _
    | split
    | extract_lets

theorem MemCanonical.goOn {s : State} (h : MemCanonical s) (pkg ctx q next : Nat) :
    MemCanonical (Sys2Proof.Machine.goOn s pkg ctx q next) := by
  unfold Sys2Proof.Machine.goOn
  repeat' first
    | with_reducible assumption
    | with_reducible apply MemCanonical.setQueue
    | with_reducible apply MemCanonical.endPageWait
    | split
    | extract_lets

theorem MemCanonical.goWait {s : State} (h : MemCanonical s) (pkg ctx q next : Nat) (w : QWait) :
    MemCanonical (Sys2Proof.Machine.goWait s pkg ctx q next w) := by
  unfold Sys2Proof.Machine.goWait
  repeat' first
    | with_reducible assumption
    | with_reducible apply MemCanonical.setQueue
    | with_reducible apply MemCanonical.endPageWait
    | split
    | extract_lets

theorem MemCanonical.pageHold {s : State} (h : MemCanonical s) (pkg ctx q : Nat) :
    MemCanonical (Sys2Proof.Machine.pageHold s pkg ctx q) := by
  unfold Sys2Proof.Machine.pageHold
  repeat' first
    | with_reducible assumption
    | with_reducible apply MemCanonical.noteQueue
    | split
    | extract_lets

theorem MemCanonical.started {s : State} (h : MemCanonical s) (pkg ctx q id : Nat) (n : Node) :
    MemCanonical (Sys2Proof.Machine.started s pkg ctx q id n) := by
  unfold Sys2Proof.Machine.started
  repeat' first
    | with_reducible assumption
    | with_reducible apply MemCanonical.goOn
    | with_reducible apply MemCanonical.noteQueue
    | with_reducible apply MemCanonical.goWait
    | split
    | extract_lets

theorem MemCanonical.kernelNode {s : State} (h : MemCanonical s) (pkg ctx q : Nat) :
    OptAll MemCanonical (Sys2Proof.Machine.kernelNode s pkg ctx q) := by
  unfold Sys2Proof.Machine.kernelNode
  repeat' first
    | with_reducible assumption
    | with_reducible refine MemCanonical.walk (by assumption) _ _ _ _ (fun _ _ => ?_)
    | with_reducible apply MemCanonical.goWait
    | with_reducible apply MemCanonical.drainQueue
    | with_reducible apply MemCanonical.started
    | split
    | extract_lets
    | dsimp +zetaDelta only [Res.All, OptAll]
    | (with_reducible apply MemCanonical.mk; first | with_reducible assumption | with_reducible refine MemCanonical.walk (by assumption) _ _ _ _ (fun _ _ => ?_) | with_reducible apply MemCanonical.goWait | with_reducible apply MemCanonical.drainQueue | with_reducible apply MemCanonical.started | split | dsimp +zetaDelta only [Res.All, OptAll])

theorem MemCanonical.copyNode {s : State} (h : MemCanonical s) (pkg ctx q : Nat) :
    OptAll MemCanonical (Sys2Proof.Machine.copyNode s pkg ctx q) := by
  unfold Sys2Proof.Machine.copyNode
  repeat' first
    | with_reducible assumption
    | with_reducible refine MemCanonical.walk (by assumption) _ _ _ _ (fun _ _ => ?_)
    | with_reducible apply MemCanonical.goWait
    | with_reducible apply MemCanonical.drainQueue
    | with_reducible apply MemCanonical.goOn
    | with_reducible apply MemCanonical.started
    | with_reducible apply OptAll.some
    | split
    | extract_lets
    | (with_reducible apply MemCanonical.mk; first | with_reducible assumption | with_reducible refine MemCanonical.walk (by assumption) _ _ _ _ (fun _ _ => ?_) | with_reducible apply MemCanonical.goWait | with_reducible apply MemCanonical.drainQueue | with_reducible apply MemCanonical.goOn | with_reducible apply MemCanonical.started | with_reducible apply OptAll.some | split)

theorem MemCanonical.withCue {s : State} (h : MemCanonical s) (pkg ctx q : Nat) (n : Node) {k : Nat → State}
    (hk : ∀ w, MemCanonical (k w)) : OptAll MemCanonical (Sys2Proof.Machine.withCue s pkg ctx q n k) := by
  unfold Sys2Proof.Machine.withCue
  repeat' first
    | exact hk _
    | exact h.graphUncorr _ _ _
    | exact h.pageHold _ _ _
    | exact h.drainQueue _ _ _ _
    | exact MemCanonical.pageHold (h.meetPages (by assumption)) _ _ _
    | split
    | extract_lets
    | dsimp only

theorem MemCanonical.waitcueNode {s : State} (h : MemCanonical s) (pkg ctx q : Nat) :
    OptAll MemCanonical (Sys2Proof.Machine.waitcueNode s pkg ctx q) := by
  unfold Sys2Proof.Machine.waitcueNode
  repeat' first
    | with_reducible assumption
    | with_reducible refine MemCanonical.walk (by assumption) _ _ _ _ (fun _ _ => ?_)
    | with_reducible refine MemCanonical.withCue (by assumption) _ _ _ _ (fun _ => ?_)
    | with_reducible apply MemCanonical.goOn
    | with_reducible apply MemCanonical.goWait
    | split
    | extract_lets

theorem MemCanonical.condNode {s : State} (h : MemCanonical s) (pkg ctx q : Nat) :
    OptAll MemCanonical (Sys2Proof.Machine.condNode s pkg ctx q) := by
  unfold Sys2Proof.Machine.condNode
  repeat' first
    | with_reducible assumption
    | with_reducible refine MemCanonical.walk (by assumption) _ _ _ _ (fun _ _ => ?_)
    | with_reducible refine MemCanonical.withCue (by assumption) _ _ _ _ (fun _ => ?_)
    | with_reducible apply MemCanonical.goOn
    | split
    | extract_lets

theorem MemCanonical.whileNode {s : State} (h : MemCanonical s) (pkg ctx q : Nat) :
    OptAll MemCanonical (Sys2Proof.Machine.whileNode s pkg ctx q) := by
  unfold Sys2Proof.Machine.whileNode
  repeat' first
    | with_reducible assumption
    | with_reducible refine MemCanonical.walk (by assumption) _ _ _ _ (fun _ _ => ?_)
    | with_reducible refine MemCanonical.withCue (by assumption) _ _ _ _ (fun _ => ?_)
    | with_reducible apply MemCanonical.goOn
    | split
    | extract_lets

theorem MemCanonical.releaseWrite {s : State} (h : MemCanonical s) (pkg ctx q va bind : Nat) (bs : List Byte) :
    MemCanonical (Sys2Proof.Machine.releaseWrite s pkg ctx q va bind bs) := by
  unfold Sys2Proof.Machine.releaseWrite
  repeat' first
    | with_reducible assumption
    | with_reducible apply MemCanonical.noteQueue
    | with_reducible apply MemCanonical.writeHome
    | split
    | extract_lets

theorem MemCanonical.setcueNode {s : State} (h : MemCanonical s) (pkg ctx q : Nat) :
    OptAll MemCanonical (Sys2Proof.Machine.setcueNode s pkg ctx q) := by
  unfold Sys2Proof.Machine.setcueNode
  repeat' first
    | with_reducible assumption
    | with_reducible refine MemCanonical.walk (by assumption) _ _ _ _ (fun _ _ => ?_)
    | with_reducible refine MemCanonical.withCue (by assumption) _ _ _ _ (fun _ => ?_)
    | with_reducible apply MemCanonical.goOn
    | with_reducible apply MemCanonical.releaseWrite
    | split
    | extract_lets
    | dsimp +zetaDelta only [Res.All, OptAll]

theorem MemCanonical.joinNode {s : State} (h : MemCanonical s) (pkg ctx q : Nat) :
    OptAll MemCanonical (Sys2Proof.Machine.joinNode s pkg ctx q) := by
  unfold Sys2Proof.Machine.joinNode
  repeat' first
    | with_reducible assumption
    | with_reducible refine MemCanonical.walk (by assumption) _ _ _ _ (fun _ _ => ?_)
    | with_reducible apply MemCanonical.goOn
    | with_reducible apply MemCanonical.goWait
    | with_reducible apply OptAll.some
    | split
    | extract_lets

theorem MemCanonical.endRun {s : State} (h : MemCanonical s) (pkg ctx q : Nat) (n : Node) :
    MemCanonical (Sys2Proof.Machine.endRun s pkg ctx q n) := by
  unfold Sys2Proof.Machine.endRun
  repeat' first
    | with_reducible assumption
    | with_reducible apply MemCanonical.endPageWait
    | with_reducible apply MemCanonical.mapPkg
    | with_reducible apply MemCanonical.setQueue
    | split
    | extract_lets

theorem MemCanonical.endDone {s : State} (h : MemCanonical s) (pkg ctx q : Nat) (n : Node) :
    OptAll MemCanonical (Sys2Proof.Machine.endDone s pkg ctx q n) := by
  unfold Sys2Proof.Machine.endDone
  repeat' first
    | with_reducible assumption
    | with_reducible apply MemCanonical.endRun
    | with_reducible exact MemCanonical.meetPages (by assumption) (by assumption)
    | with_reducible apply MemCanonical.releaseWrite
    | with_reducible apply MemCanonical.pageHold
    | with_reducible apply MemCanonical.drainQueue
    | split
    | extract_lets
    | dsimp +zetaDelta only [Res.All, OptAll]

theorem MemCanonical.endNode {s : State} (h : MemCanonical s) (pkg ctx q : Nat) :
    OptAll MemCanonical (Sys2Proof.Machine.endNode s pkg ctx q) := by
  unfold Sys2Proof.Machine.endNode
  repeat' first
    | with_reducible assumption
    | with_reducible refine MemCanonical.walk (by assumption) _ _ _ _ (fun _ _ => ?_)
    | with_reducible apply MemCanonical.goWait
    | with_reducible apply MemCanonical.endDone
    | with_reducible apply MemCanonical.setQueue
    | split
    | extract_lets
    | dsimp +zetaDelta only [Res.All, OptAll]

theorem MemCanonical.effprioAge {s : State} (h : MemCanonical s) (pkg ctx q : Nat) :
    OptAll MemCanonical (Sys2Proof.Machine.effprioAge s pkg ctx q) := by
  unfold Sys2Proof.Machine.effprioAge
  repeat' first
    | with_reducible assumption
    | with_reducible apply MemCanonical.setQueue
    | split
    | extract_lets
    | dsimp +zetaDelta only [Res.All, OptAll]

/-! ## Machine/CtxEvents.lean -/

theorem MemCanonical.endCtxCmd {s : State} (h : MemCanonical s) (pkg ctx result : Nat) :
    MemCanonical (Sys2Proof.Machine.endCtxCmd s pkg ctx result) := by
  unfold Sys2Proof.Machine.endCtxCmd
  repeat' first
    | with_reducible assumption
    | with_reducible apply MemCanonical.mapPkg
    | split
    | extract_lets

theorem MemCanonical.ctxCommand {s : State} (h : MemCanonical s) (pkg ctx : Nat) {body : Pkg → Option State}
    (hb : ∀ p, OptAll MemCanonical (body p)) : OptAll MemCanonical (Sys2Proof.Machine.ctxCommand s pkg ctx body) := by
  unfold Sys2Proof.Machine.ctxCommand
  repeat' first
    | trivial
    | exact hb _
    | split
    | extract_lets

theorem MemCanonical.onCtx {s : State} (h : MemCanonical s) (ok : CtxState → Bool) {body : Pkg → Ctx → Option State}
    (hb : ∀ p c, OptAll MemCanonical (body p c)) : OptAll MemCanonical (Sys2Proof.Machine.onCtx s ok body) := by
  unfold Sys2Proof.Machine.onCtx
  refine h.ctxCommand _ _ (fun _ => ?_)
  repeat' first
    | exact hb _ _
    | exact h.endCtxCmd _ _ _
    | split

theorem MemCanonical.ctxCmdBad {s : State} (h : MemCanonical s) (pkg op ctx : Nat) :
    OptAll MemCanonical (Sys2Proof.Machine.ctxCmdBad s pkg op ctx) := by
  unfold Sys2Proof.Machine.ctxCmdBad
  repeat' first
    | with_reducible assumption
    | with_reducible refine MemCanonical.ctxCommand (by assumption) _ _ (fun _ => ?_)
    | with_reducible apply MemCanonical.endCtxCmd
    | split
    | extract_lets
    | dsimp +zetaDelta only [Res.All, OptAll]

theorem MemCanonical.create {s : State} (h : MemCanonical s) : OptAll MemCanonical (Sys2Proof.Machine.create s) := by
  unfold Sys2Proof.Machine.create
  dsimp only
  refine h.ctxCommand _ _ (fun p => ?_)
  generalize Sys2Proof.Machine.readPool s s.focus.1 p.ctxArg 4096 = b
  repeat' first
    | exact h.endCtxCmd _ _ _
    | exact MemCanonical.endCtxCmd (MemCanonical.mk h) _ _ _
    | split

theorem MemCanonical.measure {s : State} (h : MemCanonical s)  :
    OptAll MemCanonical (Sys2Proof.Machine.measure s) := by
  unfold Sys2Proof.Machine.measure
  repeat' first
    | with_reducible assumption
    | with_reducible refine MemCanonical.onCtx (by assumption) _ (fun _ _ => ?_)
    | with_reducible apply MemCanonical.endCtxCmd
    | with_reducible apply MemCanonical.mapCtx
    | with_reducible apply OptAll.some
    | split
    | extract_lets

theorem MemCanonical.replayWings (pkg ctx n : Nat) : ∀ {s : State}, MemCanonical s → MemCanonical (Sys2Proof.Machine.replayWings s pkg ctx n) := by
  induction n with
  | zero => intro s h; exact h
  | succ n ih =>
    intro s h
    unfold Sys2Proof.Machine.replayWings
    split
    · exact h
    · split
      · exact h
      · dsimp only
        split
        · exact ih (h.mapCtx _ _ _)
        · split
          · exact h
          · exact ih ((h.mapCtx _ _ _).runGranule _ _)

theorem MemCanonical.settle {s : State} (h : MemCanonical s) (pkg ctx : Nat) (done : Bool) (next : CtxState) :
    MemCanonical (Sys2Proof.Machine.settle s pkg ctx done next) := by
  unfold Sys2Proof.Machine.settle
  repeat' first
    | with_reducible assumption
    | with_reducible apply MemCanonical.endCtxCmd
    | with_reducible apply MemCanonical.mapCtx
    | split
    | extract_lets

theorem MemCanonical.beginCmd {s : State} (h : MemCanonical s) (pkg op ctx : Nat) : MemCanonical (beginCmd s pkg op ctx) := h

theorem MemCanonical.keepSlots {s : State} (h : MemCanonical s) (c : Ctx) : (keepSlots s c).All MemCanonical := by
  unfold Sys2Proof.Machine.keepSlots
  generalize keptLen c = n
  exact h.putRecord _ _ _ _ (fun _ _ ht => ht.mapCtx _ _ _)

theorem MemCanonical.restoreSlots {s : State} (h : MemCanonical s) (c : Ctx) : MemCanonical (Sys2Proof.Machine.restoreSlots s c) := by
  unfold Sys2Proof.Machine.restoreSlots
  split
  · exact h
  · split
    · exact h.mapCtx _ _ _
    · exact h.raiseUncorr _ _ _ _
    · exact h
    · exact h.loseRecord _ _

theorem MemCanonical.admitReplays {s : State} (h : MemCanonical s) (pkg ctx : Nat) : MemCanonical (Sys2Proof.Machine.admitReplays s pkg ctx) := by
  unfold Sys2Proof.Machine.admitReplays
  split
  · exact h
  · dsimp only
    split
    · exact (h.replayWings _ _ _).settle _ _ _ _
    · exact h.replayWings _ _ _

theorem MemCanonical.admitGoesOn {s : State} (h : MemCanonical s) (pkg ctx : Nat) : MemCanonical (Sys2Proof.Machine.admitGoesOn s pkg ctx) := by
  unfold Sys2Proof.Machine.admitGoesOn
  split
  · exact h
  · dsimp only
    (repeat' split) <;> first | exact (h.restoreSlots _).admitReplays _ _ | exact h.restoreSlots _

theorem MemCanonical.admitContext {s : State} (h : MemCanonical s) : OptAll MemCanonical (admitContext s) := by
  unfold Sys2Proof.Machine.admitContext
  refine h.onCtx _ (fun _ _ => ?_)
  split
  · exact h.endCtxCmd _ _ _
  · split
    · exact h.endCtxCmd _ _ _
    · exact (h.beginCmd _ _ _).admitGoesOn _ _

theorem MemCanonical.turnAges {s : State} (h : MemCanonical s) (pkg ctx : Nat) :
    MemCanonical (Sys2Proof.Machine.turnAges s pkg ctx) := by
  unfold Sys2Proof.Machine.turnAges
  repeat' first
    | with_reducible assumption
    | with_reducible apply MemCanonical.mapCtx
    | split
    | extract_lets
    | (with_reducible apply MemCanonical.mk; first | with_reducible assumption | with_reducible apply MemCanonical.mapCtx)

theorem MemCanonical.takeQueues {s : State} (h : MemCanonical s) (pkg ctx : Nat) :
    MemCanonical (Sys2Proof.Machine.takeQueues s pkg ctx) := by
  unfold Sys2Proof.Machine.takeQueues
  repeat' first
    | with_reducible assumption
    | with_reducible apply MemCanonical.queueTake
    | with_reducible refine MemCanonical.foldl ?_ _ (fun _ _ _ => ?_)
    | with_reducible apply OptAll.getD
    | split
    | extract_lets

theorem MemCanonical.run {s : State} (h : MemCanonical s)  :
    OptAll MemCanonical (Sys2Proof.Machine.run s) := by
  unfold Sys2Proof.Machine.run
  repeat' first
    | with_reducible assumption
    | with_reducible refine MemCanonical.onCtx (by assumption) _ (fun _ _ => ?_)
    | with_reducible apply MemCanonical.endCtxCmd
    | with_reducible apply MemCanonical.turnAges
    | with_reducible apply MemCanonical.takeQueues
    | with_reducible apply MemCanonical.mapCtx
    | split
    | extract_lets
    | dsimp +zetaDelta only [Res.All, OptAll]

theorem MemCanonical.pauseQueues {s : State} (h : MemCanonical s) (pkg ctx : Nat) : MemCanonical (pauseQueues s pkg ctx) := h.mapCtx _ _ _

theorem MemCanonical.stop {s : State} (h : MemCanonical s) : OptAll MemCanonical (stop s) :=
  h.onCtx _ (fun _ _ => (((h.turnAges _ _).pauseQueues _ _).beginCmd _ _ _).settle _ _ _ _)

theorem MemCanonical.evictDone {s : State} (h : MemCanonical s) (c : Ctx) : MemCanonical (evictDone s c) := by
  have hk := h.keepSlots c
  unfold Sys2Proof.Machine.evictDone
  split
  · next e => rw [e] at hk; exact MemCanonical.settle hk _ _ _ _
  · next e => rw [e] at hk; exact MemCanonical.raiseCtxFault hk _ _ _
  · exact h

/-- A command under way goes on. -/
theorem MemCanonical.cmdGoesOn {s : State} (h : MemCanonical s) (p : Pkg) : MemCanonical (cmdGoesOn s p) := by
  unfold Sys2Proof.Machine.cmdGoesOn
  repeat' first
    | exact h
    | exact h.admitGoesOn _ _
    | exact h.settle _ _ _ _
    | exact h.evictDone _
    | split

theorem MemCanonical.evict {s : State} (h : MemCanonical s) : OptAll MemCanonical (evict s) := by
  unfold Sys2Proof.Machine.evict
  refine h.onCtx _ (fun _ _ => ?_)
  dsimp only
  refine OptAll.some ?_
  split
  · exact (h.beginCmd _ _ _).evictDone _
  · exact h.beginCmd _ _ _

theorem MemCanonical.dropSessions {s : State} (h : MemCanonical s) (pkg ctx : Nat) : MemCanonical (dropSessions s pkg ctx) := h

theorem MemCanonical.clearCtx {s : State} (h : MemCanonical s)  :
    OptAll MemCanonical (Sys2Proof.Machine.clearCtx s) := by
  unfold Sys2Proof.Machine.clearCtx
  repeat' first
    | with_reducible assumption
    | with_reducible refine MemCanonical.onCtx (by assumption) _ (fun _ _ => ?_)
    | with_reducible apply MemCanonical.dropSessions
    | with_reducible apply MemCanonical.mapCtx
    | with_reducible apply MemCanonical.endCtxCmd
    | with_reducible apply OptAll.some
    | split
    | extract_lets

theorem MemCanonical.dropPages {s : State} (h : MemCanonical s) (pkg ctx : Nat) :
    MemCanonical (Sys2Proof.Machine.dropPages s pkg ctx) := by
  unfold Sys2Proof.Machine.dropPages
  repeat' first
    | with_reducible assumption
    | split
    | extract_lets
    | (with_reducible apply MemCanonical.mk; first | with_reducible assumption)

theorem MemCanonical.teardown {s : State} (h : MemCanonical s)  :
    OptAll MemCanonical (Sys2Proof.Machine.teardown s) := by
  unfold Sys2Proof.Machine.teardown
  repeat' first
    | with_reducible assumption
    | with_reducible refine MemCanonical.onCtx (by assumption) _ (fun _ _ => ?_)
    | with_reducible apply MemCanonical.dropPages
    | with_reducible apply MemCanonical.dropSessions
    | with_reducible apply MemCanonical.discardWork
    | with_reducible apply MemCanonical.endCtxCmd
    | with_reducible apply MemCanonical.mapCtx
    | with_reducible apply OptAll.some
    | split
    | extract_lets

theorem MemCanonical.contextFault {s : State} (h : MemCanonical s) (pkg ctx : Nat) (up : Upset) :
    OptAll MemCanonical (Sys2Proof.Machine.contextFault s pkg ctx up) := by
  unfold Sys2Proof.Machine.contextFault
  repeat' first
    | with_reducible assumption
    | with_reducible apply MemCanonical.deviceFault
    | with_reducible apply MemCanonical.raiseUncorr
    | split
    | extract_lets
    | dsimp +zetaDelta only [Res.All, OptAll]

theorem MemCanonical.peerFault {s : State} (h : MemCanonical s)  :
    OptAll MemCanonical (Sys2Proof.Machine.peerFault s) := by
  unfold Sys2Proof.Machine.peerFault
  repeat' first
    | with_reducible assumption
    | with_reducible apply MemCanonical.enterFaulted
    | with_reducible apply MemCanonical.mapCtx
    | split
    | extract_lets
    | dsimp +zetaDelta only [Res.All, OptAll]

theorem MemCanonical.dropBound {s : State} (h : MemCanonical s) (pkg target : Nat) :
    MemCanonical (Sys2Proof.Machine.dropBound s pkg target) := by
  unfold Sys2Proof.Machine.dropBound
  repeat' first
    | with_reducible assumption
    | with_reducible apply MemCanonical.mapPkg
    | split
    | extract_lets
    | (with_reducible apply MemCanonical.mk; first | with_reducible assumption | with_reducible apply MemCanonical.mapPkg)

theorem MemCanonical.packageUnreachable {s : State} (h : MemCanonical s) (pkg target : Nat) :
    OptAll MemCanonical (Sys2Proof.Machine.packageUnreachable s pkg target) := by
  unfold Sys2Proof.Machine.packageUnreachable
  repeat' first
    | with_reducible assumption
    | with_reducible apply MemCanonical.dropBound
    | with_reducible apply MemCanonical.enterFaulted
    | with_reducible refine MemCanonical.foldl ?_ _ (fun _ _ _ => ?_)
    | split
    | extract_lets
    | dsimp +zetaDelta only [Res.All, OptAll]
    | (with_reducible apply MemCanonical.mk; first | with_reducible assumption | with_reducible apply MemCanonical.dropBound | with_reducible apply MemCanonical.enterFaulted | with_reducible refine MemCanonical.foldl ?_ _ (fun _ _ _ => ?_) | split | dsimp +zetaDelta only [Res.All, OptAll])

theorem MemCanonical.answer {s : State} (h : MemCanonical s) (pkg : Nat) (o : HostOut) :
    MemCanonical (Sys2Proof.Machine.answer s pkg o) := by
  unfold Sys2Proof.Machine.answer
  repeat' first
    | with_reducible assumption
    | with_reducible apply MemCanonical.mapPkg
    | split
    | extract_lets

theorem MemCanonical.getCtxmeas {s : State} (h : MemCanonical s) (pkg ctx : Nat) (nonce : List Byte) :
    OptAll MemCanonical (Sys2Proof.Machine.getCtxmeas s pkg ctx nonce) := by
  unfold Sys2Proof.Machine.getCtxmeas
  repeat' first
    | with_reducible assumption
    | with_reducible apply MemCanonical.answer
    | split
    | extract_lets
    | dsimp +zetaDelta only [Res.All, OptAll]

theorem MemCanonical.keyMsg {s : State} (h : MemCanonical s) (pkg ctx : Nat) (digest key xfer iv : List Byte) :
    OptAll MemCanonical (Sys2Proof.Machine.keyMsg s pkg ctx digest key xfer iv) := by
  unfold Sys2Proof.Machine.keyMsg
  repeat' first
    | with_reducible assumption
    | with_reducible apply MemCanonical.answer
    | with_reducible apply MemCanonical.mapCtx
    | split
    | extract_lets
    | dsimp +zetaDelta only [Res.All, OptAll]

/-! ## Machine/PageEvents.lean -/

theorem MemCanonical.endPgCmd {s : State} (h : MemCanonical s) (pkg result : Nat) :
    MemCanonical (Sys2Proof.Machine.endPgCmd s pkg result) := by
  unfold Sys2Proof.Machine.endPgCmd
  repeat' first
    | with_reducible assumption
    | with_reducible apply MemCanonical.mapPkg
    | split
    | extract_lets

theorem MemCanonical.pgCommand {s : State} (h : MemCanonical s) (pkg : Nat) {body : Pkg → Option State}
    (hb : ∀ p, OptAll MemCanonical (body p)) : OptAll MemCanonical (Sys2Proof.Machine.pgCommand s pkg body) := by
  unfold Sys2Proof.Machine.pgCommand
  repeat' first
    | trivial
    | exact hb _
    |  with_reducible refine MemCanonical.pgCommand (by assumption) _ (fun _ => ?_)
    | split
    | extract_lets

theorem MemCanonical.pgCmdBad {s : State} (h : MemCanonical s) (pkg op : Nat) :
    OptAll MemCanonical (Sys2Proof.Machine.pgCmdBad s pkg op) := by
  unfold Sys2Proof.Machine.pgCmdBad
  repeat' first
    | with_reducible assumption
    | with_reducible exact True.intro
    | with_reducible refine MemCanonical.pgCommand (by assumption) _ (fun _ => ?_)
    | with_reducible apply MemCanonical.endPgCmd
    | with_reducible apply OptAll.some
    | split
    | extract_lets
    | dsimp +zetaDelta only [Res.All, OptAll]

theorem MemCanonical.pgWork {s : State} (h : MemCanonical s) (op : Nat) {body : PgWork → State → State}
    (hb : ∀ w t, MemCanonical t → MemCanonical (body w t)) : OptAll MemCanonical (Sys2Proof.Machine.pgWork s op body) := by
  unfold Sys2Proof.Machine.pgWork
  refine h.pgCommand _ (fun _ => ?_)
  split
  · exact h.endPgCmd _ _
  · exact (hb _ _ h).endPgCmd _ _

theorem MemCanonical.pgWait {s : State} (h : MemCanonical s) (op : Nat) {body : PgWork → State → State}
    (hb : ∀ w t, MemCanonical t → MemCanonical (body w t)) : OptAll MemCanonical (Sys2Proof.Machine.pgWait s op body) := by
  unfold Sys2Proof.Machine.pgWait
  refine h.pgCommand _ (fun _ => ?_)
  split
  · exact h.endPgCmd _ _
  · split
    · exact (hb _ _ h).endPgCmd _ _
    · exact h.mapPkg _ _

theorem MemCanonical.setPage {s : State} (h : MemCanonical s) (p : Page) :
    MemCanonical (Sys2Proof.Machine.setPage s p) := by
  unfold Sys2Proof.Machine.setPage
  repeat' first
    | with_reducible assumption
    | with_reducible exact True.intro
    | split
    | extract_lets
    | dsimp +zetaDelta only [Res.All, OptAll]
    | (with_reducible apply MemCanonical.mk; first | with_reducible assumption | with_reducible exact True.intro | split | extract_lets | dsimp +zetaDelta only [Res.All, OptAll])

theorem MemCanonical.replay {s : State} (h : MemCanonical s) (ctx va : Nat) :
    MemCanonical (Sys2Proof.Machine.replay s ctx va) := by
  unfold Sys2Proof.Machine.replay
  repeat' first
    | with_reducible assumption
    | with_reducible exact True.intro
    | with_reducible apply MemCanonical.unpark
    | with_reducible refine MemCanonical.foldl ?_ _ (fun _ _ _ => ?_)
    | split
    | extract_lets
    | dsimp +zetaDelta only [Res.All, OptAll]
    | (with_reducible apply MemCanonical.mk; first | with_reducible assumption | with_reducible exact True.intro | with_reducible apply MemCanonical.unpark | with_reducible refine MemCanonical.foldl ?_ _ (fun _ _ _ => ?_) | split | extract_lets | dsimp +zetaDelta only [Res.All, OptAll])

/-- A trap of a denied access, and the end of the access. -/
theorem MemCanonical.trapDenied {acc : State × List (Nat × Nat)} (h : MemCanonical acc.1) (gid sp : Nat) (bad : List LaneAcc) (place : TrapAt) :
    MemCanonical (trapDenied acc gid sp bad place).1 := by
  unfold Sys2Proof.Machine.trapDenied
  split
  · exact h
  · split
    · exact h.denyTrap _ _ _ _ _
    · exact h

theorem MemCanonical.endDeny {acc : State × List (Nat × Nat)} (h : MemCanonical acc.1) (gid id : Nat) : MemCanonical (endDeny acc gid id).1 :=
  ((h.loadDeliver id).getD h).unpark gid

theorem MemCanonical.denyLoad (va : Nat) {acc : State × List (Nat × Nat)} (h : MemCanonical acc.1) (l : Load) :
    MemCanonical (denyLoad va acc l).1 := by
  unfold Sys2Proof.Machine.denyLoad
  dsimp only
  refine MemCanonical.endDeny ?_ _ _
  split
  · exact h.mapLoad _ _
  · exact MemCanonical.trapDenied (acc := (acc.1.mapLoad _ _, acc.2)) (h.mapLoad _ _) _ _ _ _

theorem MemCanonical.denyWrite (va : Nat) {acc : State × List (Nat × Nat)} (h : MemCanonical acc.1) (w : Write) :
    MemCanonical (denyWrite va acc w).1 := by
  unfold Sys2Proof.Machine.denyWrite
  dsimp only
  refine MemCanonical.endDeny ?_ _ _
  split
  · exact h.mapWrite _ _
  · exact MemCanonical.trapDenied (acc := (acc.1.mapWrite _ _, acc.2)) (h.mapWrite _ _) _ _ _ _

theorem MemCanonical.denyOps {s : State} (h : MemCanonical s) (ctx va : Nat) :
    MemCanonical (Sys2Proof.Machine.denyOps s ctx va) := by
  unfold Sys2Proof.Machine.denyOps
  repeat' first
    | with_reducible assumption
    | with_reducible exact True.intro
    | with_reducible apply MemCanonical.raiseCtxFault
    | with_reducible apply MemCanonical.failNode
    | with_reducible apply MemCanonical.dropEng
    | with_reducible refine MemCanonical.foldl ?_ _ (fun _ _ _ => ?_)
    | with_reducible apply OptAll.getD
    | split
    | extract_lets
    | dsimp +zetaDelta only [Res.All, OptAll]

theorem MemCanonical.denyPage (ctx : Nat) {acc : State × List (Nat × Nat)} (h : MemCanonical acc.1) (va : Nat) :
    MemCanonical (denyPage ctx acc va).1 := by
  refine MemCanonical.mk (MemCanonical.denyOps (foldl_keeps (fun a : State × List (Nat × Nat) => MemCanonical a.1) _ _ (fun a x h => ?_) acc h) _ _)
  split
  · exact MemCanonical.denyLoad va h _
  · exact MemCanonical.denyWrite va h _

theorem MemCanonical.clearCounts {s : State} (h : MemCanonical s) (pkg : Nat) (c : Ctx) (e : PtEntry) (fs : List Nat) :
    MemCanonical (Sys2Proof.Machine.clearCounts s pkg c e fs) := by
  unfold Sys2Proof.Machine.clearCounts
  repeat' first
    | with_reducible assumption
    | with_reducible exact True.intro
    | with_reducible apply OptAll.getD
    | split
    | extract_lets
    | dsimp +zetaDelta only [Res.All, OptAll]
    | (with_reducible apply MemCanonical.mk; first | with_reducible assumption | with_reducible exact True.intro | with_reducible apply OptAll.getD | split | extract_lets | dsimp +zetaDelta only [Res.All, OptAll])

theorem MemCanonical.mapPages {s : State} (h : MemCanonical s) (w : PgWork) :
    MemCanonical (Sys2Proof.Machine.mapPages w s) := by
  unfold Sys2Proof.Machine.mapPages
  repeat' first
    | with_reducible assumption
    | with_reducible exact True.intro
    | with_reducible apply MemCanonical.clearCounts
    | with_reducible apply MemCanonical.replay
    | with_reducible apply MemCanonical.setPage
    | with_reducible refine MemCanonical.foldl ?_ _ (fun _ _ _ => ?_)
    | with_reducible refine OptAll.map (fun _ => ?_)
    | with_reducible apply OptAll.some
    | split
    | extract_lets
    | dsimp +zetaDelta only [Res.All, OptAll]

theorem MemCanonical.unmapPages {s : State} (h : MemCanonical s) (w : PgWork) :
    MemCanonical (Sys2Proof.Machine.unmapPages w s) := by
  unfold Sys2Proof.Machine.unmapPages
  repeat' first
    | with_reducible assumption
    | with_reducible exact True.intro
    | with_reducible apply OptAll.some
    | split
    | extract_lets
    | dsimp +zetaDelta only [Res.All, OptAll]
    | (with_reducible apply MemCanonical.mk; first | with_reducible assumption | with_reducible exact True.intro | with_reducible apply OptAll.some | split | extract_lets | dsimp +zetaDelta only [Res.All, OptAll])

theorem MemCanonical.withdraw {s : State} (h : MemCanonical s) (pkg : Nat) (c : Ctx) (e : PtEntry) (fs : List Nat) (j : Nat) :
    MemCanonical (Sys2Proof.Machine.withdraw s pkg c e fs j) := by
  unfold Sys2Proof.Machine.withdraw
  repeat' first
    | with_reducible assumption
    | with_reducible exact True.intro
    | with_reducible apply MemCanonical.mapPkg
    | with_reducible apply OptAll.getD
    | split
    | extract_lets
    | dsimp +zetaDelta only [Res.All, OptAll]

theorem MemCanonical.retirePages {s : State} (h : MemCanonical s) (w : PgWork) :
    MemCanonical (Sys2Proof.Machine.retirePages w s) := by
  unfold Sys2Proof.Machine.retirePages
  repeat' first
    | with_reducible assumption
    | with_reducible exact True.intro
    | with_reducible apply MemCanonical.withdraw
    | with_reducible apply MemCanonical.setPage
    | with_reducible refine MemCanonical.foldl ?_ _ (fun _ _ _ => ?_)
    | with_reducible apply OptAll.some
    | split
    | extract_lets
    | dsimp +zetaDelta only [Res.All, OptAll]
    | (with_reducible apply MemCanonical.mk; first | with_reducible assumption | with_reducible exact True.intro | with_reducible apply MemCanonical.withdraw | with_reducible apply MemCanonical.setPage | with_reducible refine MemCanonical.foldl ?_ _ (fun _ _ _ => ?_) | with_reducible apply OptAll.some | split | extract_lets | dsimp +zetaDelta only [Res.All, OptAll])

theorem MemCanonical.denyPages {s : State} (h : MemCanonical s) (w : PgWork) : MemCanonical (denyPages w s) :=
  foldl_keeps (fun a : State × List (Nat × Nat) => MemCanonical a.1) _ _ (fun _ va h => MemCanonical.denyPage _ h va) (s, []) h

/-- The commands under way go on. -/
theorem MemCanonical.pageGoesOn {s : State} (h : MemCanonical s) (p : Pkg) : MemCanonical (pageGoesOn s p) := by
  unfold Sys2Proof.Machine.pageGoesOn
  split
  · exact MemCanonical.endPgCmd (MemCanonical.unmapPages h _) _ _
  · exact MemCanonical.endPgCmd (h.retirePages _) _ _
  · exact h

theorem MemCanonical.settleCmds {s : State} (h : MemCanonical s) : MemCanonical (settleCmds s) := by
  refine h.foldl _ (fun s p h => ?_)
  have h1 : MemCanonical (if p.ctxCmd.isSome then Sys2Proof.Machine.cmdGoesOn s p else s) := by
    split
    · exact h.cmdGoesOn _
    · exact h
  dsimp only
  split
  · exact h1.pageGoesOn _
  · exact h1

theorem MemCanonical.migratePages {s : State} (h : MemCanonical s) (w : PgWork) :
    MemCanonical (Sys2Proof.Machine.migratePages w s) := by
  unfold Sys2Proof.Machine.migratePages
  repeat' first
    | with_reducible assumption
    | with_reducible exact True.intro
    | with_reducible apply MemCanonical.setPage
    | with_reducible refine MemCanonical.foldl ?_ _ (fun _ _ _ => ?_)
    | with_reducible apply OptAll.some
    | split
    | extract_lets
    | dsimp +zetaDelta only [Res.All, OptAll]

theorem MemCanonical.copyFrame {s : State} (h : MemCanonical s) (a b n : Nat) : MemCanonical (Sys2Proof.Machine.copyFrame s a b n) :=
  ⟨copyFrame_wf _ _ _ h.1, h.2⟩

theorem MemCanonical.copyFrames {s : State} (h : MemCanonical s) (pkg : Nat) (c : Ctx) (e : PtEntry) (p : Page) :
    MemCanonical (Sys2Proof.Machine.copyFrames s pkg c e p) := by
  unfold Sys2Proof.Machine.copyFrames
  repeat' first
    | with_reducible assumption
    | with_reducible exact True.intro
    | with_reducible apply MemCanonical.copyFrame
    | with_reducible refine MemCanonical.foldl ?_ _ (fun _ _ _ => ?_)
    | with_reducible apply OptAll.getD
    | split
    | extract_lets
    | dsimp +zetaDelta only [Res.All, OptAll]

theorem MemCanonical.startHeld {s : State} (h : MemCanonical s) : MemCanonical (startHeld s) := by
  refine h.foldl _ (fun s q h => OptAll.getD ?_ h)
  split
  · exact h.ropGranule _
  · exact h.nmExecute _
  · split
    · split
      · exact h.performEngWrite _ _ _
      · exact h.redgoExecute _
    · trivial

theorem MemCanonical.migrationSwitch {s : State} (h : MemCanonical s) (pkg ctx va : Nat) :
    OptAll MemCanonical (Sys2Proof.Machine.migrationSwitch s pkg ctx va) := by
  unfold Sys2Proof.Machine.migrationSwitch
  repeat' first
    | with_reducible assumption
    | with_reducible exact True.intro
    | with_reducible apply MemCanonical.startHeld
    | with_reducible apply MemCanonical.clearCounts
    | with_reducible apply MemCanonical.copyFrames
    | with_reducible apply MemCanonical.withdraw
    | with_reducible apply MemCanonical.setPage
    | with_reducible refine OptAll.map (fun _ => ?_)
    | with_reducible apply OptAll.some
    | split
    | extract_lets
    | dsimp +zetaDelta only [Res.All, OptAll]

theorem MemCanonical.postRecord {s : State} (h : MemCanonical s) (c : Ctx) (d : FqHdr) (r : FaultRec) :
    OptAll MemCanonical (Sys2Proof.Machine.postRecord s c d r) := by
  unfold Sys2Proof.Machine.postRecord
  dsimp only
  split
  · trivial
  · exact (h.writeSpan _ _ _ _).mapCtx _ _ _

theorem MemCanonical.postPut {s : State} (h : MemCanonical s) (c : Ctx) (d : FqHdr) (t : Nat) :
    OptAll MemCanonical (Sys2Proof.Machine.postPut s c d t) := by
  unfold Sys2Proof.Machine.postPut
  split
  · trivial
  · refine MemCanonical.mapCtx ?_ _ _ _
    split
    · exact (h.writeSpan _ _ _ _).mapPkg _ _
    · exact h.writeSpan _ _ _ _

theorem MemCanonical.recordPost {s : State} (h : MemCanonical s)  :
    OptAll MemCanonical (Sys2Proof.Machine.recordPost s) := by
  unfold Sys2Proof.Machine.recordPost
  split
  · trivial
  · split
    · exact h.postRecord _ _ _
    · exact h.postPut _ _ _
    · trivial

/-! ## Machine/LinkEvents.lean -/

theorem MemCanonical.doe {s : State} (pkg : Nat) {body : Pkg → State} (hb : ∀ p, MemCanonical (body p)) :
    OptAll MemCanonical (Sys2Proof.Machine.doe s pkg body) := by
  unfold Sys2Proof.Machine.doe
  repeat' first
    | trivial
    | exact hb _
    |  with_reducible refine MemCanonical.doe _ (fun _ => ?_)
    | split
    | extract_lets

theorem MemCanonical.getVersion {s : State} (h : MemCanonical s)  :
    OptAll MemCanonical (Sys2Proof.Machine.getVersion s) := by
  unfold Sys2Proof.Machine.getVersion
  repeat' first
    | with_reducible assumption
    | with_reducible refine MemCanonical.doe _ (fun _ => ?_)
    | with_reducible apply MemCanonical.answer
    | with_reducible apply MemCanonical.mapPkg
    | split
    | extract_lets

theorem MemCanonical.getCapabilities {s : State} (h : MemCanonical s)  :
    OptAll MemCanonical (Sys2Proof.Machine.getCapabilities s) := by
  unfold Sys2Proof.Machine.getCapabilities
  repeat' first
    | with_reducible assumption
    | with_reducible refine MemCanonical.doe _ (fun _ => ?_)
    | with_reducible apply MemCanonical.answer
    | with_reducible apply MemCanonical.mapPkg
    | split
    | extract_lets

theorem MemCanonical.negotiateAlgorithms {s : State} (h : MemCanonical s)  :
    OptAll MemCanonical (Sys2Proof.Machine.negotiateAlgorithms s) := by
  unfold Sys2Proof.Machine.negotiateAlgorithms
  repeat' first
    | with_reducible assumption
    | with_reducible refine MemCanonical.doe _ (fun _ => ?_)
    | with_reducible apply MemCanonical.answer
    | with_reducible apply MemCanonical.mapPkg
    | split
    | extract_lets

theorem MemCanonical.negotiated {s : State} (h : MemCanonical s) (pkg : Nat) (o : HostOut) :
    OptAll MemCanonical (Sys2Proof.Machine.negotiated s pkg o) := by
  unfold Sys2Proof.Machine.negotiated
  repeat' first
    | with_reducible assumption
    | with_reducible refine MemCanonical.doe _ (fun _ => ?_)
    | with_reducible apply MemCanonical.answer
    | split
    | extract_lets

theorem MemCanonical.getDigests {s : State} (h : MemCanonical s)  :
    OptAll MemCanonical (Sys2Proof.Machine.getDigests s) := by
  unfold Sys2Proof.Machine.getDigests
  repeat' first
    | with_reducible assumption
    | with_reducible apply MemCanonical.negotiated
    | split
    | extract_lets

theorem MemCanonical.getCertificate {s : State} (h : MemCanonical s)  :
    OptAll MemCanonical (Sys2Proof.Machine.getCertificate s) := by
  unfold Sys2Proof.Machine.getCertificate
  repeat' first
    | with_reducible assumption
    | with_reducible apply MemCanonical.negotiated
    | split
    | extract_lets

theorem MemCanonical.challenge {s : State} (h : MemCanonical s) (pkg : Nat) (nonce : List Byte) :
    OptAll MemCanonical (Sys2Proof.Machine.challenge s pkg nonce) := by
  unfold Sys2Proof.Machine.challenge
  repeat' first
    | with_reducible assumption
    | with_reducible apply MemCanonical.negotiated
    | split
    | extract_lets

theorem MemCanonical.getMeasurements {s : State} (h : MemCanonical s)  :
    OptAll MemCanonical (Sys2Proof.Machine.getMeasurements s) := by
  unfold Sys2Proof.Machine.getMeasurements
  repeat' first
    | with_reducible assumption
    | with_reducible exact OptAll.get (MemCanonical.negotiated (by assumption) _ _) (by assumption)
    | split
    | extract_lets
    | dsimp +zetaDelta only [Res.All, OptAll]

/-- The end of a session, and of the CPYGs that still need it. -/
theorem MemCanonical.fallCpygs {s : State} (h : MemCanonical s) (pkg : Nat) : MemCanonical (fallCpygs s pkg) := by
  unfold Sys2Proof.Machine.fallCpygs
  (repeat' split) <;> exact h

theorem MemCanonical.dropSess {s : State} (h : MemCanonical s) (p : Pkg) : MemCanonical (dropSess s p) := by
  unfold Sys2Proof.Machine.dropSess
  split
  · exact (h.fallCpygs _).mapPkg _ _
  · exact h.mapPkg _ _

theorem MemCanonical.keyExchange {s : State} (h : MemCanonical s)  :
    OptAll MemCanonical (Sys2Proof.Machine.keyExchange s) := by
  unfold Sys2Proof.Machine.keyExchange
  repeat' first
    | with_reducible assumption
    | with_reducible apply MemCanonical.dropSess
    | with_reducible refine MemCanonical.doe _ (fun _ => ?_)
    | with_reducible apply MemCanonical.answer
    | with_reducible apply MemCanonical.mapPkg
    | split
    | extract_lets

theorem MemCanonical.finishSess {s : State} (h : MemCanonical s)  :
    OptAll MemCanonical (Sys2Proof.Machine.finishSess s) := by
  unfold Sys2Proof.Machine.finishSess
  repeat' first
    | with_reducible assumption
    | with_reducible refine MemCanonical.doe _ (fun _ => ?_)
    | with_reducible apply MemCanonical.answer
    | with_reducible apply MemCanonical.mapPkg
    | split
    | extract_lets

theorem MemCanonical.endSession {s : State} (h : MemCanonical s)  :
    OptAll MemCanonical (Sys2Proof.Machine.endSession s) := by
  unfold Sys2Proof.Machine.endSession
  repeat' first
    | with_reducible assumption
    | with_reducible apply MemCanonical.dropSess
    | with_reducible refine MemCanonical.doe _ (fun _ => ?_)
    | with_reducible apply MemCanonical.answer
    | with_reducible apply MemCanonical.mapPkg
    | split
    | extract_lets

theorem MemCanonical.ideKm {s : State} (h : MemCanonical s) (pkg stream : Nat) (secure : Bool) :
    OptAll MemCanonical (Sys2Proof.Machine.ideKm s pkg stream secure) := by
  unfold Sys2Proof.Machine.ideKm
  repeat' first
    | with_reducible assumption
    | with_reducible refine MemCanonical.doe _ (fun _ => ?_)
    | with_reducible apply MemCanonical.answer
    | with_reducible apply MemCanonical.mapPkg
    | split
    | extract_lets
    | dsimp +zetaDelta only [Res.All, OptAll]

theorem MemCanonical.lockInterface {s : State} (h : MemCanonical s)  :
    OptAll MemCanonical (Sys2Proof.Machine.lockInterface s) := by
  unfold Sys2Proof.Machine.lockInterface
  repeat' first
    | with_reducible assumption
    | with_reducible refine MemCanonical.doe _ (fun _ => ?_)
    | with_reducible apply MemCanonical.answer
    | with_reducible apply MemCanonical.mapPkg
    | split
    | extract_lets

theorem MemCanonical.startInterface {s : State} (h : MemCanonical s)  :
    OptAll MemCanonical (Sys2Proof.Machine.startInterface s) := by
  unfold Sys2Proof.Machine.startInterface
  repeat' first
    | with_reducible assumption
    | with_reducible refine MemCanonical.doe _ (fun _ => ?_)
    | with_reducible apply MemCanonical.answer
    | with_reducible apply MemCanonical.mapPkg
    | split
    | extract_lets

theorem MemCanonical.stopInterface {s : State} (h : MemCanonical s)  :
    OptAll MemCanonical (Sys2Proof.Machine.stopInterface s) := by
  unfold Sys2Proof.Machine.stopInterface
  repeat' first
    | with_reducible assumption
    | with_reducible refine MemCanonical.doe _ (fun _ => ?_)
    | with_reducible apply MemCanonical.answer
    | with_reducible apply MemCanonical.mapPkg
    | split
    | extract_lets

theorem MemCanonical.tdispError {s : State} (h : MemCanonical s) (pkg : Nat) (cause : TdispCause) :
    OptAll MemCanonical (Sys2Proof.Machine.tdispError s pkg cause) := by
  unfold Sys2Proof.Machine.tdispError
  repeat' first
    | with_reducible assumption
    | with_reducible apply MemCanonical.run
    | with_reducible apply MemCanonical.fallCpygs
    | with_reducible apply MemCanonical.dropSess
    | with_reducible apply MemCanonical.mapPkg
    | split
    | extract_lets
    | dsimp +zetaDelta only [Res.All, OptAll]

theorem MemCanonical.hostAccess {s : State} (h : MemCanonical s) (pkg win off n : Nat) (t : Tlp) {body : Pkg → HostPlace → Option State}
    (hb : ∀ p pl, OptAll MemCanonical (body p pl)) : OptAll MemCanonical (Sys2Proof.Machine.hostAccess s pkg win off n t body) := by
  unfold Sys2Proof.Machine.hostAccess
  repeat' first
    | trivial
    | exact hb _ _
    | split
    | extract_lets

theorem MemCanonical.hostPut {s : State} (h : MemCanonical s) (pkg : Nat) (bs : List Byte) (pl : HostPlace) :
    MemCanonical (Sys2Proof.Machine.hostPut s pkg bs pl) := by
  unfold Sys2Proof.Machine.hostPut
  split
  · exact h.foldl _ (fun _ _ h => h.writeHome _ _ _ _)
  · exact h.foldl _ (fun _ _ h => h.writePhys _ _ _ _)

theorem MemCanonical.hostRead {s : State} (h : MemCanonical s) (pkg win off len : Nat) (t : Tlp) :
    OptAll MemCanonical (Sys2Proof.Machine.hostRead s pkg win off len t) := by
  unfold Sys2Proof.Machine.hostRead
  repeat' first
    | with_reducible assumption
    | with_reducible refine MemCanonical.hostAccess (by assumption) _ _ _ _ _ (fun _ _ => ?_)
    | with_reducible apply MemCanonical.answer
    | with_reducible apply OptAll.some
    | split
    | extract_lets

theorem MemCanonical.hostWrite {s : State} (h : MemCanonical s) (pkg win off : Nat) (bs : List Byte) (t : Tlp) :
    OptAll MemCanonical (Sys2Proof.Machine.hostWrite s pkg win off bs t) := by
  unfold Sys2Proof.Machine.hostWrite
  repeat' first
    | with_reducible assumption
    | with_reducible refine MemCanonical.hostAccess (by assumption) _ _ _ _ _ (fun _ _ => ?_)
    | with_reducible apply MemCanonical.hostPut
    | split
    | extract_lets
    | dsimp +zetaDelta only [Res.All, OptAll]

theorem MemCanonical.hostAtomic {s : State} (h : MemCanonical s) (pkg win off n : Nat) (kind : HostAtomic) (operand compare : Nat) (t : Tlp) :
    OptAll MemCanonical (Sys2Proof.Machine.hostAtomic s pkg win off n kind operand compare t) := by
  unfold Sys2Proof.Machine.hostAtomic
  repeat' first
    | with_reducible assumption
    | with_reducible apply MemCanonical.answer
    | with_reducible refine MemCanonical.hostAccess (by assumption) _ _ _ _ _ (fun _ _ => ?_)
    | with_reducible apply MemCanonical.hostPut
    | split
    | extract_lets
    | dsimp +zetaDelta only [Res.All, OptAll]

theorem MemCanonical.noteRoutes {s : State} (h : MemCanonical s) (before : State) (pkg : Nat) :
    MemCanonical (Sys2Proof.Machine.noteRoutes before s pkg) := h.mapPkg _ _

theorem MemCanonical.setPort {s : State} (h : MemCanonical s) (pkg port : Nat) (f : Port → Port) :
    MemCanonical (Sys2Proof.Machine.setPort s pkg port f) := by
  unfold Sys2Proof.Machine.setPort
  repeat' first
    | with_reducible assumption
    | with_reducible apply MemCanonical.noteRoutes
    | with_reducible apply MemCanonical.mapPkg
    | split
    | extract_lets

theorem MemCanonical.clkCommand {s : State} (h : MemCanonical s) (pkg port : Nat) {body : Port → State}
    (hb : ∀ p, MemCanonical (body p)) : OptAll MemCanonical (Sys2Proof.Machine.clkCommand s pkg port body) := by
  unfold Sys2Proof.Machine.clkCommand
  repeat' first
    | trivial
    | exact hb _
    | split
    | extract_lets

theorem MemCanonical.train {s : State} (h : MemCanonical s) (pkg port : Nat) :
    OptAll MemCanonical (Sys2Proof.Machine.train s pkg port) := by
  unfold Sys2Proof.Machine.train
  repeat' first
    | with_reducible assumption
    | with_reducible refine MemCanonical.clkCommand (by assumption) _ _ (fun _ => ?_)
    | with_reducible apply MemCanonical.setPort
    | split
    | extract_lets

theorem MemCanonical.disable {s : State} (h : MemCanonical s) (pkg port : Nat) :
    OptAll MemCanonical (Sys2Proof.Machine.disable s pkg port) := by
  unfold Sys2Proof.Machine.disable
  repeat' first
    | with_reducible assumption
    | with_reducible refine MemCanonical.clkCommand (by assumption) _ _ (fun _ => ?_)
    | with_reducible apply MemCanonical.setPort
    | split
    | extract_lets

theorem MemCanonical.portTrained {s : State} (h : MemCanonical s) (pkg port : Nat) (r : TrainResult) :
    OptAll MemCanonical (Sys2Proof.Machine.portTrained s pkg port r) := by
  have hp : ∀ f, OptAll MemCanonical (some (Sys2Proof.Machine.setPort s pkg port f)) := fun _ => h.setPort _ _ _
  unfold Sys2Proof.Machine.portTrained
  split
  · trivial
  cases r <;> dsimp only
  all_goals repeat' first
    | trivial
    | exact hp _
    | split

theorem MemCanonical.portTimeout {s : State} (h : MemCanonical s) (pkg port : Nat) :
    OptAll MemCanonical (Sys2Proof.Machine.portTimeout s pkg port) := by
  unfold Sys2Proof.Machine.portTimeout
  repeat' first
    | with_reducible assumption
    | with_reducible apply MemCanonical.setPort
    | split
    | extract_lets
    | dsimp +zetaDelta only [Res.All, OptAll]

theorem MemCanonical.laneLost {s : State} (h : MemCanonical s) (pkg port lanes : Nat) :
    OptAll MemCanonical (Sys2Proof.Machine.laneLost s pkg port lanes) := by
  unfold Sys2Proof.Machine.laneLost
  repeat' first
    | with_reducible assumption
    | with_reducible apply MemCanonical.setPort
    | split
    | extract_lets
    | dsimp +zetaDelta only [Res.All, OptAll]

theorem MemCanonical.flitReplay {s : State} (h : MemCanonical s) (pkg port : Nat) (corrected : Bool) :
    OptAll MemCanonical (Sys2Proof.Machine.flitReplay s pkg port corrected) := by
  unfold Sys2Proof.Machine.flitReplay
  repeat' first
    | with_reducible assumption
    | with_reducible apply MemCanonical.mapPkg
    | split
    | extract_lets
    | dsimp +zetaDelta only [Res.All, OptAll]

/-! ## Machine/FieldEvents.lean -/

theorem MemCanonical.clearPkg {s : State} (h : MemCanonical s) (n : Nat) :
    MemCanonical (Sys2Proof.Machine.clearPkg s n) := by
  unfold Sys2Proof.Machine.clearPkg
  repeat' first
    | with_reducible assumption
    | split
    | extract_lets
    | (with_reducible apply MemCanonical.mk; first | with_reducible assumption)

theorem MemCanonical.moduleReset {s : State} (h : MemCanonical s)  :
    OptAll MemCanonical (Sys2Proof.Machine.moduleReset s) := by
  unfold Sys2Proof.Machine.moduleReset
  repeat' first
    | with_reducible assumption
    | with_reducible apply MemCanonical.clearPkg
    | with_reducible apply MemCanonical.mapPkg
    | split
    | extract_lets
    | dsimp +zetaDelta only [Res.All, OptAll]

theorem MemCanonical.fieldRamp {s : State} (h : MemCanonical s) (pkg fld : Nat) :
    OptAll MemCanonical (Sys2Proof.Machine.fieldRamp s pkg fld) := by
  unfold Sys2Proof.Machine.fieldRamp
  repeat' first
    | with_reducible assumption
    | with_reducible apply MemCanonical.mapPkg
    | with_reducible apply MemCanonical.mapField
    | split
    | extract_lets
    | dsimp +zetaDelta only [Res.All, OptAll]

theorem MemCanonical.fieldOn {s : State} (h : MemCanonical s) (pkg fld : Nat) :
    OptAll MemCanonical (Sys2Proof.Machine.fieldOn s pkg fld) := by
  unfold Sys2Proof.Machine.fieldOn
  repeat' first
    | with_reducible assumption
    | with_reducible apply MemCanonical.mapField
    | with_reducible apply MemCanonical.mapPkg
    | split
    | extract_lets
    | dsimp +zetaDelta only [Res.All, OptAll]

theorem MemCanonical.fieldTimeout {s : State} (h : MemCanonical s) (pkg fld : Nat) :
    OptAll MemCanonical (Sys2Proof.Machine.fieldTimeout s pkg fld) := by
  unfold Sys2Proof.Machine.fieldTimeout
  repeat' first
    | with_reducible assumption
    | with_reducible apply MemCanonical.mapField
    | with_reducible apply MemCanonical.mapPkg
    | split
    | extract_lets
    | dsimp +zetaDelta only [Res.All, OptAll]

theorem MemCanonical.overcurrent {s : State} (h : MemCanonical s) (pkg fld : Nat) :
    OptAll MemCanonical (Sys2Proof.Machine.overcurrent s pkg fld) := by
  unfold Sys2Proof.Machine.overcurrent
  repeat' first
    | with_reducible assumption
    | with_reducible apply MemCanonical.deviceFault
    | with_reducible apply MemCanonical.mapField
    | split
    | extract_lets
    | dsimp +zetaDelta only [Res.All, OptAll]

theorem MemCanonical.stageDone {s : State} (h : MemCanonical s) (pkg n : Nat) (f : Pkg → Pkg) :
    OptAll MemCanonical (Sys2Proof.Machine.stageDone s pkg n f) := by
  unfold Sys2Proof.Machine.stageDone
  repeat' first
    | with_reducible assumption
    | with_reducible apply MemCanonical.mapPkg
    | split
    | extract_lets
    | dsimp +zetaDelta only [Res.All, OptAll]

theorem MemCanonical.bdTrained {s : State} (h : MemCanonical s)  :
    OptAll MemCanonical (Sys2Proof.Machine.bdTrained s) := by
  unfold Sys2Proof.Machine.bdTrained
  repeat' first
    | with_reducible assumption
    | with_reducible apply MemCanonical.stageDone
    | split
    | extract_lets
    | dsimp +zetaDelta only [Res.All, OptAll]

theorem MemCanonical.hbmTrained {s : State} (h : MemCanonical s)  :
    OptAll MemCanonical (Sys2Proof.Machine.hbmTrained s) := by
  unfold Sys2Proof.Machine.hbmTrained
  repeat' first
    | with_reducible assumption
    | with_reducible apply MemCanonical.stageDone
    | split
    | extract_lets

theorem MemCanonical.pcieTrained {s : State} (h : MemCanonical s) (pkg rate width : Nat) (flit : Bool) :
    OptAll MemCanonical (Sys2Proof.Machine.pcieTrained s pkg rate width flit) := by
  unfold Sys2Proof.Machine.pcieTrained
  repeat' first
    | with_reducible assumption
    | with_reducible apply MemCanonical.mapPkg
    | with_reducible apply MemCanonical.stageDone
    | split
    | extract_lets
    | dsimp +zetaDelta only [Res.All, OptAll]

theorem MemCanonical.cbaGrant {s : State} (h : MemCanonical s) (pkg : Nat) (draws grants : List Nat) :
    OptAll MemCanonical (Sys2Proof.Machine.cbaGrant s pkg draws grants) := by
  unfold Sys2Proof.Machine.cbaGrant
  repeat' first
    | with_reducible assumption
    | with_reducible apply MemCanonical.mapPkg
    | split
    | extract_lets
    | dsimp +zetaDelta only [Res.All, OptAll]

theorem MemCanonical.registerWrite {s : State} (h : MemCanonical s) (pkg off n v : Nat) :
    OptAll MemCanonical (Sys2Proof.Machine.registerWrite s pkg off n v) := by
  unfold Sys2Proof.Machine.registerWrite
  repeat' first
    | with_reducible assumption
    | with_reducible apply MemCanonical.noteRoutes
    | with_reducible apply MemCanonical.mapPkg
    | split
    | extract_lets
    | dsimp +zetaDelta only [Res.All, OptAll]

/-! ## What settles after every move -/

theorem MemCanonical.settleGroup {s : State} (h : MemCanonical s) (gid : Nat) : MemCanonical (settleGroup s gid) := by
  unfold Sys2Proof.Machine.settleGroup
  repeat' first
    | exact h
    | exact h.mapGroup _ _
    | exact h.leaveActive _
    | split

theorem MemCanonical.settleGroups {s : State} (h : MemCanonical s) : MemCanonical (settleGroups s) := h.foldl _ (fun _ _ h => h.settleGroup _)

theorem MemCanonical.settledState {s : State} (h : MemCanonical s) : MemCanonical (settledState s) :=
  h.writeHeldOnes.settleAll.settleGroups.settleRecs.settleCmds

/-! ## What is no instruction: reads ahead, failed stages, other draws -/

theorem MemCanonical.readAhead {s : State} (h : MemCanonical s) (id : Nat) (us : List Nat) : OptAll MemCanonical (Sys2Proof.Machine.readAhead s id us) := by
  unfold Sys2Proof.Machine.readAhead
  repeat' first
    | trivial
    | exact h.mapInst _ _
    | split

theorem MemCanonical.stageFail {s : State} (h : MemCanonical s) (pkg : Nat) : OptAll MemCanonical (Sys2Proof.Machine.stageFail s pkg) := by
  unfold Sys2Proof.Machine.stageFail
  repeat' first
    | trivial
    | exact h.mapPkg _ _
    | split

theorem MemCanonical.restDraw {s : State} (h : MemCanonical s) (pkg watts : Nat) : OptAll MemCanonical (Sys2Proof.Machine.restDraw s pkg watts) := by
  unfold Sys2Proof.Machine.restDraw
  repeat' first
    | trivial
    | exact h.mapPkg _ _
    | split

end Sys2Proof.Machine
end

