-- ==== Sys2Proof/Tests/Slice0.lean ====
section
/-! SUPPORT. Small tests: ill-formed terms, words decoded by hand from the spec's listings, and a witness for the hypotheses of every statement. -/

namespace Sys2Proof.Tests

open Sys2Proof Sys2Proof.Machine

/-! ## Well-formedness: each check refuses a term -/

theorem test_illformed_words :
    [.fcvt 7 (getA 0), .ld 10 (getM 0), .st 15 (getM 0), .red 12 (getM 0), .waitt (getA 1), .waittD (getA 0), .clkTb (getA 1), .clkCyc (getA 0),
      .nmmodeOn (getA 0), .nmmodeOff (getA 1), .unassignedOpcode (1 <<< 55)].any wellFormed = false := by decide

theorem test_illformed_device_steps :
    [.loadPerform (.lane 0 96) .home .none, .guestCopyFill 128 0 0 1, .guestCopyExpire 0 2048 0, .l1PrefetchFill 0 672 0, .writePerform (.lane 0 96) .none,
      .atomicExecute 0 96, .baseDieLinkFail 0 11, .nmSessionTimeout 0 768, .groupPlace 0 0 0 672, .groupRestore 0 672, .nodeMove 0 14 0 0,
      .queueEntryTake 0 0 64, .watcherNotify 0 0 64, .prompterChoose 0 0 64, .kernelNode 0 0 64, .copyNode 0 0 64, .waitcueNode 0 0 64, .setcueNode 0 0 64,
      .condNode 0 0 64, .whileNode 0 0 64, .joinNode 0 0 64, .endNode 0 0 64, .effprioAge 0 0 64].any wellFormed = false := by decide

theorem test_illformed_host_steps :
    [.ctxCmdBad 0 16 0, .contextFault 0 2048 .none, .packageUnreachable 0 128, .key 0 0 [] [] [] [], .getCtxmeas 0 0 [], .challenge 0 [],
      .tdispError 128 .linkDown, .hostRead 0 16 0 1 ⟨none, false⟩, .hostWrite 0 0 0 [] ⟨none, false⟩, .hostAtomicop 0 0 0 16 .cas 0 0 ⟨none, false⟩, .pgCmdBad 0 16,
      .migrationSwitch 0 2048 0, .train 0 64, .disable 0 64, .portTrained 0 64 .attemptFailed, .portTrainTimeout 0 64, .laneLost 0 0 0, .flitReplay 0 64 true,
      .fieldRamp 0 6, .fieldOn 0 6, .fieldRampTimeout 0 6, .overcurrent 0 6, .pcieLinkTraining 0 8 0 true, .cbaGrant 128 [] [], .registerWrite 0 0 2 0,
      .ideKm 0 5 true].any wellFormed = false := by decide

/-! ## Decoding: the words of the spec's listings, their fields read off the listing -/

theorem test_words_control :
    decode 0x8000000000018900 = .bra { a := 0, disp := 3, ep := 0, g := 9, mod := 0 }
    ∧ decode 0xA95C945519470020 = .tld { d := 740, a := 650, b := 652, c := 654, ep := 0, g := 0, mod := 0x20 }
    ∧ decode 0xAB80000000000020 = .ewait { d := 0, a := 0, b := 0, c := 0, ep := 0, g := 0, mod := 0x20 }
    ∧ decode 0xA100000000000000 = .mcommit { d := 0, a := 0, b := 0, c := 0, ep := 0, g := 0, mod := 0 }
    ∧ decode 0xA180000000000001 = .mwait { d := 0, a := 0, b := 0, c := 0, ep := 0, g := 0, mod := 1 }
    ∧ decode 0xA060171D29440001 = .mma { d := 768, a := 739, b := 660, c := 648, ep := 0, g := 0, mod := 1 }
    ∧ decode 0xA2D31805356000E0 = .mst { d := 664, a := 768, b := 666, c := 704, ep := 0, g := 0, mod := 0xE0 }
    ∧ decode 0x6D5C748522000011 = .tiledef { d := 739, a := 656, b := 657, c := 0, ep := 0, g := 0, mod := 0x11 } := by decide

theorem test_words_memory :
    decode 0x6600000000000030 = .fence { d := 0, ab := 0, off := 0, ep := 0, g := 0, scope := 3, ord := 0 }
    ∧ decode 0x6680000000000030 = .fences { d := 0, ab := 0, off := 0, ep := 0, g := 0, scope := 3, ord := 0 }
    ∧ decode 0x60003450000001E2 = .ld 0 { d := 1, ab := 650, off := 0, ep := 0, g := 1, scope := 14, ord := 2 }
    ∧ decode 0x60005450080001E2 = .ld 0 { d := 2, ab := 650, off := 0x1000, ep := 0, g := 1, scope := 14, ord := 2 }
    ∧ decode 0x6800A0A000000200 = .st 0 { d := 5, ab := 20, off := 0, ep := 0, g := 2, scope := 0, ord := 0 }
    ∧ decode 0xEE50945000000002 = .pghint { d := 644, ab := 650, off := 0, ep := 0, g := 0, scope := 0, ord := 2 }
    ∧ decode 0xCC50B430000000E0 = .garm { d := 645, a := 646, b := 0, c := 0, ep := 0, g := 0, mod := 0xE0 } := by decide

theorem test_words_compute :
    decode 0x1DD2148001000000 = .leaI { d := 656, a := 656, imm := 512, ep := 0, g := 0, mod := 0 }
    ∧ decode 0x1DD21487FF000000 = .leaI { d := 656, a := 656, imm := 0xFFE00, ep := 0, g := 0, mod := 0 }
    ∧ decode 0x0E50F42800000000 = .mov { d := 647, a := 645, b := 0, c := 0, ep := 0, g := 0, mod := 0 }
    ∧ decode 0x1D55143800038001 = .icmpI { d := 680, a := 647, imm := 7, ep := 0, g := 0, mod := 1 }
    ∧ decode 0x4900A02000000045 = .lred { d := 5, a := 4, b := 0, c := 0, ep := 0, g := 0, mod := 0x45 }
    ∧ decode 0x218020C002040000 = .ffma { d := 1, a := 24, b := 1, c := 8, ep := 0, g := 0, mod := 0 } := by decide

theorem test_words_groups :
    decode 0xC650E00001C00002 = .treeid { d := 647, a := 0, b := 0, level := 14, id := 0, ep := 0, g := 0, mod := 2 }
    ∧ decode 0xC680800000400000 = .loophd { d := 4, a := 0, b := 0, level := 2, id := 0, ep := 0, g := 0, mod := 0 }
    ∧ decode 0xC700000000000000 = .idone { d := 0, a := 0, b := 0, level := 0, id := 0, ep := 0, g := 0, mod := 0 }
    ∧ decode 0xC7D5000800000000 = .iput { d := 680, a := 1, b := 0, level := 0, id := 0, ep := 0, g := 0, mod := 0 }
    ∧ decode 0xC000000001C00000 = .bar { d := 0, a := 0, b := 0, level := 14, id := 0, ep := 0, g := 0, mod := 0 }
    ∧ decode 0xC400000001C00000 = .abort { d := 0, a := 0, b := 0, level := 14, id := 0, ep := 0, g := 0, mod := 0 }
    ∧ decode 0xC200143000418000 = .abinit { d := 0, a := 646, b := 0, level := 2, id := 3, ep := 0, g := 0, mod := 0 }
    ∧ decode 0xC350942800018001 = .abwait { d := 644, a := 645, b := 0, level := 0, id := 3, ep := 0, g := 0, mod := 1 }
    ∧ decode 0xC8D09455174800E0 = .launchi { d := 644, a := 650, b := 651, c := 656, ep := 0, g := 0, mod := 0xE0 } := by decide

theorem test_words_remote :
    decode 0xE183D450294300E4 = .ropr { d := 30, a := 650, b := 20, c := 646, ep := 0, g := 0, mod := 0xE4 }
    ∧ decode 0xE15094552D430002 = .rop { d := 644, a := 650, b := 662, c := 646, ep := 0, g := 0, mod := 0x02 }
    ∧ decode 0xE951345521488000 = .nmmac { d := 649, a := 650, b := 656, c := 657, ep := 0, g := 0, mod := 0 }
    ∧ decode 0xE980945518000000 = .nmrd { d := 4, a := 650, b := 652, c := 0, ep := 0, g := 0, mod := 0 }
    ∧ decode 0xE8D0B45003480000 = .nmbc { d := 645, a := 650, b := 1, c := 656, ep := 0, g := 0, mod := 0 }
    ∧ decode 0xE852745000000000 = .nmmodeOff { d := 659, a := 650, b := 0, c := 0, ep := 0, g := 0, mod := 0 }
    ∧ decode 0xEC509450016000E0 = .redgo { d := 644, a := 650, b := 0, c := 704, ep := 0, g := 0, mod := 0xE0 }
    ∧ decode 0xAE509480016000E0 = .cpyg { d := 644, a := 656, b := 0, c := 704, ep := 0, g := 0, mod := 0xE0 } := by decide

/-- The bytes of a word as memory holds them, least significant first (R2). -/
theorem test_bytes_of_word : (decodeBytes (bytesOfWord 0x8000000000000300)).toOption = some (.bra { a := 0, disp := 0, ep := 0, g := 3, mod := 0 }, []) := by decide

/-! ## Witnesses: a state in which a split issues, and instruction forms that execute there -/

/-- A word of a format from its operands. -/
def fA (d a b c mod : Nat) : FmtA := { d := BitVec.ofNat 10 d, a := BitVec.ofNat 10 a, b := BitVec.ofNat 10 b, c := BitVec.ofNat 10 c, ep := 0, g := 0, mod := BitVec.ofNat 8 mod }
def fI (d a imm mod : Nat) : FmtI := { d := BitVec.ofNat 10 d, a := BitVec.ofNat 10 a, imm := BitVec.ofNat 20 imm, ep := 0, g := 0, mod := BitVec.ofNat 8 mod }
def fM (d ab off scope ord : Nat) : FmtM :=
  { d := BitVec.ofNat 10 d, ab := BitVec.ofNat 10 ab, off := BitVec.ofNat 20 off, ep := 0, g := 0, scope := BitVec.ofNat 4 scope, ord := BitVec.ofNat 4 ord }
def fC (a disp mod : Nat) : FmtC := { a := BitVec.ofNat 10 a, disp := BitVec.ofNat 30 disp, ep := 0, g := 0, mod := BitVec.ofNat 8 mod }
def fS (d a b level id mod : Nat) : FmtS :=
  { d := BitVec.ofNat 10 d, a := BitVec.ofNat 10 a, b := BitVec.ofNat 10 b, level := BitVec.ofNat 4 level, id := BitVec.ofNat 6 id, ep := 0, g := 0, mod := BitVec.ofNat 8 mod }

/-- The group of State.withFetchWord, its split issuing a word. -/
def bench : State := { benchState State.reset 0 with cur := some (State.reset.nextId + 1, 0), agenda := [] }

/-- In s the issuing split meets Runs for a form, its acting lanes those of its guard. -/
def meets (s : State) (f : Form) : Bool :=
  match issuer s with
  | some x => ready x f (actMask x f)
  | none => false

theorem test_witness_integer :
    [formIadd (fA 2 0 1 0 0), formIsub (fA 2 0 1 0 0), formImul (fA 2 0 1 0 0), formImulh (fA 2 0 1 0 0), formImad (fA 3 0 1 2 0), formIabs (fA 1 0 0 0 0),
      formIneg (fA 1 0 0 0 0), formImin (fA 2 0 1 0 0), formImax (fA 15 14 13 0 0), formIaddI (fI 644 644 1 0), formIsubI (fI 1 0 0xFFFFF 0), formImulI (fI 1 0 7 0),
      formIminI (fI 1 0 7 0), formImaxI (fI 1 0 7 0)].all (meets bench) = true := by decide +kernel

theorem test_witness_bits :
    [formAnd (fA 2 0 1 0 0), formOr (fA 2 0 1 0 0), formXor (fA 2 0 1 0 0), formAndn (fA 2 0 1 0 0), formNot (fA 1 0 0 0 0), formShl (fA 2 0 1 0 0), formShr (fA 2 0 1 0 0),
      formSar (fA 2 0 1 0 0), formRol (fA 2 0 1 0 0), formPopc (fA 1 0 0 0 0), formClz (fA 1 0 0 0 0), formCtz (fA 1 0 0 0 0), formBrev (fA 1 0 0 0 0), formBfx (fA 2 0 1 0 0),
      formBfi (fA 3 0 1 2 0), formSel (fA 3 0 1 683 1), formIcmp (fA 680 0 1 0 0), formLea (fA 4 2 0 0 0), formMov (fA 647 645 0 0 0)].all (meets bench) = true
    ∧ [formAndI (fI 1 0 7 0), formOrI (fI 1 0 7 0), formXorI (fI 1 0 7 0), formAndnI (fI 1 0 7 0), formShlI (fI 1 0 63 0), formShrI (fI 1 0 31 0), formSarI (fI 1 0 31 0),
      formRolI (fI 1 0 31 0), formBfxI (fI 1 0 7 0), formIcmpI (fI 683 8 100 2), formLeaI (fI 656 656 512 0),
      formMovi { d := 645, imm := 0x3F800000, z := 0, g := 0, mod := 0 }].all (meets bench) = true := by decide +kernel

theorem test_witness_float :
    [formFadd (fA 2 0 1 0 0), formFsub (fA 2 0 1 0 0), formFmul (fA 2 0 1 0 0), formFfma (fA 4 5 6 7 9), formFmin (fA 2 0 1 0 0), formFmax (fA 2 0 1 0 0), formFcmp (fA 680 0 1 0 0),
      formFclass (fA 1 0 0 0 0), formFrnd (fA 1 0 0 0 0), formDadd (fA 4 0 2 0 0), formDmul (fA 4 0 2 0 0), formDfma (fA 6 0 2 4 0), formDmin (fA 4 0 2 0 0), formDmax (fA 14 0 2 0 0),
      formDcmp (fA 680 0 2 0 0), formBadd2 (fA 2 0 1 0 4), formBmul2 (fA 2 0 1 0 0), formBfma2 (fA 3 0 1 2 0), formFcvt 0 (fA 1 0 0 0 0x20), formFcvt 1 (fA 2 0 0 0 0)].all (meets bench) = true
    ∧ [formFaddI (fI 1 0 0x3F800 0), formFsubI (fI 1 0 0x3F800 0), formFmulI (fI 1 0 0x3F800 0), formFminI (fI 1 0 0x3F800 0), formFmaxI (fI 1 0 0x3F800 0),
      formFcmpI (fI 680 0 0x3F800 0)].all (meets bench) = true := by decide +kernel

theorem test_witness_special_and_lane :
    [formRcp (fA 1 0 0 0 0), formRsq (fA 1 0 0 0 0), formSqrt (fA 1 0 0 0 0), formFdiv (fA 2 0 1 0 0), formExp2 (fA 1 0 0 0 0), formLog2 (fA 1 0 0 0 0), formExp (fA 1 0 0 0 0),
      formLog (fA 1 0 0 0 0), formSin (fA 1 0 0 0 0), formCos (fA 1 0 0 0 0), formTanh (fA 1 0 0 0 0), formShfl (fA 2 0 1 0 0), formVote (fA 680 683 0 0 3), formLred (fA 5 4 0 0 0x45),
      formLscan (fA 5 4 0 0 0), formPand (fA 680 683 686 0 0), formPor (fA 680 683 686 0 1), formPnot (fA 680 683 0 0 0), formPcnt (fA 644 680 0 0 0)].all (meets bench) = true
    ∧ meets bench (formShflI (fI 9 10 1 0x23)) = true := by decide +kernel

/-! ## Witnesses: a state and operands that meet the hypotheses of each clause of a statement, clause by clause -/

/-- The issuing split of a bench state. -/
def issOf (s : State) : Iss :=
  match issuer s with
  | some x => x
  | none => { g := freshGroup 0 0 0 0 0 0 0 0 0 0 0 (freshSplit 0 0 []), sp := freshSplit 0 0 [], k := benchInst 0 0 0 }

/-- The lanes it acts in under a form. -/
def actOf (s : State) (f : Form) : Mask := actMask (issOf s) f

/-- 1 GiB of memory-homed addresses from 0 on one pseudo-channel. -/
def benchEntry : PtEntry := { valid := true, mh := true, log2size := 30, hostvis := false, home := 0, log2n := 0, listbase := 0, base := 0, raw := 0 }

/-- Its first page, MAPPED to frame 0. -/
def benchPage : Page := { ctx := 0, pkg := 0, va := 0, state := .mapped, frames := [0], newFrames := [], since := 0, bad := none }

/-- The bench with memory. -/
def memBench : State := { bench with tick := 100, ctxs := [{ benchCtx 0 0 with pt := [benchEntry], pcl := [0] }], pages := [benchPage] }

/-- A bench whose instance, group and split are changed. -/
def with3 (s : State) (fk : Inst → Inst) (fg : Group → Group) (fsp : Split → Split) : State :=
  { s with insts := s.insts.map fk, groups := s.groups.map (fun g => fg { g with splits := g.splits.map fsp }) }

/-- A bench whose scalars from Si on hold values. -/
def scalars (s : State) (i : Nat) (vs : List Nat) : State :=
  with3 s id (fun g => { g with sregs := vs.zipIdx.foldl (fun l p => setAt l (i + p.2) { val := BitVec.ofNat 32 p.1 }) g.sregs }) id

/-- The addresses of a word of format M's acting lanes. -/
def lanesOf (s : State) (w : FmtM) (n : Nat) (f : Form) : List (Nat × Nat) :=
  laneAddrs (issOf s) w.ab.toNat w.off.toInt n (onceM (issOf s) w.ab.toNat w.d.toNat) (actOf s f)

def wAccess : List Bool :=
  [meets memBench (formLd 0 (fM 10 648 0 0 0)), addrsOk memBench (issOf memBench) 4 true (lanesOf memBench (fM 10 648 0 0 0) 4 (formLd 0 (fM 10 648 0 0 0))),
    !windowFull (issOf memBench) (lanesOf memBench (fM 10 648 0 0 0) 4 (formLd 0 (fM 10 648 0 0 0))),
    meets memBench (formPref (fM 0 648 0 0 0)),
    meets memBench (formSt 0 (fM 5 648 4 3 8)), addrsOk memBench (issOf memBench) 4 false (lanesOf memBench (fM 5 648 4 3 8) 4 (formSt 0 (fM 5 648 4 3 8))),
    meets memBench (formAtom 0 (fM 6 648 0 3 2)), addrsOk memBench (issOf memBench) 4 false (lanesOf memBench (fM 6 648 0 3 2) 4 (formAtom 0 (fM 6 648 0 3 2))),
    meets memBench (formRed 0 (fM 6 648 0 0 0)), addrsOk memBench (issOf memBench) 4 false (laneAddrs (issOf memBench) 648 0 4 false (actOf memBench (formRed 0 (fM 6 648 0 0 0)))),
    meets memBench (formCuew (fM 649 648 0 15 8)),
    addrsOk memBench (issOf memBench) 4 false (laneAddrs (issOf memBench) 648 0 4 true (actOf memBench (formCuew (fM 649 648 0 15 8)))),
    fenceReady memBench (issOf memBench) 3, fenceReady memBench (issOf memBench) 15]
theorem test_witness_access : wAccess.all id = true := by decide +kernel

/-- A constant area of 512 bytes, whose first word holds 1: a table of one entry. -/
def constBench : State := with3 { memBench with mem := [(0, 1)] } (fun k => { k with csize := 512 }) id id

def wConstants : List Bool :=
  [meets constBench (formLdc (fM 10 648 0 0 0)), constsOk constBench (issOf constBench) (lanesOf constBench (fM 10 648 0 0 0) 4 (formLdc (fM 10 648 0 0 0))),
    meets constBench (formJmpt (fC 644 0 0)), !jumpParked constBench (issOf constBench), !tableWaits constBench (issOf constBench) 0, !fetchStale constBench (issOf constBench) 0,
    constWord constBench (issOf constBench) (tableOff (fC 644 0 0)) == .bytes [1, 0, 0, 0] false,
    constWord constBench (issOf constBench) (tableOff (fC 644 0 0) + 4) == .bytes [0, 0, 0, 0] false,
    (actOf constBench (formJmpt (fC 644 0 0))).lanes.all (fun i => readWord (issOf constBench) 644 i == 0),
    distinct ((issOf constBench).sp.mask.lanes.map (fun _ => 8 * leNat [0, 0, 0, 0])) == [0], (issOf constBench).sp.window.isNone]
theorem test_witness_constants_and_table : wConstants.all id = true := by decide +kernel

/-- A misaligned address, one past the placement range, and one whose line an entry of the range-lock table holds. -/
def unrouted : State := scalars memBench 8 [0, 1]
def locked : State := { memBench with cores := memBench.cores.map (fun c => { c with rlt := [{ lo := 0, hi := 128, write := true, op := 9 }] }) }
def w648 : FmtM := fM 10 648 0 0 0
/-- An access of each kind: its form, the addresses of its lanes, whether it acts once, and whether a W entry alone locks it. -/
def accesses (s : State) : List (Form × List (Nat × Nat) × Bool × Bool) :=
  let x := issOf s
  let e (f : Form) (off : Int) (once onlyW : Bool) : Form × List (Nat × Nat) × Bool × Bool := (f, laneAddrs x 648 off 4 once (actMask x f), once, onlyW)
  [e (formLd 0 w648) 0 (onceM x 648 10) true, e (formSt 0 (fM 5 648 0 0 0)) 0 (onceM x 648 5) false, e (formAtom 0 (fM 6 648 0 0 0)) 0 (onceM x 648 6) false,
    e (formRed 0 (fM 6 648 0 0 0)) 0 false false, e (formCuew (fM 649 648 0 15 8)) 0 true false]
/-- Every access runs in s, its addresses pass the checks before, and the first address that the next one turns away is a. -/
def turned (s : State) (before : Nat → Bool) (good : Bool → Nat → Bool) (a : Nat) : Bool :=
  (accesses s).all (fun e => meets s e.1 && e.2.1.all (fun p => before p.2) && firstBad e.2.2.1 e.2.1 (good e.2.2.2) == some (0, a))
/-- The same of LDC, on offsets in the constant area. -/
def turnedC (s : State) (before good : Nat → Bool) (a : Nat) : Bool :=
  let la := laneAddrs (issOf s) 648 0 4 (onceM (issOf s) 648 10) (actOf s (formLdc w648))
  meets s (formLdc w648) && la.all (fun p => before p.2) && firstBad (onceM (issOf s) 648 10) la good == some (0, a)
def lockedC : State := { constBench with cores := constBench.cores.map (fun c => { c with rlt := [{ lo := 0, hi := 128, write := true, op := 9 }] }) }
def wAccessTraps : List Bool :=
  [turned (scalars memBench 8 [3]) (fun _ => true) (fun _ a => a % 4 == 0) 3, turned unrouted (fun a => a % 4 == 0) (fun _ a => (routeOf unrouted 0 0 a).isSome) (2 ^ 32),
    turned locked (fun a => a % 4 == 0 && (routeOf locked 0 0 a).isSome) (fun w a => !rltHit locked 0 0 a w) 0, (issOf locked).sp.window.isNone,
    turnedC (scalars constBench 8 [3]) (fun _ => true) (fun a => a % 4 == 0) 3, turnedC (scalars constBench 8 [512]) (fun a => a % 4 == 0) (fun a => decide (a < 512)) 512,
    turnedC lockedC (fun a => a % 4 == 0 && decide (a < 512)) (fun a => !rltHit lockedC 0 0 ((issOf lockedC).k.cbase + a) true) 0, (issOf constBench).k.csize == 512]
theorem test_witness_access_traps : wAccessTraps.all id = true := by decide +kernel

def wFences : List Bool :=
  [meets bench (formFence (fM 0 0 0 3 0)), fenceReady bench (issOf bench) 3,
    meets (with3 bench id id (fun sp => { sp with asFence := true })) (formFences (fM 0 0 0 3 0)), meets bench (formFences (fM 0 0 0 3 0)), !(issOf bench).sp.asFence,
    writesOpen bench (issOf bench).g.id (issOf bench).sp.id == 0]
theorem test_witness_fences : wFences.all id = true := by decide +kernel

/-- Tile T3 of 32 rows of 4 cells, FP16, READY, of the group of rank 0. -/
def tile3 : Tile := { state := .ready, shared := false, owner := 0, fmt := 1, row0 := 0, nrows := 32, col0 := 0, ncols := 4, uses := 0, stamp := 0 }
def tileBench : State := { memBench with cores := memBench.cores.map (fun c => { c with tiles := setAt c.tiles 3 tile3 }) }

/-- Scalars S10 and S11 hold a rectangle of 8 rows from 32 on and 4 columns from 8 on. -/
def defBench : State := scalars tileBench 10 [32 + 8 * 2 ^ 14, 8 + 4 * 32]
/-- Predicate P1 in lanes 0 and 2; a word guarded by it. -/
def pBench (s : State) : State := scalars s 40 [5, 0, 0]
def g1 (w : FmtA) : FmtA := { w with g := 1 }
def wTiles : List Bool :=
  [meets defBench (formTiledef (fA 740 650 651 0 0x10)), (defBench.core? 0 0).isSome,
    (match defBench.core? 0 0 with
      | some c => defRefused (issOf defBench) c (tileEntry (issOf defBench) 740)
          { state := .empty, shared := false, owner := 0, fmt := 1, row0 := 32, nrows := 8, col0 := 8, ncols := 4, uses := 0, stamp := defBench.nextId } false == none
      | none => false),
    readWord (issOf defBench) 650 0 == BitVec.ofNat 32 (32 + 8 * 2 ^ 14), readWord (issOf defBench) 651 0 == 8 + 4 * 32,
    meets tileBench (formTilerel (fA 0 739 0 0 0)), tileWrites tileBench (issOf tileBench) 739,
    meets (pBench tileBench) (formLda (tileWide (pBench tileBench) 739) (g1 (fA 1 739 0 0 0))), tileReads tileBench (issOf tileBench) 739,
    !outOfTile (issOf tileBench) (fA 1 739 0 0 0) tile3 (actOf (pBench tileBench) (formLda false (g1 (fA 1 739 0 0 0)))),
    meets (pBench tileBench) (formSta (tileWide (pBench tileBench) 739) (g1 (fA 0 739 0 1 0))), !exactFmt tile3.fmt, !isScaled tile3.fmt,
    !outOfTile (issOf tileBench) (fA 0 739 0 1 0) tile3 (actOf (pBench tileBench) (formSta false (g1 (fA 0 739 0 1 0)))), tileOf tileBench (issOf tileBench) (tileEntry (issOf tileBench) 739) == tile3,
    [false, true].all (fun b => let s := pBench { tileBench with cores := tileBench.cores.map (fun c => c.setBad (elemHalves tile3 0 0) b) }
      meets s (formLda (tileWide s 739) (g1 (fA 1 739 0 0 0))) && ashPoisoned s (issOf s) ((actOf s (formLda false (g1 (fA 1 739 0 0 0)))).lanes.flatMap (laneHalves (issOf s) (fA 1 739 0 0 0) tile3)) == b)]
theorem test_witness_tiles : wTiles.all id = true := by decide +kernel

/-- A lane's return stack that holds an address; a split that takes part in a group of four, and one of those with a table and with return stacks. -/
def stackBench : State := with3 bench id (fun g => { g with retStacks := List.replicate 96 [64] }) id
def fourSplits : State :=
  with3 bench id (fun g => { g with splits := g.splits ++ [1, 2, 3].map (fun i => { freshSplit 0 0 [] with id := i }) }) id
def guarded : FmtC := { fC 0 5 0 with g := 1 }
def fourAll : State :=
  pBench (with3 constBench id (fun g => { g with retStacks := List.replicate 96 [64], splits := g.splits ++ [1, 2, 3].map (fun i => { freshSplit 0 0 [] with id := i }) }) id)
def guardedA : FmtC := { fC 644 0 0 with g := 1 }
def goesTo (s : State) (act : Mask) (dest : Nat → Nat) : List Nat := distinct ((issOf s).sp.mask.lanes.map (fun i => if act.getLsbD i then dest i else (issOf s).sp.fall))
def wTransfers : List Bool :=
  [meets bench (formBra (fC 0 5 0)), goesTo bench (actOf bench (formBra (fC 0 5 0))) (fun _ => relTarget (issOf bench) (fC 0 5 0) 0) == [40],
    meets (pBench bench) (formBra guarded), goesTo (pBench bench) (actOf (pBench bench) (formBra guarded)) (fun _ => 40) == [40, (issOf bench).sp.fall],
    meets bench (formBrx (fC 644 0 0)), (goesTo bench (actOf bench (formBrx (fC 644 0 0))) (fun i => relTarget (issOf bench) (fC 644 0 0) (offsetOf (issOf bench) (fC 644 0 0) i))).length == 1,
    meets bench (formCall (fC 0 5 0)), meets bench (formCalli (fC 644 0 0)), (issOf bench).sp.window.isNone, (issOf bench).g.splits.length == 1,
    meets stackBench (formRet (fC 0 0 0)), (actOf stackBench (formRet (fC 0 0 0))).lanes.all (fun i => (issOf stackBench).g.retStacks.getD i [] == [64]),
    meets (pBench fourSplits) (formBra guarded), (issOf (pBench fourSplits)).g.splits.length == 4,
    (goesTo (pBench fourSplits) (actOf (pBench fourSplits) (formBra guarded)) (fun _ => 40)).length == 2,
    [formBra guarded, formCall guarded, formBrx guardedA, formCalli guardedA, formRet { guarded with disp := 0 }, formJmpt guardedA].all (meets fourAll),
    (issOf fourAll).g.splits.length == 4, !jumpParked fourAll (issOf fourAll), constWord fourAll (issOf fourAll) 0 == .bytes [1, 0, 0, 0] false,
    (actOf fourAll (formBra guarded)).lanes.all (fun i => (issOf fourAll).g.retStacks.getD i [] == [64] && readWord (issOf fourAll) 644 i == 0),
    [(fun _ => relTarget (issOf fourAll) guarded 0), (fun i => relTarget (issOf fourAll) guardedA (offsetOf (issOf fourAll) guardedA i)), (fun _ => 64), (fun _ => 0)].all (fun d =>
      (goesTo fourAll (actOf fourAll (formBra guarded)) d).length == 2)]
theorem test_witness_transfers : wTransfers.all id = true := by decide +kernel

/-- The split stands in its handler, at the TRAP word of R212. -/
def inTrap : State := with3 bench (fun k => { k with handler := some 512 }) id (fun sp => { sp with tcause := 0x311 })
def handlerBench : State := with3 bench (fun k => { k with handler := some 512 }) id id
def twoSplits : State := with3 bench id (fun g => { g with splits := g.splits ++ [{ freshSplit 0 0 [] with id := 1 }] }) id
def wExits : List Bool :=
  [meets (pBench bench) (formExit { fC 0 0 0 with g := 1 }), (issOf bench).sp.lanes &&& ~~~(actOf (pBench bench) (formExit { fC 0 0 0 with g := 1 })) != 0,
    meets twoSplits (formExit (fC 0 0 0)), (issOf twoSplits).sp.lanes &&& ~~~(actOf twoSplits (formExit (fC 0 0 0))) == 0, (issOf twoSplits).g.splits.length == 2,
    meets bench (formExit (fC 0 0 0)), (issOf bench).g.splits.length == 1, meets inTrap (formRte (fC 0 0 0)), (issOf inTrap).sp.inHandler,
    meets handlerBench (formTrap (fI 0 0 7 0)), !(issOf handlerBench).sp.inHandler, (issOf handlerBench).k.handler == some 512, meets bench (formTrap (fI 0 0 7 0)),
    (issOf bench).k.handler.isNone, meets inTrap (formTrap (fI 0 0 7 0)), (issuer bench).isSome, (issOf bench).sp.window.isNone]
theorem test_witness_exits_and_traps : wExits.all id = true := by decide +kernel

/-- What an option that is there holds meets a check. -/
def has {α : Type} (o : Option α) (f : α → Bool) : Bool :=
  match o with
  | some a => f a
  | none => false

/-- V0 VOID, PENDING; V2 PENDING. -/
def regBench (n : Nat) (st : RegState) : State := with3 bench id (fun g => g.setRegState n st) id
def iadd : FmtA := fA 2 0 1 0 0
def noLane : FmtA := { iadd with g := 1 }
def wChecks : List Bool :=
  [formNow bench (issOf bench) (.iadd iadd) == some (formIadd iadd), formNow bench (issOf bench) (.ld 0 w648) == some (formLd 0 w648), (formIadd { iadd with ep := 4 }).illop, !(formIadd (fA 2 0 16 0 0)).illop, (formIadd (fA 2 0 16 0 0)).illopd (issOf bench).k == some 2,
    !(formIadd noLane).illop, (formIadd noLane).illopd (issOf bench).k == none, srcEmpty (issOf bench).g (guardRegs 1) false == .ready,
    actMask (issOf bench) (formIadd noLane) == 0, !maskWrite (issOf bench) (formIadd noLane), actMask (issOf bench) (formIadd iadd) != 0,
    srcEmpty (issOf (regBench 680 .void)).g (guardRegs 1) false == .orphan 680, (formPref { w648 with d := 0, g := 1 }).hint && !(formPref { w648 with d := 0, g := 1 }).illop,
    formNow bench (issOf bench) (.pref { w648 with d := 0, g := 1 }) == some (formPref { w648 with d := 0, g := 1 }), (issuer (regBench 680 .void)).isSome,
    srcsEmpty (issOf (regBench 0 .void)).g ((formIadd { iadd with ep := 1 }).srcs (issOf bench).k) == .emptyRd 0,
    srcsEmpty (issOf (regBench 0 .void)).g ((formIadd iadd).srcs (issOf bench).k) == .orphan 0, srcsEmpty (issOf (regBench 2 .pending)).g ((formIadd iadd).srcs (issOf bench).k) == .ready,
    firstIn (issOf (regBench 2 .pending)).g ((formIadd iadd).dsts (issOf bench).k) .pending == some 2, (issuer (regBench 0 .void)).isSome, (issuer (regBench 2 .pending)).isSome]
theorem test_witness_issue_checks : wChecks.all id = true := by decide +kernel

/-- A kernel with one region; a split in its handler. -/
def regionBench : State := with3 bench (fun k => { k with regions := [[]] }) id id
def wSystem : List Bool :=
  [meets regionBench (formRgn (fI 0 0 0 0)), (issOf regionBench).k.regions[0]?.isSome, meets bench (formNop (fA 0 0 0 0 0)), meets bench (formWaitt (fA 0 644 0 0 0)),
    (issOf bench).sp.waitt.getD (readPair (issOf bench) 644 0) ≤ nowOf bench (issOf bench).g, meets bench (formWaittD (fA 0 644 0 0 1)),
    (issOf bench).sp.waitt.getD (nowOf bench (issOf bench).g + (readWord (issOf bench) 644 0).toNat) ≤ nowOf bench (issOf bench).g,
    meets bench (formYield (fA 0 0 0 0 0)), meets bench (formClkTb (fA 644 0 0 0 0)), meets bench (formClkCyc (fA 644 0 0 0 1)), meets bench (formSrd (fI 648 0 0x021 0)),
    meets bench (formSwr (fI 0 644 0x010 0)), meets bench (formSwr (fI 0 644 0x011 0)), meets bench (formSwr (fI 0 644 0x013 0)), meets inTrap (formSwr (fI 0 644 0x030 0)),
    meets inTrap (formSwr (fI 0 644 0x031 0)), meets bench (formSwr (fI 0 644 0x031 0)), !(issOf bench).sp.inHandler, (issOf inTrap).sp.inHandler]
theorem test_witness_system : wSystem.all id = true := by decide +kernel

/-- The image of the spec's worked definition: 112 bytes (R374). -/
def benchImage : List Byte :=
  toLE 4 0xCA960D0E ++ toLE 4 0x2D0 ++ toLE 4 0 ++ toLE 4 24 ++ toLE 4 0x58 ++ toLE 4 112 ++ List.replicate 40 0
    ++ toLE 8 0xCA01000000000000 ++ toLE 8 0x0080000010000000 ++ toLE 8 0xCA0F000000000000
    ++ toLE 8 0xCA01000000000000 ++ toLE 8 0x0081004000000000 ++ toLE 8 0xCA0F000000000000

/-- S8 to S15 describe a step of 4 × 4 × 16 FP16 from memory; S16 holds 1; S24 holds a length or a stride of 64; view TV0 is 8 × 8 FP32 over V4; S22 names address 4096. -/
def engBench : State :=
  scalars (scalars (scalars (with3 tileBench (fun k => { k with views := [4 + 8 * 2 ^ 10 + 8 * 2 ^ 20] }) id (fun sp => { sp with clause := [0, 0, 0, 0] }))
    8 [4 + 4 * 2 ^ 7 + 16 * 2 ^ 13 + 2 ^ 22 + 2 ^ 26, 32, 0, 32]) 22 [4096, 0, 64]) 16 [1]
def mmaW : FmtA := fA 768 660 662 648 0
def mstW : FmtA := fA 660 768 664 704 0xE0
def mstT : FmtA := fA 739 768 644 704 0xE1
def wMatrix : List Bool :=
  [meets engBench (formMma mmaW), stepOk engBench (issOf engBench) mmaW (stepDesc (issOf engBench) mmaW 0) 0, meets engBench (formMmas mmaW),
    stepOk engBench (issOf engBench) mmaW (stepDesc (issOf engBench) mmaW 1) 0, meets engBench (formMcommit (fA 0 0 0 0 0)), meets engBench (formMwait (fA 0 0 0 0 0)),
    (issOf engBench).g.mtx == 0, meets engBench (formMzero (fA 768 0 0 0 0)), (viewOf (viewWord (issOf engBench).k 768)).regs == [4],
    meets engBench (formMst mstW), ctlBad engBench (issOf engBench) 0 false == false, aligned 4 [addrVal (issOf engBench) 660, wordVal (issOf engBench) 664],
    rangeOk engBench (issOf engBench) (0, 7 * 64 + 8 * 4), srcEmpty (issOf engBench).g [4] false == .ready,
    engWait engBench (issOf engBench) { kind := .mstMem 0 64 0 8 8 [], reads := [], writes := [(0, 7 * 64 + 8 * 4)] } 0 == none,
    meets engBench (formMst mstT), tileWrites engBench (issOf engBench) 739, wordVal (issOf engBench) 644 == 0, tile3.fmt == modLo mstT.mod, decide (8 ≤ tile3.nrows), decide (8 ≤ tile3.elems)]
theorem test_witness_matrix : wMatrix.all id = true := by decide +kernel

/-- S8 to S11 describe 2 rows of 16 bytes, 64 apart. -/
def copyBench : State := scalars engBench 8 [16, 2, 64, 64]
def noRoom (s : State) (k : EngKind) (r w : List Range) : Bool := engWait s (issOf s) { kind := k, reads := r, writes := w } 0 == none
def wCopies : List Bool :=
  [meets engBench (formCpy (fA 660 662 664 704 0xE0)), aligned 16 [0, 4096, 64], rangesOk engBench (issOf engBench) [(0, 64), (4096, 64)],
    noRoom engBench (.cpy 0 4096 64) [(4096, 64)] [(0, 64)], addrVal (issOf engBench) 660 == 0, addrVal (issOf engBench) 662 == 4096, wordVal (issOf engBench) 664 == 64,
    wordVal (issOf engBench) 704 == 0, meets copyBench (formCpy2d (fA 660 662 648 704 0xE0)),
    [0, 1, 2, 3].map (descWord (issOf copyBench) 648) == [16, 2, 64, 64], rangesOk copyBench (issOf copyBench) [(0, 80), (4096, 80)],
    noRoom copyBench (.cpy2d 0 4096 16 2 64 64) [(4096, 80)] [(0, 80)], meets engBench (formTld (fA 739 660 664 704 0xE0)), tileWrites engBench (issOf engBench) 739,
    rangeOk engBench (issOf engBench) (0, 31 * 64 + 16), meets engBench (formTst (fA 660 739 664 704 0xE0)), tileReads engBench (issOf engBench) 739,
    noRoom engBench (.tst 0 3 64) [] [(0, 31 * 64 + 16)]]
theorem test_witness_copies : wCopies.all id = true := by decide +kernel

/-- S8 to S11 name 2 rows of 16 bytes, 16 apart, listed at 8192; S32 to S39 describe a CPYG of 16 bytes to address 0 with counter 1. -/
def gathBench : State := scalars (scalars engBench 8 [2, 16 + 2 ^ 13, 8192, 0]) 32 [0, 0, 0, 0, 16, 1, 0, 0]
/-- Slot 1 holds a loaded definition of 32 words with a combine clause; S8 to S11 name 2 rows of 128 bytes; S24 holds SLOT 1. -/
def scatBench : State :=
  let s := scalars (scalars engBench 8 [2, 128 + 8 * 2 ^ 13, 8192, 0]) 24 [256]
  { s with ctxs := s.ctxs.map (fun c => { c with slots := setAt c.slots 1 { state := .loaded, gen := 3, img := benchImage } }) }
def wGathers : List Bool :=
  [meets gathBench (formGath (fA 660 662 648 704 0xE0)), (rowList (issOf gathBench) 648).bad 16 == false, (rowList (issOf gathBench) 648).list == 8192,
    rangesOk gathBench (issOf gathBench) [(0, 32), (8192, 8)], noRoom gathBench (.gath 0 4096 2 16 16 8192) [(8192, 8)] [(0, 32)],
    meets scatBench (formScat (fA 660 662 648 664 0xE0)), ctlBad scatBench (issOf scatBench) 256 true == false, (rowList (issOf scatBench) 648).bad 128 == false,
    (rowList (issOf scatBench) 648).stride == 128,
    (let sl := slotOf scatBench 0 0 1; sl.state == .loaded && defCombine sl.img && defPfmt sl.img != 0 && defNscal sl.img == 0),
    rangesOk scatBench (issOf scatBench) [(4096, 2 * scatRow (slotOf scatBench 0 0 1).img 128), (8192, 8)],
    meets engBench (formRowpub (fA 660 662 664 704 0xE0)), isMh engBench (issOf engBench) 0, rangesOk engBench (issOf engBench) [(0, 64), (4096, 64)],
    meets engBench (formColl (fA 660 662 656 704 0xE0)), wordVal (issOf engBench) 656 == 1,
    decide (treeG (issOf engBench).k.levels ≤ levelOf (issOf engBench).k.levels 14), decide (levelOf (issOf engBench).k.levels 14 < treeL (issOf engBench).k.levels),
    meets gathBench (formCpyg (fA 644 672 0 704 0xE0)), (List.range 8).map (descWord (issOf gathBench) 672) == [0, 0, 0, 0, 16, 1, 0, 0],
    rangeOk gathBench (issOf gathBench) (0, 16), meets engBench (formRedgo (fA 644 660 0 704 0xE0)), rangeOk engBench (issOf engBench) (0, 256),
    !spanLocked engBench (issOf engBench) 0 256, meets engBench (formEwait (fA 0 0 0 0 0xE0)), (issOf engBench).g.eng == 0,
    meets (with3 engBench id (fun g => { g with eng := 1 }) id) (formEwait (fA 0 0 0 0 0xE0))]
theorem test_witness_gathers : wGathers.all id = true := by decide +kernel

/-- The state after an instruction of the issuing split; the same state where it gives none. -/
def after (i : Instr) (s : State) : State :=
  match exec i s with
  | .next t => t
  | _ => s

def baraDone : State := after (.bara (fS 0 0 0 14 0 0)) engBench
def aborted : State := after (.abort (fS 0 0 0 14 0 0)) baraDone
def lv14 : Nat := levelOf (issOf engBench).k.levels 14
/-- A node of two groups, of which only the bench's is placed; its BAR waits. -/
def twoGroups : List Level := [{ fan := 1, phys := 0, co := false }, { fan := 96, phys := 1, co := false }, { fan := 2, phys := 5, co := false }]
def baraWaits : State := with3 engBench (fun k => { k with levels := twoGroups }) id id
def barred : State := after (.bar (fS 0 0 0 14 0 0)) baraWaits
def arr (s : State) : State × List (Nat × Nat) := arrive (markDirty s (issOf s)) (issOf s) lv14
def wBarriers : List Bool :=
  [meets engBench (formBar (fS 0 0 0 14 0 0)), fenceReady engBench (issOf engBench) 14, (issOf engBench).sp.bar.isNone,
    nodeStatus (settleBarriers (setMarks (arr engBench).1 (issOf engBench) lv14 (arr engBench).2) (issOf engBench).g.inst) (issOf engBench).g.inst lv14 (arr engBench).2 == some 0,
    meets engBench (formBara (fS 0 0 0 14 0 0)), (issOf engBench).sp.mask.lanes.all (fun i => markOf (issOf engBench).g i lv14 == none),
    meets baraDone (formBarw (fS 0 0 0 14 0 0)), (issOf baraDone).sp.mask.lanes.all (fun i => markOf (issOf baraDone).g i lv14 != none),
    !(markedPhases (issOf baraDone) lv14).any (fun p => nodeAborted (settleBarriers (markDirty baraDone (issOf baraDone)) (issOf baraDone).g.inst) (issOf baraDone).g.inst lv14 p.1),
    (nodeStatus (settleBarriers (settleBarriers (markDirty baraDone (issOf baraDone)) (issOf baraDone).g.inst) (issOf baraDone).g.inst) (issOf baraDone).g.inst lv14
      (markedPhases (issOf baraDone) lv14)).isSome,
    meets aborted (formBarw (fS 0 0 0 14 0 0)), (issOf aborted).sp.mask.lanes.all (fun i => markOf (issOf aborted).g i lv14 != none),
    (markedPhases (issOf aborted) lv14).any (fun p => nodeAborted (settleBarriers (markDirty aborted (issOf aborted)) (issOf aborted).g.inst) (issOf aborted).g.inst lv14 p.1),
    meets baraWaits (formBar (fS 0 0 0 14 0 0)), (issOf baraWaits).sp.bar.isNone,
    nodeStatus (settleBarriers (arrivedAt baraWaits (issOf baraWaits) lv14).1 (issOf baraWaits).g.inst) (issOf baraWaits).g.inst lv14 (arrivedAt baraWaits (issOf baraWaits) lv14).2 == none,
    [formBar (fS 0 0 0 14 0 0), formBarw (fS 0 0 0 14 0 0)].all (fun f => meets barred f), (issOf barred).sp.bar == some (.node lv14 [(0, 0)] none 0 0 4),
    nodeStatus (settleBarriers barred (issOf barred).g.inst) (issOf barred).g.inst lv14 [(0, 0)] == none,
    meets engBench (formAbort (fS 0 0 0 14 0 0)), meets engBench (formAbchk (fS 644 0 0 14 0 0))]
theorem test_witness_barriers : wBarriers.all id = true := by decide +kernel

/-- Object 3 of level 1 is active and expects one arrival; then the arrival is made. -/
def objBench : State := after (.abinit (fS 0 656 0 1 3 0)) engBench
def objDone : State := after (.abarr (fS 644 0 0 0 3 1)) objBench
def wObjects : List Bool :=
  [meets engBench (formAbinit (fS 0 656 0 1 3 0)), decide (bindOf (issOf engBench).k.levels 1 ≤ 2), (readWord (issOf engBench) 656 0).toNat == 1, !(objOf engBench (issOf engBench) 3).active,
    meets objBench (formAbarr (fS 644 0 0 0 3 1)), ownsObj (issOf objBench).k (issOf objBench).g.rank (seenObj (issOf objBench) (objOf objBench (issOf objBench) 3)),
    fenceReady objBench (issOf objBench) (seenObj (issOf objBench) (objOf objBench (issOf objBench) 3)).level,
    meets objDone (formAbwait (fS 644 646 0 0 3 1)), (issOf objDone).sp.bar.isNone, ownsObj (issOf objDone).k (issOf objDone).g.rank (objOf objDone (issOf objDone) 3),
    (objStatus (setObj (markDirty objDone (issOf objDone)) (issOf objDone) 3 (seenObj (issOf objDone) (objOf (markDirty objDone (issOf objDone)) (issOf objDone) 3))) (issOf objDone) 3 false).isSome]
theorem test_witness_objects : wObjects.all id = true := by decide +kernel

/-- A core with one item; lane 0 not done. -/
def itemBench : State := { engBench with cores := engBench.cores.map (fun c => { c with items := [7] }) }
def wGroup : List Bool :=
  [meets itemBench (formLoophd (fS 4 0 0 1 0 0)), laneBits ((loopLanes (issOf itemBench) (levelOf (issOf itemBench).k.levels 1)).2.take (itemsOf itemBench (issOf itemBench)).length) != 0,
    meets engBench (formLoophd (fS 4 0 0 1 0 0)), itemsOf engBench (issOf engBench) == [], meets engBench (formIdone (fS 0 0 0 0 0 0)), meets engBench (formIput (fS 680 1 0 0 0 0)),
    meets engBench (formTreeid (treeVariesAt engBench (fS 647 0 0 14 0 2)) (fS 647 0 0 14 0 2))]
theorem test_witness_group : wGroup.all id = true := by decide +kernel

/-- Queue 5 exists with its arm word at 64; S17 holds 5. -/
def queueBench : State :=
  let s := scalars engBench 17 [5]
  { s with ctxs := s.ctxs.map (fun c => { c with queues := [{ num := 5, taken := true, exists_ := true, armw := 64 }] }) }
def wLaunches : List Bool :=
  [meets engBench (formLaunch (fA 644 645 646 680 0xE0)), descWord (issOf engBench) 680 5 == 0, launchOk engBench (issOf engBench) (launchArgs (issOf engBench) (fA 644 645 646 680 0xE0) false),
    fenceReady engBench (issOf engBench) 14, meets engBench (formLaunchi (fA 644 645 646 680 0xE0)),
    launchOk engBench (issOf engBench) (launchArgs (issOf engBench) (fA 644 645 646 680 0xE0) true), meets queueBench (formGarm (fA 645 657 0 0 0xE0)),
    wordVal (issOf queueBench) 657 == 5, armWordOf queueBench 0 0 5 == some 64, addrsOk queueBench (issOf queueBench) 4 false [(0, 64)], meets engBench (formGarm (fA 645 656 0 0 0xE0)),
    armWordOf engBench 0 0 (wordVal (issOf engBench) 656) == none, meets engBench (formPghint (fM 656 660 0 0 0)), srcEmpty (issOf engBench).g (pghintRegs (fM 656 660 0 0 0)) false == .ready,
    wordVal (issOf engBench) 656 == 1, meets engBench (formPghint (fM 656 660 0 0 2))]
theorem test_witness_launches_and_hints : wLaunches.all id = true := by decide +kernel

/-- Slot 1 in a state of its own; S16 holds its number. -/
def slotBench (st : SlotState) : State := { engBench with ctxs := engBench.ctxs.map (fun c => { c with slots := setAt c.slots 1 { state := st, gen := 3, img := benchImage } }) }
def ldW : FmtA := fA 644 660 664 656 0
/-- A compute-homed entry; slot 1 loaded. -/
def ropBench : State := { slotBench .loaded with ctxs := (slotBench .loaded).ctxs.map (fun c => { c with pt := [{ benchEntry with mh := false }] }) }
/-- S17 to S19 hold an NMBC's, NMZERO's and NMMAC's words; S20 names address 0. -/
def nmBench : State := scalars engBench 17 [256, 64, 1, 0]
def wRemote : List Bool :=
  [[SlotState.empty, .loading, .loaded, .dropping].all (fun st => meets (slotBench st) (formRopld ldW) && meets (slotBench st) (formRopdrop (fA 644 656 0 0 0))
      && (slotOf (slotBench st) 0 0 1).state == st), (routeOf engBench 0 0 0).isSome, wordVal (issOf engBench) 656 == 1,
    meets ropBench (formRop (fA 644 660 4 656 0x02)), ropSiteOk ropBench (issOf ropBench) 0 (slotOf ropBench 0 0 1).img, (issOf ropBench).g.rop == 0,
    meets ropBench (formRop (fA 644 660 4 656 0x2A)), fenceReady ropBench (issOf ropBench) 2,
    meets ropBench (formRopr (fA 8 660 4 656 0)), defRet (slotOf ropBench 0 0 1).img != 0, nmSiteOk nmBench (issOf nmBench) 0, addrVal (issOf nmBench) 660 == 0,
    meets nmBench (formNmmodeOn (fA 644 660 0 0 1)), meets nmBench (formNmmodeOff (fA 644 660 0 0 0)), meets nmBench (formNmbc (fA 644 660 1 657 0)), wordVal (issOf nmBench) 657 == 256,
    meets nmBench (formNmzero (fA 644 660 658 0 0)), wordVal (issOf nmBench) 658 == 64, meets nmBench (formNmmac (fA 644 660 659 660 0)), nmmacBad 1 0 0 == false,
    !spanLocked nmBench (issOf nmBench) 0 512, meets nmBench (formNmrd (fA 4 660 664 0 0)), wordVal (issOf nmBench) 664 == 64]
theorem test_witness_remote : wRemote.all id = true := by decide +kernel

/-- Words in memory from address 0 on; the bench's split stands at the clause header at offset 0. -/
def codeBench (ws : List Nat) : State :=
  with3 { memBench with mem := Memory.writeN [] 0 (ws.flatMap (toLE 8)) } (fun k => { k with codeLen := 8 * ws.length }) id (fun sp => { sp with clause := [] })
def code : List Nat := [0xCA00000000000000, 0x10D0942000008000, 0xCA00000000000000, 0x10D0942000008000, 0xCA0F000000000000]
def boundary : State := codeBench code
def counting : State := with3 (codeBench [0xCA00100000000000, 0x10D0942000008000, 0xCA0F000000000000]) id (fun g => { g with mtx := 1 }) id
def atNone (s : State) : Iss := { g := s.groups.headD (issOf bench).g, sp := ((s.groups.headD (issOf bench).g).splits.headD (issOf bench).sp), k := s.insts.headD (issOf bench).k }
def gid0 : Nat := (issOf bench).g.id
def twoAt (h : Nat) : State := with3 boundary id (fun g => { g with splits := g.splits ++ [{ freshSplit 0 h [] with id := 1 }] }) id
def heldIss : Iss := { atNone (twoAt 16) with sp := ((atNone (twoAt 16)).g.split? 1).getD (issOf bench).sp }
def wFetch : List Bool :=
  [boundary.group? gid0 == some (atNone boundary).g, boundary.inst? (atNone boundary).g.inst == some (atNone boundary).k, (atNone boundary).g.state == .active,
    (atNone boundary).g.atBoundary, !(atNone boundary).g.waitOver, (mergePair (atNone boundary).g).isNone,
    [boundary, counting, codeBench [0]].all (fun s => !mustLeave s (atNone s).g && !swapDue s (atNone s).g && !(atNone s).sp.fetchLost && !fetchDropped s (atNone s) ((atNone s).k.codeVa + (atNone s).sp.hdr) && !entryDue s (atNone s).g && !mergeStalls (atNone s).g (atNone s).sp && (mergePair (atNone s).g).isNone),
    nodeResident boundary (atNone boundary).g (atNone boundary).k, !holdsTurn boundary (atNone boundary).g (atNone boundary).k (atNone boundary).sp, !heldBack boundary (atNone boundary).g (atNone boundary).k (atNone boundary).sp,
    (match fetchClause boundary (atNone boundary) with | .ok h ws => (boundaryWait boundary (atNone boundary) h ws).isNone | _ => false),
    (mergePair (atNone (twoAt 0)).g).isSome,
    (match fetchClause counting (atNone counting) with
      | .ok h ws => boundaryWait counting (atNone counting) h ws == some .wctr && (startBoundaryWait counting (atNone counting) .wctr h.wctr ws).isSome
      | _ => false),
    (match fetchClause (codeBench [0]) (atNone (codeBench [0])) with | .trap _ _ => true | _ => false)]
theorem test_witness_clause_fetch : wFetch.all id = true := by decide +kernel

def asState (st : GroupState) (s : State) : State := with3 s id (fun g => { g with state := st }) id
/-- Beside the ACTIVE bench group, a RESIDENT ready one that has waited since tick 0. -/
def crowded (yld : Bool) : State :=
  let s := with3 boundary id (fun g => { g with activeSince := 1 }) (fun sp => { sp with yld := yld })
  { s with tick := 5000, pkgs := s.pkgs.map (fun p => { p with fields := p.fields.map (fun f => { f with cycles := 5000 }) }), groups := s.groups ++ [{ (atNone boundary).g with id := 77, rank := 0, state := .resident, readyCyc := 2048 }] }
def inWindow (conflict : Bool) : State :=
  with3 memBench id id (fun sp => { sp with window := some { target := 10, scope := 2, saved := checkpointOf (issOf memBench), lines := [], regd := [], kept := [], conflict := conflict, firstLoad := 0 } })
def standing (w : DWord) (t : Option Nat) : State := with3 memBench id id (fun sp => { sp with clause := [w], waitt := t })
def waited : State := with3 memBench id id (fun sp => { sp with wait := some { kind := .source, count := 2 ^ 26, boundary := false } })
def atHintBench : State := with3 waited id id (fun sp => { sp with clause := [putM 0xCB { w648 with d := 0 }] })
def wSched : List Bool :=
  [heldBack (twoAt 16) heldIss.g heldIss.k heldIss.sp, groupReady (asState .resident boundary) (atNone (asState .resident boundary)).g,
    decide (placesTaken (groupsOn (asState .resident boundary) (atNone boundary).g) < 8),
    !(groupsOn (asState .resident boundary) (atNone boundary).g).any (fun o => o.id != gid0), departs counting (atNone counting).g && !groupReady counting (atNone counting).g, (atNone counting).g.atBoundary,
    departs (crowded true) (atNone (crowded true)).g && (atNone (crowded true)).g.asksYield && readyWaits (crowded true) (atNone (crowded true)).g, (atNone (asState .parked boundary)).g.state == .parked,
    (groupsOn (crowded false) (atNone (crowded false)).g).any (fun o => o.state == .resident && decide (2048 ≤ o.readyCyc) && groupReady (crowded false) o),
    !(groupsOn (crowded false) (atNone (crowded false)).g).any (fun o => o.state == .active && o.atBoundary && decide (o.activeSince < 1)),
    [waited, atHintBench].all (fun s => waitLimit (issOf s).g.waitlim == some (2 ^ 26) && (issOf s).g.counting && (issOf s).sp.window.isNone && has ((issOf s).sp.wait) (fun v => !v.boundary && decide (2 ^ 26 ≤ v.count))),
    !(issOf waited).sp.atHint, (issOf atHintBench).sp.atHint,
    (standsAt (standing (putA 0x111 (fA 0 644 0 0 0)) (some 5)) gid0 0).map (·.2) == some (.waitt (fA 0 644 0 0 0)), meets (standing (putA 0x111 (fA 0 644 0 0 0)) (some 5)) (formWaitt (fA 0 644 0 0 0)),
    (standsAt (standing (putA 0x111 (fA 0 644 0 0 1)) (some 5)) gid0 0).map (·.2) == some (.waittD (fA 0 644 0 0 1)), meets (standing (putA 0x111 (fA 0 644 0 0 1)) (some 5)) (formWaittD (fA 0 644 0 0 1)),
    (standsAt (standing (putM 0xCC (fM 0 0 0 2 0)) none) gid0 0).map (·.2) == some (.fence (fM 0 0 0 2 0)), meets (standing (putM 0xCC (fM 0 0 0 2 0)) none) (formFence (fM 0 0 0 2 0)),
    fenceReady memBench (issOf memBench) 2, (issOf (inWindow false)).sp.window.isSome, decide (10 ≤ nowOf (inWindow false) (issOf (inWindow false)).g), earlierLoadsDone (inWindow false) gid0 0 0,
    (issOf (inWindow true)).sp.window.isSome]
theorem test_witness_active_set_and_waits : wSched.all id = true := by decide +kernel

/-! ## Witnesses: steps of the device -/

/-- A load outstanding; its page gone; its lanes performed. -/
def loading : State := after (.ld 0 w648) memBench
def unmapped (s : State) : State := { s with pages := [] }
def doneLanes (ls : List LaneAcc) : List LaneAcc := ls.map (fun a => { a with performed := true, data := [1, 2, 3, 4] })
def loaded : State := { loading with loads := loading.loads.map (fun l => { l with lanes := doneLanes l.lanes }) }
def constLoaded : State := let s := after (.ldc w648) constBench; { s with loads := s.loads.map (fun l => { l with lanes := doneLanes l.lanes }) }
/-- Lane 0's access has been ended by a DENY. -/
def denied : State := { loaded with loads := loaded.loads.map (fun l => { l with lanes := l.lanes.map (fun a => if a.lane = 0 then { a with performed := false, failed := true } else a) }) }
def isAt (t : Trans) : Bool := match t with | .at_ _ _ _ => true | _ => false
def isFault (t : Trans) : Bool := match t with | .fault _ _ _ => true | _ => false
def gives (t : Got) : Bool := match t with | .bytes _ _ => true | _ => false
/-- Lane 95's line in the L1 and in a guest copy. -/
def nearBench : State :=
  { loading with cores := loading.cores.map (fun c => { c with l1 := [{ line := 2, bytes := [], ver := 0 }] })
                 guests := [{ pkg := 0, ctx := 0, line := 2, bytes := [], expiry := 1000, ver := 0 }] }
def wLoadEvents : List Bool :=
  [has (loading.load? 3) (fun l => has (waitingLane l.lanes 95) (fun a => mayRead loading l a && isAt (translate loading l.pkg l.ctx a.va) && decide (a.va % 128 + l.width ≤ 128)
      && gives (readHome loading l.pkg l.ctx a.va l.width))),
    has ((unmapped loading).load? 3) (fun l => has (waitingLane l.lanes 0) (fun a => mayRead (unmapped loading) l a && isFault (translate (unmapped loading) l.pkg l.ctx a.va))),
    has (nearBench.load? 3) (fun l => has (waitingLane l.lanes 95) (fun a => mayServe nearBench l a && l.plain && has (nearBench.core? l.pkg l.core) (fun c => has (c.l1 ++ c.past)[0]? (fun sn => sn.line == lineOf a.va && a.ver.all (sn.ver ≤ ·)))
      && has nearBench.guests[0]? (fun gc => guestServes nearBench l a gc))),
    has (loaded.load? 3) (fun l => l.performed && lanesAnswered loaded l.pkg l.ctx l.lanes && !anyFailed l.lanes && (loaded.group? l.gid).isSome && l.use == .reg 10 0 false),
    has (constLoaded.load? 3) (fun l => l.performed && lanesAnswered constLoaded l.pkg l.ctx l.lanes && !anyFailed l.lanes && (constLoaded.group? l.gid).isSome && (match l.use with | .const 10 _ => true | _ => false)),
    has (denied.load? 3) (fun l => l.performed && lanesAnswered denied l.pkg l.ctx l.lanes && anyFailed l.lanes && !l.windowed && (denied.group? l.gid).isSome)]
theorem test_witness_load_events : wLoadEvents.all id = true := by decide +kernel

/-- A store and a reduction outstanding; a guest package beside a CH line's home. -/
def storing : State := after (.st 0 (fM 5 648 4 3 8)) memBench
def reducing : State := after (.red 0 (fM 6 648 0 0 0)) memBench
def stored : State := { storing with writes := storing.writes.map (fun w => { w with lanes := doneLanes w.lanes }) }
def linkTo (n : Nat) (p : Pkg) : Pkg := { p with routes := setAt p.routes n 1, ports := setAt p.ports 0 { state := .up } }
def guestBench : State :=
  { loading with pkgs := loading.pkgs.map (fun p => linkTo (1 - p.num) p)
                 ctxs := [{ benchCtx 0 0 with pt := [{ benchEntry with mh := false, home := 1 }], pcl := [0] }, { benchCtx 1 0 with pt := [{ benchEntry with mh := false, home := 1 }], pcl := [0] }]
                 pages := [{ benchPage with pkg := 1 }]
                 guests := [{ pkg := 0, ctx := 0, line := 9, bytes := [], expiry := 100, ver := 0 }] }
/-- An atomic and a GARM performed, with and without a lane that a DENY ended. -/
def ended (b : Bool) (s : State) : State :=
  { s with writes := s.writes.map (fun w => { w with lanes := (doneLanes w.lanes).map (fun a => if b then { a with performed := false, failed := true } else a) }) }
def fetching (b : Bool) : State := ended b (after (.atom 0 (fM 6 648 0 3 2)) memBench)
def garming (b : Bool) : State := ended b (after (.garm (fA 645 657 0 0 0xE0)) { queueBench with ctxs := queueBench.ctxs.map (fun c => { c with pt := [benchEntry], pcl := [0] }), pages := [benchPage] })
def wWriteEvents : List Bool :=
  [has (storing.write? 3) (fun w => w.atom == none && has (waitingLane w.lanes 95) (fun a => !writeHeld storing w a && !staleAt storing w.pkg w.ctx w.epoch a.va && isAt (translate storing w.pkg w.ctx a.va))),
    has ((unmapped storing).write? 3) (fun w => has (waitingLane w.lanes 0) (fun a => !writeHeld (unmapped storing) w a && !staleAt (unmapped storing) w.pkg w.ctx w.epoch a.va && isFault (translate (unmapped storing) w.pkg w.ctx a.va))),
    has (reducing.write? 3) (fun w => has (waitingLane w.lanes 0) (fun a => !writeHeld reducing w a && !staleAt reducing w.pkg w.ctx w.epoch a.va && w.atom.isSome && w.use == .none && isAt (translate reducing w.pkg w.ctx a.va)
      && gives (readHome reducing w.pkg w.ctx a.va 4))),
    has (stored.write? 3) (fun w => w.performed && w.holders == [0] && w.use == .none && (stored.group? w.gid).isSome),
    [false, true].all (fun b => [(fetching b, WriteUse.atomReg 6 false), (garming b, .garm 645)].all (fun p => has (p.1.write? 3) (fun w => w.id == 3 && w.use == p.2 && w.holders != [] && w.performed
      && lanesAnswered p.1 w.pkg w.ctx w.lanes && (p.1.group? w.gid).isSome && p.1.load? 3 == none && anyFailed w.lanes == b))),
    has (routeOf guestBench 0 0 0) (fun e => !e.mh && e.home == 1), (guestBench.ctx? 0 0).isSome, linkedNow guestBench 0 0 0, wantsGuest guestBench 0 0 0,
    guestBench.leaseHold == [], gives (readHome guestBench 0 0 0 128), guestBench.guests.any (fun o => o.line == 9 && decide (o.expiry ≤ homeNow guestBench 0 + 40)),
    (memBench.core? 0 0).isSome, has (memBench.core? 0 0) (fun c => (memBench.inst? c.inst).isSome), linkedNow memBench 0 0 0, gives (readHome memBench 0 0 0 128)]
theorem test_witness_write_and_copy_events : wWriteEvents.all id = true := by decide +kernel

/-- A committed step; its operand lines taken; transfers whose units have been written. -/
def committed : State := after (.mcommit (fA 0 0 0 0 0)) (after (.mma mmaW) engBench)
def stepping : State :=
  { committed with steps := committed.steps.map (fun st => { st with fetched := (stepLines st).map (fun l => { line := l, bytes := [] }) }) }
/-- The step reads tile T3, whose first element is poisoned. -/
def poisonStep : State :=
  { stepping with steps := stepping.steps.map (fun st => { st with a := .tile 3 0 0 0 false }), cores := stepping.cores.map (fun c => c.setBad (tileHalves tile3 0 0) true) }
def wrote (n : Nat) (s : State) : State := { s with engs := s.engs.map (fun e => { e with written := List.range n }) }
def copying : State := wrote 4 (after (.cpy (fA 660 662 664 704 0xE0)) engBench)
def collecting : State := wrote 4 (after (.coll (fA 660 662 656 704 0xE0)) engBench)
/-- A parameter block at 0: one source at 8192, 128 bytes to 4096, the flag word at 512. -/
def rdeBlock : List Byte := toLE 4 0x401 ++ toLE 4 128 ++ toLE 8 4096 ++ toLE 8 512 ++ toLE 4 7 ++ toLE 4 0 ++ toLE 8 8192
def reducing2 : State := after (.redgo (fA 644 660 0 704 0xE0)) { engBench with mem := Memory.writeN [] 0 rdeBlock }
def redgoRun : State := wrote 8 (after (.redgoExecute 3) reducing2)
def cpyging : State := after (.cpyg (fA 644 672 0 704 0xE0)) gathBench
def linksBench : State := { bench with pkgs := bench.pkgs.map (fun p => { p with bdLinks := List.replicate 11 .up }) }
def wEngEvents : List Bool :=
  [[(stepping, false), (poisonStep, true)].all (fun p => has (p.1.step? 3) (fun st => st.id == 3 && st.seq != 0 && st.ready && !p.1.steps.any (fun o => stepBefore o st)
      && has (p.1.core? st.pkg st.core) (fun c => stepPoisoned c st ((fmtClass st.afmt).getD 0) == p.2) && has (p.1.group? st.gid) (fun g => (p.1.inst? g.inst).isSome))),
    has (copying.eng? 3) (fun e => (match e.kind with | .coll _ _ _ _ _ _ _ => false | _ => true) && engWorkDone copying e && engTimeReached copying e),
    has (collecting.eng? 3) (fun e => (match e.kind with
      | .coll _ _ _ lv _ _ _ => (collMembers collecting e).length == collP collecting e lv
          && (collMembers collecting e).all (fun m => writesDone collecting m && engTimeReached collecting m)
      | _ => false))]
theorem test_witness_engine_events : wEngEvents.all id = true := by decide +kernel

/-- A copy and a row publication at issue, and with their first unit read; the publication's page MIGRATING. -/
def copyIssued : State := after (.cpy (fA 660 662 664 704 0xE0)) engBench
def copyRead : State := after (.loadPerform (.engUnit 3 0) .home .none) copyIssued
def publishHeld : State :=
  let s := (List.range 4).foldl (fun s u => after (.loadPerform (.engUnit 3 u) .home .none) s) (after (.rowpub (fA 660 662 664 704 0xE0)) engBench)
  { s with pages := s.pages.map (fun p => { p with state := .migrating }) }
def defIssued : State := after (.ropld ldW) (slotBench .empty)
def homeOk (s : State) (h : HomeGot) : Bool := match h with | .ok t _ _ => t == s | _ => false
def homeFault (h : HomeGot) : Bool := match h with | .fault _ _ _ => true | _ => false
/-- A unit of an engine operation that is written next. -/
def unitNext (s : State) (f : Eng → Nat × Nat → Bool) : Bool :=
  has (s.eng? 3) (fun e => e.id == 3 && has (unitOf (writeRow s e) 0) (fun r => engUnitWrites s e 0 r.2 && (writeBytes s e 0 0 r.2 r.1).isSome && f e r.2))
def wUnits : List Bool :=
  [[(committed, false), (unmapped committed, true)].all (fun p => has (p.1.step? 3) (fun st => st.id == 3 && stepLineReads p.1 st 0
      && (let h := homeRead p.1 st.pkg st.ctx (vaFull 0) 128 5 (recGid p.1 st.gid) .none; if p.2 then homeFault h else homeOk p.1 h))),
    [(copyIssued, false), (unmapped copyIssued, true)].all (fun p => has (p.1.eng? 3) (fun e => e.id == 3 && has (unitOf (readRow p.1 e) 0) (fun r => engUnitReads p.1 e 0 r.2
      && (let h := homeRead p.1 e.pkg e.ctx r.2.1 r.2.2 (engRecKind e) (recGid p.1 e.gid) .none; if p.2 then homeFault h else homeOk p.1 h)))),
    [(defIssued, false), (unmapped defIssued, true)].all (fun p => has (p.1.defOp? 3) (fun o => o.id == 3 && has (defUnit o 0) (fun q => defUnitReads p.1 o 0 q
      && (let h := homeRead p.1 o.pkg o.ctx q.1 q.2 0 (recGid p.1 o.gid) .none; if p.2 then homeFault h else homeOk p.1 h)))),
    unitNext copyRead (fun e q => isAt (translate copyRead e.pkg e.ctx q.1) && !engWaits copyRead e q false),
    unitNext (unmapped copyRead) (fun e q => isFault (translate (unmapped copyRead) e.pkg e.ctx q.1)),
    unitNext publishHeld (fun e q => isAt (translate publishHeld e.pkg e.ctx q.1) && engWaits publishHeld e q false && (holdCuu publishHeld (.eng 3)).isSome)]
theorem test_witness_units : wUnits.all id = true := by decide +kernel

def wEngRequests : List Bool :=
  [has (reducing2.eng? 3) (fun e => !e.tail && e.parked == [] && (match e.kind with | .redgo _ _ => true | _ => false)),
    has (readRowsFrom reducing2 3 1) (fun u => has (readRowsFrom u 3 17) (fun v => has (v.eng? 3) (fun e => e.parked == []))),
    has (redgoRun.eng? 3) (fun e => (match e.kind with
      | .redgo b _ => has (rdeGood redgoRun e b) (fun b => b.flagen && !engBehind redgoRun e (b.flag, 4) && !lineHeld redgoRun e.pkg e.ctx b.flag && !migrating redgoRun e.pkg e.ctx b.flag && !releasePending redgoRun e
        && linked redgoRun e.pkg e.ctx b.flag && !staleAt redgoRun e.pkg e.ctx e.epoch b.flag && isAt (translate redgoRun e.pkg e.ctx b.flag))
      | _ => false) && e.writing && writesDone redgoRun e && engTimeReached redgoRun e && e.parked == []),
    has (cpyging.eng? 3) (fun e => (match e.kind with
      | .cpyg _ dst len _ _ => spanFault cpyging e.pkg e.ctx dst len == none
      | _ => false) && !e.tail && e.parked == [] && !acqPending cpyging e.gid e.holders 3 && (cpyging.ctx? e.pkg e.ctx).isSome && (cpyging.pkg? e.pkg).isSome),
    cpyging.engs.length == 1, has (linksBench.pkg? 0) (fun p => p.bdLinks[10]? == some .up)]
theorem test_witness_engine_requests : wEngRequests.all id = true := by decide +kernel

/-- A request on its way; its context changed; two requests; one acknowledged. -/
def roping : State := after (.rop (fA 644 660 4 656 0x02)) ropBench
def inCtx (f : Ctx → Ctx) (s : State) : State := { s with ctxs := s.ctxs.map f }
def ropTwice : State := after (.rop (fA 645 660 4 656 0x02)) roping
def ropAcked : State := { roping with rops := roping.rops.map (fun r => { r with phase := .acked }) }
def away (n : Nat) : State := inCtx (fun c => { c with state := .descheduled, wrlog2 := 0, wings := List.replicate n 9 }) roping
def ropMigrating : State := { roping with pages := roping.pages.map (fun p => { p with state := .migrating }) }
def ready3 (s : State) : Bool := has (s.rop? 3) (fun r => r.coming && !ropBehind s r && ropReaches s r (ropHome s r) && (r.phase != .sent || !ropSentAfter s r))
def wRemoteEvents : List Bool :=
  [ready3 { roping with ctxs := [] }, ({ roping with ctxs := [] } : State).ctx? 0 0 == none, ready3 roping,
    has (roping.rop? 3) (fun r => !ropHeld roping r && !cuuAhead roping (.rop 3) r.run && has (roping.ctx? 0 0) (fun c => c.epoch == r.epoch && c.state == .running)),
    ready3 ropMigrating && has (ropMigrating.rop? 3) (fun r => ropHeld ropMigrating r && r.phase != .held),
    ready3 (inCtx (fun c => { c with epoch := 9 }) roping), ready3 (inCtx (fun c => { c with state := .created }) roping), ready3 (inCtx (fun c => { c with state := .faulted }) roping),
    has (ropTwice.rop? 3) (fun r => (combineImage ropTwice r).isSome && has (ropTwice.rop? 4) (fun b => mayCombine ropTwice r b)),
    has (ropAcked.rop? 3) (fun r => r.phase == .acked && r.issuers.all (fun i => routeUp ropAcked r.home i.pkg)),
    [0, 1].all (fun n => has ((away n).rop? 3) (fun r => r.coming && !wingsBehind (away n) r && (r.phase != .sent || !ropSentAfter (away n) r) && ropReaches (away n) r (ropHome (away n) r)
      && has ((away n).ctx? 0 0) (fun c => c.epoch == r.epoch && c.wings.length == n && 2 ^ c.wrlog2 == 1)))]
theorem test_witness_remote_events : wRemoteEvents.all id = true := by decide +kernel

/-- Commands at a channel without a session, in the owner's and in another's; a ROPLD whose image has been read, and a ROPDROP. -/
def nmOn : State := after (.nmmodeOn (fA 644 660 0 0 1)) nmBench
def nmBc : State := after (.nmbc (fA 644 660 1 657 0)) nmBench
def session (gid start : Nat) : NmSession :=
  { pkg := 0, pch := 0, ctx := 0, epoch := 0, gid := gid, gidWord := 0, bf16 := false, start := start, bb := List.replicate 256 0, acc := List.replicate 16 zeroBank }
def inSession (gid : Nat) (s : State) : State := { s with sessions := [session gid 0] }
def defLoading : State := let s := after (.ropld ldW) (slotBench .empty); { s with defOps := s.defOps.map (fun o => { o with units := (List.range 7).map (fun j => (j, [])) }) }
def defDropping : State := after (.ropdrop (fA 644 656 0 0 0)) (slotBench .loaded)
def free3 (s : State) : Bool := has (s.nm? 3) (fun n => !nmBehind s n && (liveSession s n.pkg n.pch).isNone)
def held3 (g : Nat) (s : State) : Bool := has (s.nm? 3) (fun n => !nmBehind s n && has (liveSession s n.pkg n.pch) (fun ns => ns.gid == g && (n.gid == g) == (g == 2) && (ns.ctx, ns.epoch) == (n.ctx, n.epoch)))
def isOn (s : State) : Bool := has (s.nm? 3) (fun n => match n.kind with | .on _ => true | _ => false)
def wNearEvents : List Bool :=
  [free3 nmOn, isOn nmOn, free3 nmBc, !isOn nmBc, held3 2 (inSession 2 nmBc), has ((inSession 2 nmBc).nm? 3) (fun n => (runNm (inSession 2 nmBc) n (session 2 0)).isSome),
    held3 9 (inSession 9 nmBc), held3 9 (inSession 9 nmOn), has (({ inSession 9 nmOn with tick := 2 ^ 20 } : State).session? 0 0) (fun n => decide (n.start + 2 ^ 20 ≤ homeNow { inSession 9 nmOn with tick := 2 ^ 20 } 0)),
    has (defLoading.defOp? 3) (fun o => o.load && o.lead && o.code == none && (loadedImage o).isSome), has (defDropping.defOp? 3) (fun o => !o.load && o.code == none && !slotHeld defDropping 0 0 o.slot)]
theorem test_witness_near_memory_and_definition_events : wNearEvents.all id = true := by decide +kernel

/-- Fields powered; the bench's instance before its group, which is placed, retires, is saved and returns. -/
def powered (s : State) : State := { s with pkgs := s.pkgs.map (fun p => { p with fields := p.fields.map (fun f => { f with state := .on }) }) }
def placing : State := { powered (with3 memBench (fun k => { k with state := .placing, placed := [] }) id id) with groups := [], cores := [] }
def iid0 : Nat := (issOf bench).k.id
def retiring : State := with3 memBench (fun k => { k with state := .placing, placed := [] }) (fun g => { g with splits := [] }) id
def kidWaiting : State := with3 memBench id (fun g => { g with state := .kidwait, splits := [], kids := 1, saving := true }) id
def stoppingBench (saving : Bool) : State :=
  let s := with3 memBench id (fun g => { g with saving := saving }) id
  { s with pkgs := s.pkgs.map (fun p => { p with ctxCmd := some { op := 5, ctx := 0 } }), ctxs := s.ctxs.map (fun c => { c with grsize := 2 ^ 20, grbase := 2 ^ 20 }) }
def savedBench : State := powered (with3 memBench id (fun g => { g with state := .saved, record := some { off := 0, len := 0, stamp := 0 } }) id)
/-- The one group of a state. -/
def theGroup (s : State) : Group := s.groups.headD (issOf bench).g
def wGroupEvents : List Bool :=
  [has (placing.inst? iid0) (fun k => mayPlace placing k 0 0 671), has (placing.pkg? 0) (fun p => freeSlotOf placing p 671 == some 0),
    has (retiring.group? gid0) (fun g => g.splits == [] && g.kids == 0 && groupQuiet retiring g.id && g.state == .active && has (retiring.inst? g.inst) (fun k =>
      ((leaveCore (groupGone retiring g k) k g.pkg g.core).state).isSome)),
    has ((stoppingBench false).group? gid0) (fun g => has ((stoppingBench false).inst? g.inst) (fun k => (saveUnit (stoppingBench false) k g).any (fun o => !o.saving)
      && (let u := { stoppingBench false with steps := stepping.steps }; let v := beginSave u g; saveUnit u k g == [g] && !(currentGroups v [g]).all (saveReady v)))),
    [stoppingBench true, kidWaiting].all (fun s => has (s.group? gid0) (fun g => has (s.inst? g.inst) (fun k => saveUnit s k g == [g] && g.saving && (currentGroups s [g]).all (saveReady s)))),
    (match saveAll (currentGroups (stoppingBench true) [theGroup (stoppingBench true)]) (stoppingBench true) with | .ok _ => true | _ => false),
    has (savedBench.group? gid0) (fun g => has (savedBench.inst? g.inst) (fun k => has (savedBench.ctx? 0 0) (fun c => has (savedBench.pkg? 0) (fun p => g.state == .saved
      && ctxRuns savedBench 0 0 && mayHold savedBench k c 0 0 && insideNodes savedBench k g.rank 0 0 false && badRecord savedBench g 0 == none && freeSlotOf savedBench p 0 == some 0
      && has (targetCore (debitCore savedBench k 0 0) k g 0) (fun u => has (u.core? 0 0) rltFits && (u.group? g.id).isSome
        && (restoreRest (restoreUnit savedBench k g) (enterCore u g p 0 0)).isSome)))))]
theorem test_witness_group_events : wGroupEvents.all id = true := by decide +kernel

/-- A tree with a co-resident node on a core; another launch of such a tree waits to be placed. -/
def coreTree : List Level :=
  [{ fan := 1, phys := 0, co := false }, { fan := 96, phys := 1, co := false }, { fan := 1, phys := 2, co := true }, { fan := 1, phys := 5, co := false }]
def movable (saving : Bool) (steps : List Step) : State :=
  let s := powered (with3 memBench (fun k => { k with levels := coreTree })
    (fun g => { g with saving := saving, moving := saving }) id)
  { s with steps := steps, insts := s.insts ++ [{ benchInst 99 0 0 with levels := coreTree, state := .placing, placed := [] }] }
def aStep : Step :=
  { id := 0, gid := gid0, holders := [], ctx := 0, pkg := 0, core := 0, view := 0, m := 0, n := 0, k := 0, afmt := 0, bfmt := 0, a := .mem 0 0 false, b := .mem 0 0 false
    zero := false, sparse := 0, metaVa := 0, bitmap := 0, seq := 0, fetched := [], parked := [] }
def moves (s : State) : Bool :=
  has (s.inst? iid0) (fun k => (s.groups.filter (fun g => g.inst == iid0 && g.rank / groupSize k.levels 2 == 0 && g.state != .saved)) == [theGroup s]
    && decide (2 < treeL k.levels) && bindOf k.levels 2 == 2 && fieldOf 1 == fieldOf (theGroup s).core && !heldByOther s iid0 0 1 && nodeAwaits s 0 (theGroup s).core [theGroup s] && ctxRuns s 0 0)
/-- The target core can take the node. -/
def movesTo (s : State) : Bool := has (s.inst? iid0) (fun k => (moveTo s k 2 0 0 0 1 [theGroup s]).isSome)
/-- An item is queued on the node's core: it cannot move now. -/
def fullCore (s : State) : State := { s with cores := s.cores.map (fun c => { c with items := [7] }) }
def loadedLaunch : State :=
  with3 memBench (fun k => { k with state := .loaded, countmax := 4, tree := [3, 96 + 2 ^ 16, 5 * 2 ^ 16] }) id id
def finishing (cw : Nat) : State := with3 memBench (fun k => { k with state := .retiring, cwaddr := cw }) id id
def wInstEvents : List Bool :=
  [moves (movable false [aStep]), [movable false [aStep], movable true []].all movesTo,
    has ((fullCore (movable true [])).inst? iid0) (fun _ => moves (fullCore (movable true [])) && !movesTo (fullCore (movable true [])) && (theGroup (fullCore (movable true []))).moving), (let u := beginMove (movable false [aStep]) (theGroup (movable false [aStep])); !(currentGroups u [theGroup u]).all (saveReady u)), moves (movable true []),
    has ((movable true []).inst? iid0) (fun k => (currentGroups (movable true []) [theGroup (movable true [])]).all (saveReady (movable true []))
      && (moveNow (movable true []) k 2 0 0 0 1 (currentGroups (movable true []) [theGroup (movable true [])])).isSome),
    (match verifyFrom iid0 0 4 loadedLaunch with | .done t => has (t.inst? iid0) (fun k => k.state == .placing) | _ => false),
    [0, 64].all (fun a => has ((finishing a).inst? iid0) (fun k => k.state == .retiring && k.cwaddr == a && decide (k.maxCt + skewOf (completionBind (finishing a) k) ≤ homeNow (finishing a) k.pkg)
      && (a == 0 || ((match meetPages (finishing a) (.completion k.id) 0 0 11 (launchGid (finishing a) k) 64 4 with | .go => true | _ => false) && !lineHeld (finishing a) 0 0 64
        && (routeOf (finishing a) 0 0 64).isSome))))]
theorem test_witness_instance_events : wInstEvents.all id = true := by decide +kernel

/-- Queue 5 of a context whose queue table lies at 0, in a state of the caller's; its entry in memory. -/
def qBench (f : Queue → Queue) (entry : List Byte) : State :=
  let s := memBench
  { s with mem := Memory.writeN [] 320 entry, ctxs := s.ctxs.map (fun c => { c with queues := [f { num := 5, armw := 64 }] }) }
def isGo (m : Meet) : Bool := match m with | .go => true | _ => false
/-- An entry: VALID, PRIO 3, FIELD 2; its graph at 1024, its arm word at 128. -/
def goodEntry : List Byte := toLE 8 (1 + 2 * 3 + 8 * 2) ++ toLE 8 1024 ++ toLE 8 128
def taking (entry : List Byte) : State := qBench id entry
def theEntry (s : State) : QEntry := qEntry (readUnits16 s 0 0 320 64).1
def armedQ (q : Queue) : Queue := { q with taken := true, exists_ := true, state := .armed, graph := 1024, effprio := 1 }
def wQueueEvents : List Bool :=
  [[[], goodEntry, toLE 8 0xFF].all (fun b => has (queue? (taking b) 0 0 5) (fun o => o.toTake) && ctxRuns (taking b) 0 0 && entryVa (taking b) 0 0 5 == 320
      && isGo (meetPages (taking b) (.take 5) 0 0 kindGraph noGid 320 64) && (readUnits16 (taking b) 0 0 320 64).2 == false),
    !(theEntry (taking [])).valid, (theEntry (taking goodEntry)).valid && !entryBad (taking goodEntry) 0 0 (theEntry (taking goodEntry)),
    isGo (meetPages (taking goodEntry) (.take 5) 0 0 kindGraph noGid 128 4) && (readUnits16 (taking goodEntry) 0 0 128 4).2 == false,
    (theEntry (taking (toLE 8 0xFF))).valid && entryBad (taking (toLE 8 0xFF)) 0 0 (theEntry (taking (toLE 8 0xFF))),
    (let s := qBench (fun q => { armedQ q with armval := 7 }) []
     has (queue? s 0 0 5) (fun o => o.taken && o.exists_ && o.wait == none && watchedWord s 0 0 (entryVa s 0 0 5 + 0x20) == some o.gen && watchedWord s 0 0 o.armw == some 0 && o.armval != 0)),
    (let s := qBench armedQ []; has (queue? s 0 0 5) (fun o => candidate s 0 0 o) && (queuesOf s 0).length == 1),
    (let s := qBench armedQ []; has (queue? s 0 0 5) (fun o => ctxRuns s 0 0 && o.exists_ && decide (agedPrio s 0 0 o < o.effprio)))]
theorem test_witness_queue_events : wQueueEvents.all id = true := by decide +kernel

/-- A queue whose prompter stands at a node. -/
def atNode (n : List Byte) (f : Queue → Queue) : State := qBench (fun q => f { armedQ q with state := .running, atNode := true, node := n }) []
def nodeBytes (w0 next a b c : Nat) : List Byte := toLE 8 w0 ++ toLE 8 next ++ toLE 8 a ++ toLE 8 b ++ toLE 8 c
def walked (s : State) (f : Queue → Node → Bool) : Bool := has (walking s 0 0 5) (fun p => f p.1 p.2)
def rootScope (k : Nat) : Nat := k + 15 * 2 ^ 8
def withAsync (q : Queue) : Queue := { q with asyncs := [iid0] }
def cueNode (k : Nat) : List Byte := nodeBytes (rootScope k) 64 512 0 (if k = 6 ∨ k = 5 then 128 else 0)
def wNodes : List Bool :=
  [(let s := atNode (nodeBytes (rootScope 1) 64 128 1 0) id; walked s (fun e n => !n.bad && n.kind == 1 && !Machine.noRoom s e n && n.e == 0)),
    [0, 16].all (fun k => let s := atNode (nodeBytes (rootScope 2) 64 4096 8192 k) id
      walked s (fun e n => !n.bad && n.kind == 2 && !Machine.noRoom s e n && inOneRange s 0 0 n.a n.c && inOneRange s 0 0 n.b n.c && n.c == k)),
    (let s := atNode (nodeBytes (rootScope 7) 64 0 0 0) id; walked s (fun e n => !n.bad && n.kind == 7 && asyncsOver s 0 e)),
    (let s := atNode (nodeBytes (rootScope 7) 64 0 0 0) withAsync; walked s (fun e n => !n.bad && n.kind == 7 && !asyncsOver s 0 e)),
    (let s := atNode (nodeBytes (rootScope 0) 0 0 0 0) withAsync; walked s (fun e n => !n.bad && n.kind == 0 && !asyncsOver s 0 e)),
    [0, 512].all (fun d => let s := atNode (nodeBytes (rootScope 0) 0 0 0 0) (fun q => { q with done := d, doneNow := true }); walked s (fun e n => !n.bad && n.kind == 0 && asyncsOver s 0 e && e.doneNow
      && e.done == d && isGo (meetPages s (.done 5) 0 0 kindGraph noGid 512 4) && !lineHeld s 0 0 512)),
    (List.range 9).all (fun k => let s := atNode (nodeBytes (rootScope k) 65 0 0 0) id; walked s (fun _ n => n.bad && n.kind == k)),
    [3, 4, 5, 6].all (fun k => let s := atNode (cueNode k) id; walked s (fun _ n => !n.bad && n.kind == k && isGo (meetPages s (.node 5) 0 0 kindGraph noGid n.a 4)
      && (readUnits16 s 0 0 n.a 4).2 == false && !lineHeld s 0 0 n.a))]
theorem test_witness_prompter_nodes : wNodes.all id = true := by decide +kernel

/-- The module after bring-up; a command for context 0 of package 0. -/
def onPkg (f : Pkg → Pkg) (s : State) : State := { s with pkgs := s.pkgs.map f }
def mgmt (s : State) : State := onPkg (fun p => { p with stage := 5 }) (powered s)
def asCtx (st : CtxState) (s : State) : State := inCtx (fun c => { c with state := st, grsize := 2 ^ 20 }) s
/-- A CCB on pseudo-channel 1 with its placement table of one entry behind it. -/
def ccbAt : Nat := 2 ^ 30
def ccbBytes : List Byte := toLE 8 (ccbAt + 8192) ++ toLE 8 (ccbAt + 16384) ++ List.replicate 16 0 ++ toLE 8 0 ++ toLE 8 4096 ++ toLE 8 0 ++ toLE 8 10
def ccbBench : State :=
  onPkg (fun p => { p with ctxArg := ccbAt }) (mgmt { State.reset with mem := Memory.writeN (Memory.writeN [] ccbAt ccbBytes) (ccbAt + 8192) (toLE 8 123) })
def created : State := after .create ccbBench
def takes (s : State) : Bool := s.focus == (0, 0) && has (s.pkg? 0) takesCmd
def mineCtx (s : State) (st : CtxState) : Bool := has (s.ctx? 0 0) (fun c => c.pkg == 0 && c.num == 0 && c.state == st)
def wCreate : List Bool :=
  [takes ccbBench, ccbBench.ctx? 0 0 == none, rangeInHostPool ccbBench 0 ccbAt 4096, !ccbBad ccbBench 0 (readPool ccbBench 0 ccbAt 4096)]
theorem test_witness_create : wCreate.all id = true := by decide +kernel

/-- A context CREATED over a placement table of one entry, whose first byte is the only one that is not 0. -/
def measurable : State :=
  mgmt { State.reset with
    mem := [(ccbAt + 8192, 123)], ctxs := [{ benchCtx 0 0 with state := .created, ptaddr := ccbAt + 8192, pcladdr := ccbAt + 16384, grsize := 4096 }] }

theorem measurable_pool (a n : Nat) :
    readPool measurable 0 a n = (List.range n).map (fun i => if a + i = ccbAt + 8192 then 123 else 0) := by
  have h : ∀ x, readPhys measurable deviceKey 0 x 1 = [if x = ccbAt + 8192 then (123 : Byte) else 0] := by
    intro x
    simp [readPhys, sealOf, measurable, mgmt, onPkg, powered, State.reset, Memory.readN, Memory.read, Memory.unlisted, eq_comm]
  simp [readPool, h]
  rw [← List.map_eq_flatMap]

theorem oneByte (a n : Nat) : (List.range (n + 1)).map (fun i => if a + i = a then (123 : Byte) else 0) = 123 :: List.replicate n 0 := by
  apply List.ext_getElem
  · simp
  · intro i h1 h2
    cases i <;> simp

theorem noByte (a b n : Nat) (h : b < a) : (List.range n).map (fun i => if a + i = b then (123 : Byte) else 0) = List.replicate n 0 := by
  rw [List.eq_replicate_iff]
  refine ⟨by simp, ?_⟩
  intro x hx
  obtain ⟨i, -, e⟩ := List.mem_map.mp hx
  rw [if_neg (by omega)] at e
  exact e.symm

theorem measurable_table : tableBytes measurable 0 (ccbAt + 8192) = 123 :: List.replicate 8191 0 := by
  rw [tableBytes, measurable_pool]; exact oneByte _ 8191

theorem measurable_list : listBytes measurable 0 (ccbAt + 16384) = List.replicate 2048 0 := by
  rw [listBytes, measurable_pool]; exact noByte _ _ _ (by omega)

theorem placeTable_one (m : Nat) (h : m = 8191) : placeTable (123 :: List.replicate m 0)
    = ptEntry (123 :: List.replicate (min 15 m) 0) :: List.replicate (m / 16) (ptEntry (List.replicate (min 16 m) 0)) := by
  apply List.ext_getElem
  · simp only [placeTable, List.length_map, List.length_range, List.length_cons, List.length_replicate]; omega
  · intro i h1 h2
    cases i with
    | zero => simp [placeTable, List.take_replicate]
    | succ n =>
      have hn : n < 511 := by simp only [placeTable, List.length_map, List.length_range] at h1; omega
      simp only [placeTable, List.getElem_map, List.getElem_range, List.getElem_cons_succ, List.getElem_replicate]
      rw [show 16 * (n + 1) = (16 * n + 15) + 1 by omega, List.drop_succ_cons, List.drop_replicate, List.take_replicate]
      congr 2; omega

theorem pchList_zero (m : Nat) (h : m = 2048) : pchList (List.replicate m 0) = List.replicate (m / 2) 0 := by
  rw [pchList, List.eq_replicate_iff]
  refine ⟨by simp only [List.length_map, List.length_range]; omega, ?_⟩
  intro x hx
  obtain ⟨i, hi, e⟩ := List.mem_map.mp hx
  have hi := List.mem_range.mp hi
  rw [leAt, List.drop_replicate, List.take_replicate, show min 2 (m - 2 * i) = 2 by omega] at e
  exact e.symm

def wMeasure : List Bool :=
  [takes measurable, mineCtx measurable .created, has (measurable.ctx? 0 0) (fun c => decide (c.keypol < 8) && c.span == [0] && c.ptaddr == ccbAt + 8192 && c.pcladdr == ccbAt + 16384),
    (let pt := ptEntry (123 :: List.replicate 15 0) :: List.replicate 511 (ptEntry (List.replicate 16 0)); let pcl := List.replicate 1024 0
     !tablesBad pt pcl [0] && has (measurable.ctx? 0 0) (fun c => (ownRanges c).all (fun r => routesWhole { c with pt := pt, pcl := pcl } r.1 r.2)))]
theorem test_witness_measure : wMeasure.all id = true := by decide +kernel

def allGone : State := { asCtx .running (mgmt memBench) with groups := [] }
def wCommands : List Bool :=
  [[CtxState.keyed, .descheduled].all (fun st => let s := asCtx st (mgmt memBench)
      takes s && mineCtx s st && decide (residentCount s 0 < 256) && has (s.ctx? 0 0) (fun c => decide (largestSave s 0 0 ≤ c.grsize) && c.wings == [] && c.kept == none)),
    (let s := asCtx .resident (mgmt memBench); takes s && mineCtx s .resident && has (s.ctx? 0 0) (fun c => decide (largestSave s 0 0 ≤ c.grsize))),
    takes (mgmt memBench) && mineCtx (mgmt memBench) .running, takes (asCtx .faulted (mgmt memBench)) && mineCtx (asCtx .faulted (mgmt memBench)) .faulted,
    takes allGone && mineCtx allGone .running && allSaved allGone 0 0, !allSaved (mgmt memBench) 0 0, 0 % 16 == 0,
    takes (asCtx .tornDown (mgmt memBench)) && mineCtx (asCtx .tornDown (mgmt memBench)) .tornDown, takes (mgmt engBench) && ({ mgmt memBench with ctxs := [] } : State).ctx? 0 0 == none,
    has ((stoppingBench true).pkg? 0) (fun p => p.ctxCmd != none) && has ((mgmt (stoppingBench true)).pkg? 0) mgmtOn]
/-- EVICT of a resident context with an engine at work, with room for its slots' record, with none, and with its page gone. -/
def evicting (engs : List Eng) (grsize : Nat) (pages : List Page) : State :=
  inCtx (fun c => { c with state := .resident, grsize := grsize, grbase := 2 ^ 20 }) { mgmt memBench with engs := engs, pages := pages }
def evictEnds (s : State) : Option Saved :=
  let u := beginCmd s 0 6 0
  (s.ctx? 0 0).bind (fun c => if enginesDone u 0 0 then some (keepSlots u c) else none)
def wEvict : List Bool :=
  [takes (evicting copying.engs (2 ^ 20) [benchPage]) && mineCtx (evicting copying.engs (2 ^ 20) [benchPage]) .resident && (evictEnds (evicting copying.engs (2 ^ 20) [benchPage])).isNone,
    (match evictEnds (evicting [] (2 ^ 20) [benchPage]) with | some (.ok _) => true | _ => false),
    (match evictEnds (evicting [] (2 ^ 20) []) with | some .waits => true | _ => false),
    (match evictEnds (evicting [] 0 [benchPage]) with | some (.full _ 0 0) => true | _ => false)]
theorem test_witness_evict : wEvict.all id = true := by decide +kernel
theorem test_witness_context_commands : wCommands.all id = true := by decide +kernel

/-- A PEER fault on its way; package 9 unreachable since tick 0; a measured context inside the session. -/
def peerBench : State := inCtx (fun c => { c with peer := some (1, 5) }) memBench
def later : State := { memBench with tick := 2 ^ 17 }
def keyBench (sess : Bool) : State := onPkg (fun p => { p with rate := 6, sess := sess, tdisp := .locked }) (inCtx (fun c => { c with state := .measured }) (mgmt memBench))
def wFaultsAndKeys : List Bool :=
  [has (memBench.ctx? 0 0) (fun c => c.canFault), has (peerBench.ctx? 0 0) (fun c => c.peer == some (1, 5)) && peerBench.focus == (0, 0),
    !routeUp later 0 9, has (later.pkg? 0) (fun p => decide (unreachSince p 9 + 2 ^ 17 ≤ later.tick)),
    [true, false].all (fun b => has ((keyBench b).pkg? 0) (fun p => p.rate != 0 && !p.broken && p.sess == b && has ((keyBench b).ctx? 0 0) (fun c => keyGood p c [] (List.replicate 64 0) [] [] == b)))]
theorem test_witness_faults_and_keys : wFaultsAndKeys.all id = true := by decide +kernel

/-- A link that is up, in a stage of the negotiation; a window on a context and one on the host pool. -/
def linkBench (st : SpdmStage) : State := onPkg (fun p => { p with rate := 5, spdm := st, sess := true, tdisp := .locked }) memBench
def windows : State :=
  onPkg (fun p => { p with rate := 5, hwins := [{ en := true, ctx := 0 }, { en := true, mode := true, base := ccbAt }] }) (inCtx (fun c => { c with keypol := 2 }) (mgmt memBench))
def tlp0 : Tlp := ⟨none, false⟩
def placedAt (win off n : Nat) : Option HostPlace := (windows.pkg? 0).bind (fun p => hostJudge windows p win off n tlp0)
/-- The window's context at home on package 1, in another epoch there. -/
def otherEpoch : State :=
  { windows with pkgs := windows.pkgs.map (fun p => linkTo (1 - p.num) p), pages := [{ benchPage with pkg := 1 }]
                 ctxs := windows.ctxs.map (fun c => { c with pt := [{ benchEntry with home := 1 }] }) ++ [{ benchCtx 1 0 with epoch := 9, pt := [{ benchEntry with home := 1 }], pcl := [0] }] }
def wHost : List Bool :=
  [[SpdmStage.algorithms, .start].all (fun st => (linkBench st).focus.1 == 0 && has ((linkBench st).pkg? 0) (fun p => p.num == 0 && p.rate != 0 && !p.broken && p.spdm == st && p.sess && p.tdisp == .locked)),
    has (windows.pkg? 0) (fun p => mgmtOn p && p.rate != 0 && !p.broken), (placedAt 2 0 8).isNone, (placedAt 0 4096 8).isSome, (placedAt 1 0 8).isSome, (placedAt 1 (2 ^ 30) 8).isNone,
    [placedAt 0 4096 8, placedAt 1 0 8].all (fun o => has o (fun pl => has (windows.pkg? 0) (fun p => hostNow windows p pl && hostStale windows p pl == none && p.routes.length == 128) && !hostPinned windows 0 8 pl && !hostPoisoned windows 0 8 pl)),
    has (otherEpoch.pkg? 0) (fun p => mgmtOn p && !p.broken && has (hostJudge otherEpoch p 0 4096 8 tlp0) (fun pl => hostNow otherEpoch p pl && (hostStale otherEpoch p pl).isSome))]
theorem test_witness_host : wHost.all id = true := by decide +kernel

/-- Package 0 with its page command block on pseudo-channel 1: one page from an address, its new frame in a list behind it. -/
def pgBench (va list : Nat) : State :=
  let s := onPkg (fun p => { p with pgArg := ccbAt }) (mgmt memBench)
  { s with mem := Memory.writeN (Memory.writeN [] ccbAt (toLE 4 0 ++ toLE 4 1 ++ toLE 8 va ++ toLE 8 list)) (ccbAt + 4096) (toLE 4 512) }
def works (s : State) (op : Nat) : Bool :=
  s.focus.1 == 0 && has (s.pkg? 0) (fun p => mgmtOn p && p.ready && p.pgCmd.isNone && (match pgCheck s p op with | .inr w => unleased w s && w.pages.length == 1 | .inl _ => false))
def stops (s : State) (op r : Nat) : Bool := has (s.pkg? 0) (fun p => mgmtOn p && p.ready && (match pgCheck s p op with | .inl n => n == r | .inr _ => false))
def migratingBench : State := { memBench with pages := [{ benchPage with state := .migrating, newFrames := [512], since := 0 }] }
/-- A fault queue of 16 records at 8192, a record that waits. -/
def fqBench : State :=
  { inCtx (fun c => { c with fqaddr := 8192, fqWait := [{ kind := 0, cause := 0, noreplay := false, gid := 0, addr := 0, pch := 0, lanes := 0, tick := 0 }] }) (mgmt memBench) with mem := [(8192, 4)] }
/-- Its record written, PUT to follow at a tick; a page on whose line a lease stands. -/
def fqAfter (t : Nat) : State := inCtx (fun c => { c with fqPut := some t }) fqBench
def leasedBench : State := { pgBench 0 0 with leases := [(0, 3, 1000)] }
def wPages : List Bool :=
  [works (pgBench (2 ^ 21) (ccbAt + 4096)) 1, works (pgBench 0 0) 2, works (pgBench 0 (ccbAt + 4096)) 3, works (pgBench 0 0) 4, works (pgBench (2 ^ 21) 0) 5,
    stops (pgBench 1 0) 1 4, stops (pgBench (2 ^ 30) 0) 2 2, stops (pgBench (2 ^ 21) 0) 2 1, stops (pgBench 0 0) 3 4, stops (pgBench (2 ^ 21) 0) 4 1, stops (pgBench 0 0) 5 1,
    has (migratingBench.page? 0 0 0) (fun q => q.state == .migrating && decide (q.since + 100 ≤ migratingBench.tick) && q.bad == none && has (migratingBench.ctx? 0 0) (fun c => (c.route 0).isSome)),
    !pageLeased migratingBench 0 0 0,
    has (fqBench.ctx? 0 0) (fun c => c.fqWait.length == 1 && c.fqPut == none && goodHdr fqBench c == some { log2 := 4, irqen := false, vec := 0, put := 0, get := 0 }
      && fqReach fqBench c 8256 64),
    has ((fqAfter 10).ctx? 0 0) (fun c => c.fqWait.length == 1 && c.fqPut == some 10 && (goodHdr (fqAfter 10) c).isSome && decide (10 ≤ homeNow (fqAfter 10) c.pkg)),
    has ((onPkg (fun p => { p with pgCmd := some { op := 2, ctx := 0, pages := [] } }) (mgmt memBench)).pkg? 0) (fun p => mgmtOn p && p.pgCmd != none),
    !(match pgCheck leasedBench (leasedBench.pkgs.headD { num := 9 }) 2 with | .inr w => unleased w leasedBench | .inl _ => true)]
theorem test_witness_pages : wPages.all id = true := by decide +kernel

/-- Port 63 in a state. -/
def portBench (q : Port) : State := onPkg (fun p => { p with ports := setAt p.ports 63 q }) (mgmt memBench)
def onPort (q : Port) : Bool := has ((portBench q).pkg? 0) (fun p => mgmtOn p && p.ready && p.ports.getD 63 { } == q && p.num == 0)
/-- A module before and during bring-up. -/
def fieldBench (st : FieldState) (stage rate : Nat) : State := onPkg (fun p => { p with stage := stage, rate := rate, fields := p.fields.map (fun f => { f with state := st }) }) memBench
def wPorts : List Bool :=
  [[PortState.down, .degraded, .failed, .training, .up].all (fun st => onPort { state := st, lanes := 2, fails := [100, 50, 0] }), onPort { state := .training }, (portBench { state := .training }).tick == 100,
    [0, 7].all (fun d => has ((portBench { state := .training }).pkg? 0) (fun p => (d == p.clkDomain) == (d == 0) && ownDomain (portBench { state := .training }) p 9 d && ownDomain (portBench { state := .training }) p 0 d)),
    [PortState.up, .degraded].all (fun st => ({ state := st, lanes := 2 } : Port).usable),
    has ((fieldBench .off 0 0).pkg? 0) (fun p => !p.failed && !p.broken && fieldState p 0 == .off && (precedes 0).all (fun g => fieldState p g == .on) && decide (p.stage ≤ 1)),
    has ((fieldBench .ramp 1 0).pkg? 0) (fun p => !p.failed && !p.broken && (together 5).all (fun g => fieldState p g != .off) && (together 5).isSome && fieldState p 5 == .ramp && decide ((fieldBench .ramp 1 0).tick ≤ (p.fields.getD 5 { }).rampStart + 2000000)),
    [(2, 0), (3, 0), (4, 0), (5, 0)].all (fun x => has ((fieldBench .on x.1 x.2).pkg? 0) (fun p => !p.failed && !p.broken && p.bdLinks.all (· != .failed) && p.stage == x.1 && p.rate == x.2 && fieldState p 0 == .on)),
    has (memBench.pkg? 0) (fun p => decide (p.cbaNext ≤ memBench.tick) && limitsKept (p.noteDraw 100 [0, 0, 0, 0, 0, 0]) 100 [46, 46, 46, 46, 46, 46]), (List.range 6).all (fun f => decide (40 + 6 * busyCores memBench 0 f ≤ 46))]
theorem test_witness_ports_and_fields : wPorts.all id = true := by decide +kernel

/-! ## Witnesses: rules, frames and the step -/

/-- Bench splits that issue at the next step, and moves of each kind. -/
def fetched (w : DWord) : State := State.reset.withFetchWord 64 w.toNat
def moveOf (a : Act) : State := { fetched 0 with agenda := [{ ticks := 1, cycles := 2, act := a }] }
def failedField : State := onPkg (fun p => { p with fields := p.fields.map (fun f => { f with state := .failed }) }) (fetched 0)
def nexts (o : Host.Outcome State Fault Refusal) : Bool := match o with | .next _ => true | _ => false
def parkedSplit : State := asState .resident (fetched 0x10D0942000008000)
def wRules : List Bool :=
  [meets handlerBench (formTrap (fI 0 0 7 0)), !(formTrap (fI 0 0 7 0)).illop && guardMask (issOf bench).g 1 (issOf bench).sp.mask == 0, meets engBench (formIdone (fS 0 0 0 0 0 0)), nexts (Machine.exec (.groupPlace iid0 0 0 671) placing),
    has (fetched 0x10D0942000008000).agenda.head? (fun m => match m.act with
      | .issue g sp => issueWord (fetched 0x10D0942000008000) g sp == some 0x10D0942000008000 && !groupUnusable (fetched 0) g && !overWaited (fetched 0x10D0942000008000) g sp && groupUnusable failedField g && (issueWord (fetched 0) g 9).isNone
      | _ => false),
    has (parkedSplit.agenda.head?) (fun m => match m.act with
      | .issue g sp => (issueWord parkedSplit g sp).isSome && !groupUnusable parkedSplit g && !overWaited parkedSplit g sp && issuer { parkedSplit with cur := some (g, sp) } == none
      | _ => false),
    overWaited waited gid0 0 && (waitto waited gid0 0).isSome && (issueWord waited gid0 0).isSome && !groupUnusable waited gid0, nexts (step parkedSplit),
    nexts (step { waited with agenda := [{ ticks := 0, cycles := 0, act := .issue gid0 0 }] }),
    [Act.idle, .event .moduleReset, .hostFill 16 [1, 2]].all (fun a => nexts (step (moveOf a))), Memory.wf bench.mem && Memory.wf bench.hostMem, nexts (step (fetched 0x10D0942000008000))]
theorem test_witness_rules : wRules.all id = true := by decide +kernel

def wFrames : List Bool :=
  [(formIadd (fA 2 0 1 0 0)).compute && meets bench (formIadd (fA 2 0 1 0 0)) && nexts (Machine.exec (.iadd (fA 2 0 1 0 0)) bench),
    nexts (Machine.exec (.ld 0 w648) memBench), nexts (Machine.exec (.st 0 (fM 5 648 4 3 8)) memBench), nexts (Machine.exec (.atom 0 (fM 6 648 0 3 2)) memBench),
    nexts (Machine.exec (.red 0 (fM 6 648 0 0 0)) memBench), nexts (Machine.exec (.cuew (fM 649 648 0 15 8)) memBench),
    has (storing.write? 3) (fun w => w.use == .none && has (waitingLane w.lanes 95) (fun a => match translate storing w.pkg w.ctx a.va with | .at_ _ _ key => decide (key % 128 + a.data.length ≤ 128) | _ => false)),
    nexts (Machine.exec (.writePerform (.lane 3 95) .none) storing),
    has (reducing.write? 3) (fun w => has (waitingLane w.lanes 0) (fun a => match translate reducing w.pkg w.ctx a.va with | .at_ _ _ key => decide (key % 128 + 4 ≤ 128) | _ => false)),
    nexts (Machine.exec (.atomicExecute 3 0) reducing),
    (let s := after (.atom 0 (fM 6 648 0 3 2)) memBench
     has (s.write? 3) (fun w => has (waitingLane w.lanes 0) (fun a => !writeHeld s w a && w.use != .none && (match translate s w.pkg w.ctx a.va with | .at_ _ _ key => !poisonedAt s key 4 | _ => false)))
      && nexts (Machine.exec (.atomicExecute 3 0) s))]
theorem test_witness_frames : wFrames.all id = true := by decide +kernel

/-! ## Results worked by hand from the rules -/

/-- Word n of lane 0 after an instruction on a bench whose S4 and S5 hold two values. -/
def result (i : Instr) (a b : Nat) (n : Nat) : Option Word := (after i (scalars bench 4 [a, b])).regWord gid0 n 0

/-- R176, R177: the low 32 bits of the sum; the upper half of the exact signed product. -/
theorem test_iadd_wraps : result (.iadd (fA 646 644 645 0 0)) 0xFFFFFFFF 2 646 = some 1 := by decide +kernel
theorem test_imulh_signed : result (.imulh (fA 646 644 645 0 0)) 0xFFFFFFFF 2 646 = some 0xFFFFFFFF := by decide +kernel
/-- R50: the largest finite FP32 value doubled is +∞ under round to nearest. -/
theorem test_fmul_overflows : result (.fmul (fA 646 644 645 0 0)) 0x7F7FFFFF 0x40000000 646 = some 0x7F800000 := by decide +kernel
/-- R184: one NaN gives the other operand, and −0 orders below +0. -/
theorem test_fmin_nan : result (.fmin (fA 646 644 645 0 0)) 0x7FC00001 0x3F800000 646 = some 0x3F800000 := by decide +kernel
theorem test_fmin_zeros : result (.fmin (fA 646 644 645 0 0)) 0x00000000 0x80000000 646 = some 0x80000000 := by decide +kernel
/-- R2: bytes least significant first. -/
theorem test_byte_order : Memory.readN (Memory.writeN [] 100 (toLE 4 0x11223344)) 100 4 = [0x44, 0x33, 0x22, 0x11] := by decide +kernel
/-- A write of the value that an unlisted byte reads as removes the entry. -/
theorem test_canonical_write : Memory.writeN (Memory.writeN [] 100 [1, 2]) 100 [0, 2] = [(101, 2)] := by decide +kernel

/-- R414: AES-256-GCM on the empty text, by the published algorithm's first 256-bit case (key and IV 0); the S-box's worked entry of FIPS 197. -/
theorem test_aes_sbox : Aes.sub 0x53 = 0xED := by decide +kernel
theorem test_gcm_tag : Aes.gcmTag (List.replicate 32 0) (List.replicate 12 0) [] [] =
    [0x53, 0x0F, 0x8A, 0xFB, 0xC7, 0x45, 0x36, 0xB9, 0xA9, 0x63, 0xB4, 0xF1, 0xC4, 0xCB, 0x73, 0x8B] := by decide +kernel
/-- R275: SHA-384 of the three bytes "abc", FIPS 180-4's worked digest: its first eight bytes. -/
theorem test_sha384_abc : (sha384 [0x61, 0x62, 0x63]).take 8 = [0xCB, 0x00, 0x75, 0x3F, 0x45, 0xA3, 0x5E, 0x8B] := by decide +kernel
/-- R219: RED acts per lane although both its operands are scalars. -/
theorem test_red_each_lane : ((after (.red 0 (fM 646 648 0 0 0)) memBench).writes.map (fun w => w.lanes.length)) = [96] := by decide +kernel

end Sys2Proof.Tests
end

/-! SUPPORT. Every step keeps the memories in their canonical form (log entry 1): the laws of each body and of each
of the device's steps, put together over exec's arms, the moves, and step. -/

namespace Sys2Proof.Machine

open Sys2Proof

/-! ## What an outcome answers with -/

/-- The next state of an outcome, where it has one, has property P. -/
def NextAll (P : State → Prop) (o : Host.Outcome State Fault Refusal) : Prop := ∀ t, o = .next t → P t

theorem NextAll.next {P : State → Prop} {t : State} (h : P t) : NextAll P (.next t) := by
  rintro _ ⟨⟩; exact h

theorem NextAll.fault {P : State → Prop} {f : Fault} : NextAll P (.fault f) := nofun

theorem NextAll.enabled {P : State → Prop} {o : Option State} (h : OptAll P o) : NextAll P (ifEnabled o) :=
  fun _ e => h.get (ifEnabled_next e)

theorem NextAll.ready {P : State → Prop} {o : Option (Host.Outcome State Fault Refusal)} (h : ∀ r, o = some r → NextAll P r) :
    NextAll P (ifReady o) := by
  cases o with
  | none => exact nofun
  | some r => exact h r rfl

theorem NextAll.settled {o : Host.Outcome State Fault Refusal} (h : NextAll MemCanonical o) : NextAll MemCanonical (settled o) := by
  cases o with
  | next t => exact .next (h t rfl).settledState
  | fault f => exact .fault
  | refused r => exact nofun

theorem MemCanonical.issue {s : State} {f : Form} {body : Iss → Mask → State → Res} (h : MemCanonical s)
    (hb : ∀ x act, (body x act s).All MemCanonical) : NextAll MemCanonical (Sys2Proof.Machine.issueWith s f body) :=
  fun _ => h.issueWith hb

/-! ## The steps of the device that are more than one operation -/

theorem MemCanonical.waittExpire {s : State} (h : MemCanonical s) (gid split : Nat) : NextAll MemCanonical (execWaittExpire gid split s) := by
  have hcur : MemCanonical { s with cur := some (gid, split) } := h
  refine .ready fun r hr => ?_
  simp only [Option.bind_eq_bind, Option.bind_eq_some_iff] at hr
  obtain ⟨⟨x, i⟩, -, target, -, hr⟩ := hr
  split at hr
  · split at hr
    · cases hr; exact hcur.issue fun _ _ => hcur.bodyWaitt ..
    · cases hr; exact hcur.issue fun _ _ => hcur.bodyWaittD ..
    · cases hr
  · cases hr

theorem MemCanonical.fenceComplete {s : State} (h : MemCanonical s) (gid split : Nat) : NextAll MemCanonical (execFenceComplete gid split s) := by
  have hcur : MemCanonical { s with cur := some (gid, split) } := h
  refine .ready fun r hr => ?_
  simp only [Option.bind_eq_bind, Option.bind_eq_some_iff] at hr
  obtain ⟨⟨x, i⟩, -, hr⟩ := hr
  split at hr
  · split at hr
    · cases hr; exact hcur.issue fun _ _ => hcur.bodyFence ..
    · cases hr
  · split at hr
    · cases hr; exact hcur.issue fun _ _ => hcur.bodyFences ..
    · cases hr
  · cases hr

theorem MemCanonical.loadPerform {s : State} (h : MemCanonical s) (ref : ReadRef) (src : ReadSrc) (up : Upset) :
    NextAll MemCanonical (execLoadPerform ref src up s) := by
  refine .enabled ?_
  cases ref with
  | lane op lane => exact h.performLane ..
  | stepLine step line =>
    dsimp only; split
    · exact h.performStepLine ..
    · exact .none
  | engUnit op u =>
    dsimp only; split
    · exact h.performEngRead ..
    · exact .none
  | defUnit op j =>
    dsimp only; split
    · exact h.performDefUnit ..
    · exact .none

theorem MemCanonical.writePerform {s : State} (h : MemCanonical s) (ref : WriteRef) (up : Upset) :
    NextAll MemCanonical (execWritePerform ref up s) := by
  refine .enabled ?_
  cases ref with
  | lane op lane => exact h.performStore ..
  | engUnit op u => exact h.performEngWrite ..

/-! ## Every instruction and every step of the device -/

/-- Each arm of exec is an issue whose body keeps the form, or an operation of the device that does. -/
theorem MemCanonical.exec {s : State} (h : MemCanonical s) (i : Instr) : NextAll MemCanonical (Sys2Proof.Machine.exec i s) := by
  cases i with
  -- class 0, integer
  | iadd | isub | imul | imulh | imad | iabs | ineg | imin | imax => exact h.issue fun _ _ => h.intBody3 ..
  | iaddI | isubI | imulI | iminI | imaxI => exact h.issue fun _ _ => h.intBodyI ..
  | and_ | or_ | xor_ | andn | not_ | brev | mov => exact h.issue fun _ _ => h.bitBody ..
  | andI | orI | xorI | andnI => exact h.issue fun _ _ => h.bitBodyI ..
  | shl | shr | sar | rol => exact h.issue fun _ _ => h.shiftBody ..
  | shlI | shrI | sarI | rolI => exact h.issue fun _ _ => h.shiftBodyI ..
  | popc | clz | ctz => exact h.issue fun _ _ => h.countBody ..
  | bfx | bfxI | bfi | sel | lea | leaI | movi => exact h.issue fun _ _ => h.bodyWords ..
  | icmp | icmpI => exact h.issue fun _ _ => h.bodyCmp ..
  -- class 1, floating point
  | fadd | fsub | fmul | ffma => exact h.issue fun _ _ => h.farithBody ..
  | faddI | fsubI | fmulI => exact h.issue fun _ _ => h.farithBodyI ..
  | fmin | fmax => exact h.issue fun _ _ => h.fminmaxBody ..
  | fminI | fmaxI => exact h.issue fun _ _ => h.fminmaxBodyI ..
  | fclass | frnd | fdiv => exact h.issue fun _ _ => h.bodyWords ..
  | fcmp | fcmpI | dcmp => exact h.issue fun _ _ => h.bodyCmp ..
  | dadd | dmul | dfma => exact h.issue fun _ _ => h.darithBody ..
  | dmin | dmax => exact h.issue fun _ _ => h.dminmaxBody ..
  | badd2 | bmul2 | bfma2 => exact h.issue fun _ _ => h.bfBody ..
  | fcvt => exact h.issue fun _ _ => h.bodyFcvt ..
  -- class 2, special functions, lanes and predicates
  | rcp | rsq | sqrt | exp2 | log2 | exp | log | sin | cos | tanh => exact h.issue fun _ _ => h.sfuBody ..
  | shfl | shflI => exact h.issue fun _ _ => h.shflBody ..
  | vote => exact h.issue fun _ _ => h.bodyVote ..
  | lred => exact h.issue fun _ _ => h.bodyLred ..
  | lscan => exact h.issue fun _ _ => h.bodyLscan ..
  | pand | por | pnot => exact h.issue fun _ _ => h.bodyPred ..
  | pcnt => exact h.issue fun _ _ => h.bodyPcnt ..
  -- class 3, memory, fences and the ashlar
  | ld => exact h.issue fun _ _ => h.bodyLd ..
  | ldc => exact h.issue fun _ _ => h.bodyLdc ..
  | pref => exact h.issue fun _ _ => h.bodyPref ..
  | st => exact h.issue fun _ _ => h.bodySt ..
  | atom => exact h.issue fun _ _ => h.bodyAtom ..
  | red => exact h.issue fun _ _ => h.bodyRed ..
  | cuew => exact h.issue fun _ _ => h.bodyCuew ..
  | fence => exact h.issue fun _ _ => h.bodyFence ..
  | fences => exact h.issue fun _ _ => h.bodyFences ..
  | tiledef => exact h.issue fun _ _ => h.bodyTiledef ..
  | tilerel => exact h.issue fun _ _ => h.bodyTilerel ..
  | lda => exact h.issue fun _ _ => h.bodyLda ..
  | sta => exact h.issue fun _ _ => h.bodySta ..
  | pghint => exact h.issue fun _ _ => h.bodyPghint ..
  -- class 4, control flow and the system
  | bra => exact h.issue fun _ _ => h.bodyBra ..
  | brx => exact h.issue fun _ _ => h.bodyBrx ..
  | jmpt => exact h.issue fun _ _ => h.bodyJmpt ..
  | call => exact h.issue fun _ _ => h.bodyCall ..
  | calli => exact h.issue fun _ _ => h.bodyCalli ..
  | ret => exact h.issue fun _ _ => h.bodyRet ..
  | exit => exact h.issue fun _ _ => h.bodyExit ..
  | rte => exact h.issue fun _ _ => h.bodyRte ..
  | rgn => exact h.issue fun _ _ => h.bodyRgn ..
  | trap => exact h.issue fun _ _ => h.bodyTrap ..
  | nop => exact h.issue fun _ _ => h.bodyNop ..
  | waitt => exact h.issue fun _ _ => h.bodyWaitt ..
  | waittD => exact h.issue fun _ _ => h.bodyWaittD ..
  | yield => exact h.issue fun _ _ => h.bodyYield ..
  | srd => exact h.issue fun _ _ => h.bodySrd ..
  | swr => exact h.issue fun _ _ => h.bodySwr ..
  | clkTb | clkCyc => exact h.issue fun _ _ => h.bodyClk ..
  -- class 5, matrix steps and engines
  | mma => exact h.issue fun _ _ => h.bodyMma ..
  | mmas => exact h.issue fun _ _ => h.bodyMmas ..
  | mcommit => exact h.issue fun _ _ => h.bodyMcommit ..
  | mwait => exact h.issue fun _ _ => h.bodyMwait ..
  | mzero => exact h.issue fun _ _ => h.bodyMzero ..
  | mst => exact h.issue fun _ _ => h.bodyMst ..
  | cpy => exact h.issue fun _ _ => h.bodyCpy ..
  | cpy2d => exact h.issue fun _ _ => h.bodyCpy2d ..
  | tld => exact h.issue fun _ _ => h.bodyTld ..
  | tst => exact h.issue fun _ _ => h.bodyTst ..
  | gath => exact h.issue fun _ _ => h.bodyGath ..
  | scat => exact h.issue fun _ _ => h.bodyScat ..
  | rowpub => exact h.issue fun _ _ => h.bodyRowpub ..
  | ewait => exact h.issue fun _ _ => h.bodyEwait ..
  | coll => exact h.issue fun _ _ => h.bodyColl ..
  | cpyg => exact h.issue fun _ _ => h.bodyCpyg ..
  | redgo => exact h.issue fun _ _ => h.bodyRedgo ..
  -- class 6, barriers, abort lines and the group's own instructions
  | bar => exact h.issue fun _ _ => h.bodyBar ..
  | bara => exact h.issue fun _ _ => h.bodyBara ..
  | barw => exact h.issue fun _ _ => h.bodyBarw ..
  | abinit => exact h.issue fun _ _ => h.bodyAbinit ..
  | abarr => exact h.issue fun _ _ => h.bodyAbarr ..
  | abwait => exact h.issue fun _ _ => h.bodyAbwait ..
  | abort => exact h.issue fun _ _ => h.bodyAbort ..
  | abchk => exact h.issue fun _ _ => h.bodyAbchk ..
  | treeid => exact h.issue fun _ _ => h.bodyTreeid ..
  | loophd => exact h.issue fun _ _ => h.bodyLoophd ..
  | idone => exact h.issue fun _ _ => h.bodyIdone ..
  | iput => exact h.issue fun _ _ => h.bodyIput ..
  -- launches, queues, remote opcodes, near memory, and opcodes that kernel code may not hold
  | launch => exact h.issue fun _ _ => h.bodyLaunch ..
  | launchi => exact h.issue fun _ _ => h.bodyLaunchi ..
  | garm => exact h.issue fun _ _ => h.bodyGarm ..
  | ropld => exact h.issue fun _ _ => h.bodyRopld ..
  | ropdrop => exact h.issue fun _ _ => h.bodyRopdrop ..
  | rop => exact h.issue fun _ _ => h.bodyRop ..
  | ropr => exact h.issue fun _ _ => h.bodyRopr ..
  | nmmodeOn => exact h.issue fun _ _ => h.bodyNmmodeOn ..
  | nmmodeOff => exact h.issue fun _ _ => h.bodyNmmodeOff ..
  | nmbc => exact h.issue fun _ _ => h.bodyNmbc ..
  | nmzero => exact h.issue fun _ _ => h.bodyNmzero ..
  | nmmac => exact h.issue fun _ _ => h.bodyNmmac ..
  | nmrd => exact h.issue fun _ _ => h.bodyNmrd ..
  | mpush | melse | mpop => exact h.issue fun _ _ => h.bodyMask ..
  | unassignedOpcode => exact h.issue fun _ _ => h.bodyUnassigned ..
  -- the schedule
  | clauseFetch => exact .enabled (h.clauseFetch ..)
  | splitHoldEnd => exact .enabled (h.splitHoldEnd ..)
  | activeSetEnter => exact .enabled (h.activeSetEnter ..)
  | activeSetLeave => exact .enabled (h.activeSetLeave ..)
  | swapTimeout => exact .enabled (h.swapTimeout ..)
  | waitto => exact .enabled (h.waitto ..)
  | waittExpire => exact h.waittExpire _ _
  | fenceComplete => exact h.fenceComplete _ _
  | fencesWindowClose => exact .enabled (h.fencesWindowClose ..)
  | fencesRollback => exact .enabled (h.fencesRollback ..)
  -- the memory system
  | loadPerform => exact h.loadPerform _ _ _
  | writePerform => exact h.writePerform _ _
  | atomicExecute => exact .enabled (h.atomicExecute ..)
  | loadDeliver => exact .enabled (h.loadDeliver ..)
  | ctReturn => exact .enabled (h.ctReturn ..)
  | guestCopyFill => exact .enabled (h.guestFill ..)
  | guestCopyExpire => exact .enabled (h.guestExpire ..)
  | l1PrefetchFill => exact .enabled (h.prefetchFill ..)
  -- matrix steps, engine operations and base-die links
  | matrixStepComplete => exact .enabled (h.matrixDone ..)
  | engineOpComplete => exact .enabled (h.engComplete ..)
  | redgoExecute => exact .enabled (h.redgoExecute ..)
  | redgoFlagWrite => exact .enabled (h.redgoFlag ..)
  | cpygExecute => exact .enabled (h.cpygExecute ..)
  | baseDieLinkFail => exact .enabled (h.linkFail ..)
  -- remote opcodes and near memory at their homes
  | ropGranule => exact .enabled (h.ropGranule ..)
  | ropCombine => exact .enabled (h.ropCombine ..)
  | ropAck => exact .enabled (h.ropAck ..)
  | wingsAppend => exact .enabled (h.wingsAppend ..)
  | nmCommandExecute => exact .enabled (h.nmExecute ..)
  | nmSessionTimeout => exact .enabled (h.nmTimeout ..)
  | definitionLoaded => exact .enabled (h.definitionLoaded ..)
  | definitionDropped => exact .enabled (h.definitionDropped ..)
  -- groups and kernel instances
  | launchVerify => exact .enabled (h.launchVerify ..)
  | groupPlace => exact .enabled (h.groupPlace ..)
  | groupRetire => exact .enabled (h.groupRetire ..)
  | groupSave => exact .enabled (h.groupSave ..)
  | groupRestore => exact .enabled (h.groupRestore ..)
  | nodeMove => exact .enabled (h.nodeMove ..)
  | instanceComplete => exact .enabled (h.instanceComplete ..)
  -- queues and the prompter
  | queueEntryTake => exact .enabled (h.queueTake ..)
  | watcherNotify => exact .enabled (h.watcherNotify ..)
  | prompterChoose => exact .enabled (h.prompterChoose ..)
  | kernelNode => exact .enabled (h.kernelNode ..)
  | copyNode => exact .enabled (h.copyNode ..)
  | waitcueNode => exact .enabled (h.waitcueNode ..)
  | setcueNode => exact .enabled (h.setcueNode ..)
  | condNode => exact .enabled (h.condNode ..)
  | whileNode => exact .enabled (h.whileNode ..)
  | joinNode => exact .enabled (h.joinNode ..)
  | endNode => exact .enabled (h.endNode ..)
  | effprioAge => exact .enabled (h.effprioAge ..)
  -- contexts
  | ctxCmdBad => exact .enabled (h.ctxCmdBad ..)
  | create => exact .enabled (h.create ..)
  | measure => exact .enabled (h.measure ..)
  | admitCtx => exact .enabled (h.admitContext ..)
  | run => exact .enabled (h.run ..)
  | stop => exact .enabled (h.stop ..)
  | evict => exact .enabled (h.evict ..)
  | clear => exact .enabled (h.clearCtx ..)
  | teardown => exact .enabled (h.teardown ..)
  | contextFault => exact .enabled (h.contextFault ..)
  | peer => exact .enabled (h.peerFault ..)
  | packageUnreachable => exact .enabled (h.packageUnreachable ..)
  | key => exact .enabled (h.keyMsg ..)
  | getCtxmeas => exact .enabled (h.getCtxmeas ..)
  -- pages
  | pgCmdBad => exact .enabled (h.pgCmdBad ..)
  | map => exact .enabled (h.pgWork _ fun _ _ h => h.mapPages _)
  | unmap => exact .enabled (h.pgWait _ fun _ _ h => h.unmapPages _)
  | migrate => exact .enabled (h.pgWork _ fun _ _ h => h.migratePages _)
  | retire => exact .enabled (h.pgWait _ fun _ _ h => h.retirePages _)
  | deny => exact .enabled (h.pgWork _ fun _ _ h => h.denyPages _)
  | migrationSwitch => exact .enabled (h.migrationSwitch ..)
  | faultRecordPost => exact .enabled (h.recordPost ..)
  -- the host and its link
  | getVersion => exact .enabled (h.getVersion ..)
  | getCapabilities => exact .enabled (h.getCapabilities ..)
  | negotiateAlgorithms => exact .enabled (h.negotiateAlgorithms ..)
  | getDigests => exact .enabled (h.getDigests ..)
  | getCertificate => exact .enabled (h.getCertificate ..)
  | challenge => exact .enabled (h.challenge ..)
  | getMeasurements => exact .enabled (h.getMeasurements ..)
  | keyExchange => exact .enabled (h.keyExchange ..)
  | finish => exact .enabled (h.finishSess ..)
  | endSession => exact .enabled (h.endSession ..)
  | ideKm => exact .enabled (h.ideKm ..)
  | lockInterfaceRequest => exact .enabled (h.lockInterface ..)
  | startInterfaceRequest => exact .enabled (h.startInterface ..)
  | stopInterfaceRequest => exact .enabled (h.stopInterface ..)
  | tdispError => exact .enabled (h.tdispError ..)
  | hostRead => exact .enabled (h.hostRead ..)
  | hostWrite => exact .enabled (h.hostWrite ..)
  | hostAtomicop => exact .enabled (h.hostAtomic ..)
  | registerWrite => exact .enabled (h.registerWrite ..)
  -- ports
  | train => exact .enabled (h.train ..)
  | disable => exact .enabled (h.disable ..)
  | portTrained => exact .enabled (h.portTrained ..)
  | portTrainTimeout => exact .enabled (h.portTimeout ..)
  | laneLost => exact .enabled (h.laneLost ..)
  | flitReplay => exact .enabled (h.flitReplay ..)
  -- fields and bring-up
  | moduleReset => exact .enabled (h.moduleReset ..)
  | fieldRamp => exact .enabled (h.fieldRamp ..)
  | fieldOn => exact .enabled (h.fieldOn ..)
  | fieldRampTimeout => exact .enabled (h.fieldTimeout ..)
  | overcurrent => exact .enabled (h.overcurrent ..)
  | baseDieLinkTraining => exact .enabled (h.bdTrained ..)
  | hbmTraining => exact .enabled (h.hbmTrained ..)
  | pcieLinkTraining => exact .enabled (h.pcieTrained ..)
  | cbaGrant => exact .enabled (h.cbaGrant ..)

/-! ## Moves and steps -/

theorem MemCanonical.pass {s : State} (h : MemCanonical s) (m : Move) : MemCanonical (m.pass s) := h.passTime ..

/-- A move lets its time pass and then acts; an issue takes WAITTO, waits on, or runs the word it stands at (R120, R317, R423). -/
theorem MemCanonical.runMove {s : State} (h : MemCanonical s) (m : Move) : NextAll MemCanonical (Sys2Proof.Machine.runMove s m) := by
  have ht : MemCanonical (Sys2Proof.Machine.settleCmds (m.pass s)) := (h.pass m).settleCmds
  unfold Sys2Proof.Machine.runMove
  dsimp only
  cases m.act with
  | idle => exact .next ht
  | hostFill a bs => exact .next (ht.fillHost a bs)
  | softError p c va kind gid up => exact .settled (.enabled (ht.softError ..))
  | stageFail p => exact .enabled (ht.stageFail p)
  | readAhead i us => exact .enabled (ht.readAhead i us)
  | restDraw p w => exact .enabled (ht.restDraw p w)
  | event i =>
    have hfocus : MemCanonical { Sys2Proof.Machine.settleCmds (m.pass s) with cur := none, focus := (m.pkg, m.ctx) } := ht
    exact .settled (hfocus.exec i)
  | issue gid sp =>
    have hcur : MemCanonical { Sys2Proof.Machine.settleCmds (m.pass s) with cur := some (gid, sp) } := ht
    dsimp only
    split
    case h_1 => exact .settled (.next ht)
    case h_2 w _ =>
      split
      · exact .fault
      · split
        · exact .settled (.enabled (ht.waitto gid sp))
        · split
          · exact .settled (.next ht)
          · exact .settled (hcur.exec (decode w))

theorem MemCanonical.step {s : State} (h : MemCanonical s) : NextAll MemCanonical (Sys2Proof.Machine.step s) := by
  unfold Sys2Proof.Machine.step
  split
  case h_1 m rest _ =>
    have hrest : MemCanonical { s with agenda := rest } := h
    exact hrest.runMove m
  case h_2 =>
    dsimp only
    split
    · exact .next (h.bumpChoice.pass _)
    · exact h.bumpChoice.runMove _

/-- Settles O57: a step is a move, and every move keeps the form because every arm of exec does. -/
theorem stepKeepsMemoryCanonical : Obligations.StepKeepsMemoryCanonical :=
  fun _ t h => h.step t

/-- Settles O56: both memories of the reset state list nothing. -/
theorem resetMemoryCanonical : Obligations.ResetMemoryCanonical := ⟨reset_mem_wf, rfl⟩

end Sys2Proof.Machine

/-! SUPPORT. The fields, the stages of bring-up, the budget arbiter and module reset (R5, R422 to R432): the next state
of each where its conditions hold; and what module reset leaves. -/

namespace Sys2Proof.Machine

open Sys2Proof

section FieldEvents

/-! ## Fields, stages, the arbiter and module reset of a package that is there -/

variable {s : State} {pkg : Nat} {p : Pkg}

theorem ifEnabled_some {o : Option State} {t : State} (h : o = some t) : ifEnabled o = .next t := by rw [h]; rfl

theorem fieldRamp_next {f : Nat} (hp : s.pkg? pkg = some p) (hf : f < 6) (hfailed : p.failed = false) (hbroken : p.broken = false)
    (hoff : fieldState p f = .off) (hbefore : (precedes f).all (fun g => fieldState p g == .on) = true) (hstage : p.stage ≤ 1) :
    exec (.fieldRamp pkg f) s =
      .next ((s.mapPkg pkg (fun p => { p with stage := 1 })).mapField pkg f (fun d => { d with state := .ramp, rampStart := s.tick })) := by
  refine ifEnabled_some ?_
  have hnone : (precedes f).any (fun g => fieldState p g != .on) = false := by simpa using hbefore
  simp [fieldRamp, hp, hf, hfailed, hbroken, hoff, hnone, hstage]

theorem fieldOn_next {f : Nat} (hp : s.pkg? pkg = some p) (hf : f < 6) (hfailed : p.failed = false) (hbroken : p.broken = false)
    (hramp : fieldState p f = .ramp) (hbegun : (together f).all (fun g => fieldState p g != .off) = true)
    (htime : s.tick ≤ (p.fields.getD f { }).rampStart + 2000000) :
    exec (.fieldOn pkg f) s = .next ((s.mapField pkg f (fun d => { d with state := .on })).mapPkg pkg
      (fun p => if p.fields.all (fun d => d.state == .on) then { p with stage := 2 } else p)) := by
  refine ifEnabled_some ?_
  have hnone : (together f).any (fun g => fieldState p g == .off) = false := by
    cases h : together f <;> simp_all
  have hstate : (p.fields.getD f { }).state = .ramp := hramp
  have hlate : ¬(p.fields.getD f { }).rampStart + rampTicks < s.tick := Nat.not_lt.mpr htime
  simp only [fieldOn, hp]
  refine if_neg ?_
  simp only [Nat.not_le.mpr hf, hfailed, hbroken, hstate, hlate, hnone]
  simp

theorem fieldTimeout_next {f : Nat} (hp : s.pkg? pkg = some p) (hf : f < 6) (hramp : fieldState p f = .ramp) :
    exec (.fieldRampTimeout pkg f) s =
      .next ((s.mapField pkg f (fun d => { d with state := .failed })).mapPkg pkg (fun p => { p with failed := true, failStage := p.stage })) := by
  refine ifEnabled_some ?_
  simp [fieldTimeout, hp, hf, hramp]

theorem overcurrent_next {f : Nat} (hp : s.pkg? pkg = some p) (hf : f < 6) (hon : fieldState p f = .on) :
    exec (.overcurrent pkg f) s = .next (deviceFault (s.mapField pkg f (fun d => { d with state := .failed })) pkg) := by
  refine ifEnabled_some ?_
  simp [overcurrent, hp, hf, hon]

theorem stageDone_some {n : Nat} (hp : s.pkg? pkg = some p) (hfailed : p.failed = false) (hbroken : p.broken = false)
    (hstage : p.stage = n) (f : Pkg → Pkg) : stageDone s pkg n f = some (s.mapPkg pkg (fun p => { f p with stage := n + 1 })) := by
  simp [stageDone, hp, hfailed, hbroken, hstage]

theorem bdTrained_next (hp : s.pkg? pkg = some p) (hfocus : s.focus.1 = pkg) (hfailed : p.failed = false) (hbroken : p.broken = false)
    (hstage : p.stage = 2) (hlinks : p.bdLinks.all (· != .failed) = true) :
    exec .baseDieLinkTraining s = .next (s.mapPkg pkg (fun p => { linksUp p with stage := 3 })) := by
  subst hfocus
  refine ifEnabled_some ?_
  have hnone : p.bdLinks.any (· == .failed) = false := by simpa using hlinks
  unfold bdTrained
  rw [if_neg (by simp [hp, hnone])]
  exact stageDone_some hp hfailed hbroken hstage linksUp

theorem hbmTrained_next (hp : s.pkg? pkg = some p) (hfocus : s.focus.1 = pkg) (hfailed : p.failed = false) (hbroken : p.broken = false)
    (hstage : p.stage = 3) : exec .hbmTraining s = .next (s.mapPkg pkg (fun p => { p with stage := 4 })) := by
  subst hfocus
  exact ifEnabled_some (stageDone_some hp hfailed hbroken hstage id)

/-- Stage 4 of bring-up. -/
theorem pcieTrained_next_stage {rate width : Nat} {flit : Bool} (hp : s.pkg? pkg = some p) (hgood : pcieGood rate width flit = true)
    (hfailed : p.failed = false) (hbroken : p.broken = false) (hstage : p.stage = 4) :
    exec (.pcieLinkTraining pkg rate width flit) s =
      .next (s.mapPkg pkg (fun p => { p with rate := rate, width := width, flit := flit, stage := 5 })) := by
  refine ifEnabled_some ?_
  simpa [pcieTrained, hp, hgood, hstage] using
    stageDone_some hp hfailed hbroken hstage (fun p => { p with rate := rate, width := width, flit := flit })

/-- The link of a package that is up already. -/
theorem pcieTrained_next_again {rate width : Nat} {flit : Bool} (hp : s.pkg? pkg = some p) (hgood : pcieGood rate width flit = true)
    (hstage : p.stage = 5) (hbroken : p.broken = false) (hrate : p.rate = 0) :
    exec (.pcieLinkTraining pkg rate width flit) s = .next (s.mapPkg pkg (fun p => { p with rate := rate, width := width, flit := flit })) := by
  refine ifEnabled_some ?_
  simp [pcieTrained, hp, hgood, hstage, hbroken, hrate]

theorem pcieGood_of_ranges {rate width : Nat} {flit : Bool} (hlo : 1 ≤ rate) (hhi : rate ≤ 6) (hwidth : width ≤ 2)
    (hflit : flit = true ∨ rate ≤ 5) : pcieGood rate width flit = true := by
  simp [pcieGood, hlo, hhi, hwidth, hflit]

theorem cbaGrant_next {draws grants : List Nat} (hp : s.pkg? pkg = some p) (hdraws : draws.length = 6) (hgrants : grants.length = 6)
    (hdue : p.cbaNext ≤ s.tick)
    (hshares : (List.range 6).all (fun f => decide (grants.getD f 0 ≤ 4300) && decide (40 + 6 * busyCores s pkg f ≤ grants.getD f 0)) = true)
    (hlimits : limitsKept (p.noteDraw s.tick draws) s.tick grants = true ∨ grants = leastGrants s pkg) :
    exec (.cbaGrant pkg draws grants) s = .next (s.mapPkg pkg (fun p =>
      { p.noteDraw s.tick draws with
        cbaNext := p.cbaNext + 1000 * p.overdue s.tick
        fields := (List.range 6).map (fun i =>
                 { p.fields.getD i { } with thr := nextThr (p.fields.getD i { }) (draws.getD i 0), grant := grants.getD i 0 }) })) := by
  refine ifEnabled_some ?_
  have hgood : (List.range 6).any (fun f => !grantGood s pkg f (grants.getD f 0)) = false := by
    rw [← Bool.not_eq_true', List.not_any_eq_all_not]
    simpa only [grantGood, Bool.not_not] using hshares
  have hkept : ¬(limitsKept (p.noteDraw s.tick draws) s.tick grants = false ∧ grants ≠ leastGrants s pkg) := by
    rcases hlimits with h | h <;> simp [h]
  simp only [cbaGrant, hp]
  refine if_neg ?_
  simp only [hdraws, hgrants, Nat.not_lt.mpr hdue, hgood, hkept]
  simp

theorem moduleReset_next (hp : s.pkg? pkg = some p) (hfocus : s.focus.1 = pkg) :
    exec .moduleReset s = .next ((clearPkg s pkg).mapPkg pkg (resetPkg s.tick)) := by
  subst hfocus
  exact ifEnabled_some (by simp [moduleReset, hp])

end FieldEvents

/-- Settles O46, clause by clause: each condition of the statement is the guard of its event. -/
theorem fieldEventsComplete : Obligations.FieldEventsComplete := by
  intro s pkg f p hfocus hp
  refine ⟨fun hf => ⟨?_, ?_, ?_, ?_⟩, ?_, ?_, fun rate width flit hlo hhi hwidth hflit => ⟨?_, ?_⟩, ?_, ?_⟩
  · exact fieldRamp_next hp hf
  · exact fieldOn_next hp hf
  · exact fieldTimeout_next hp hf
  · exact overcurrent_next hp hf
  · exact bdTrained_next hp hfocus
  · exact hbmTrained_next hp hfocus
  · exact pcieTrained_next_stage hp (pcieGood_of_ranges hlo hhi hwidth hflit)
  · exact pcieTrained_next_again hp (pcieGood_of_ranges hlo hhi hwidth hflit)
  · exact fun draws grants => cbaGrant_next hp
  · exact moduleReset_next hp hfocus

/-! ## Reset -/

/-- At reset a package is told from others by its number alone. -/
theorem pkg_reset {p : Pkg} (h : p ∈ State.reset.pkgs) : ∃ n, p = { num := n } := by
  obtain ⟨n, -, rfl⟩ := List.mem_map.mp h
  exact ⟨n, rfl⟩

/-- Settles O55: what reset lists is empty, and a package's registers hold the values they are declared with. -/
theorem resetState : Obligations.ResetState := by
  refine ⟨rfl, rfl, rfl, rfl, rfl, rfl, rfl, rfl, rfl, rfl, rfl, rfl, fun p hp => ?_⟩
  obtain ⟨n, rfl⟩ := pkg_reset hp
  simp [Pkg.ready]

end Sys2Proof.Machine

/-! SUPPORT. Reads performed and loads delivered (R24, R118, R134, R145, R147, R220, R245, R255, R330, R353, R399, R402): when each kind of read goes on,
and what it brings where no soft error meets it. -/

namespace Sys2Proof.Machine

open Sys2Proof

/-! ## A read of one unit at its home -/

section HomeRead

variable {s : State} {pkg ctx va n kind h p key c : Nat} {gid : Word} {bs : List Byte} {bad : Bool}

/-- A read that no soft error meets, of bytes of one line, brings what stands at their home. -/
theorem homeRead_ok (ht : translate s pkg ctx va = .at_ h p key) (hline : va % 128 + n ≤ 128)
    (hread : readHome s pkg ctx va n = .bytes bs bad) : homeRead s pkg ctx va n kind gid .none = .ok s bs bad := by
  simp [homeRead, ht, homeUpset, hline, hread]

theorem homeRead_fault {up : Upset} (ht : translate s pkg ctx va = .fault h p c) :
    homeRead s pkg ctx va n kind gid up = .fault h p c := by
  simp [homeRead, ht]

end HomeRead

/-! ## A lane of a load -/

section LoadLane

variable {s : State} {l : Load} {a : LaneAcc} {op lane : Nat}

theorem mayRead_iff : mayRead s l a = true ↔
    acqPending s l.gid l.holders l.id = false ∧ linked s l.pkg l.ctx a.va = true ∧ staleAt s l.pkg l.ctx l.epoch a.va = false
      ∧ olderParked s l.gid l.holders l.id a.va = false
      ∧ ¬(l.plain = false ∧ olderWrite s l.gid l.holders l.id a.lane (lineOf a.va) = true)
      ∧ ¬(l.plain = false ∧ olderCoherent s l.gid l.holders l.id a.va l.width = true) := by
  cases hplain : l.plain <;> simp [mayRead, hplain, and_assoc]

theorem mayServe_iff : mayServe s l a = true ↔
    acqPending s l.gid l.holders l.id = false ∧ olderParked s l.gid l.holders l.id a.va = false ∧ a.replay = false
      ∧ ¬(l.plain = false ∧ olderCoherent s l.gid l.holders l.id a.va l.width = true) := by
  cases hplain : l.plain <;> simp [mayServe, hplain, and_assoc]

/-- A lane that may be read at its home, of no old epoch, is read there. -/
theorem performLane_home (hl : s.load? op = some l) (ha : waitingLane l.lanes lane = some a) (hr : mayRead s l a = true) (up : Upset) :
    performLane s op lane .home up = readLane s l a up := by
  obtain ⟨hacq, hlinked, hstale, hparked, -, hcoherent⟩ := mayRead_iff.mp hr
  simp only [performLane, hl, ha, hacq, hparked, hcoherent, hlinked, hstale]
  simp

theorem performLane_l1 (hl : s.load? op = some l) (ha : waitingLane l.lanes lane = some a) (hs : mayServe s l a = true) (k : Nat) (up : Upset) :
    performLane s op lane (.l1 k) up = readL1 s l a k up := by
  obtain ⟨hacq, hparked, hreplay, hcoherent⟩ := mayServe_iff.mp hs
  simp only [performLane, hl, ha, hacq, hparked, hcoherent, hreplay]
  simp

theorem performLane_guest (hl : s.load? op = some l) (ha : waitingLane l.lanes lane = some a) (hs : mayServe s l a = true) (k : Nat) (up : Upset) :
    performLane s op lane (.guest k) up = readGuest s l a k up := by
  obtain ⟨hacq, hparked, hreplay, hcoherent⟩ := mayServe_iff.mp hs
  simp only [performLane, hl, ha, hacq, hparked, hcoherent, hreplay]
  simp

/-- Without a soft error a lane brings what was noted at its load's issue, or else what its home holds. -/
theorem laneBytes_none (bs : List Byte) (bad : Bool) : laneBytes a bs bad .none =
    (if a.atIssue.isEmpty then bs else a.atIssue, if a.atIssue.isEmpty then bad else a.bad) := by
  have hhbm : (Upset.none == .hbmUnit) = false := by decide
  have hl2 : (Upset.none == .l2Dirty) = false := by decide
  cases hissue : a.atIssue.isEmpty <;> simp [laneBytes, hissue, hhbm, hl2]

theorem readLane_ok {bs : List Byte} {bad : Bool} (hr : mayRead s l a = true)
    (hread : homeRead s l.pkg l.ctx a.va l.width l.kind (recGid s l.gid) .none = .ok s bs bad) :
    readLane s l a .none = some (laneRead (registerLine s l (lineOf a.va)) l a
      (if a.atIssue.isEmpty then bs else a.atIssue) (if a.atIssue.isEmpty then bad else a.bad)
      (if l.plain then none else some (orderOf s l.ctx (lineOf a.va)))) := by
  obtain ⟨-, -, -, -, hwrite, -⟩ := mayRead_iff.mp hr
  unfold readLane
  rw [if_neg hwrite, hread]
  simp only [laneBytes_none]

theorem readLane_fault {h p c : Nat} (hr : mayRead s l a = true)
    (hread : homeRead s l.pkg l.ctx a.va l.width l.kind (recGid s l.gid) .none = .fault h p c) :
    readLane s l a .none = some (parkAccess (s.mapLoad l.id (fun l => { l with lanes := parkLanes a.va l.lanes }))
      l.gid l.ctx l.kind l.lanes a.va h p c) := by
  obtain ⟨-, -, -, -, hwrite, -⟩ := mayRead_iff.mp hr
  unfold readLane
  rw [if_neg hwrite, hread]

/-- A snapshot of the line serves a plain load that no later order forbids it. -/
theorem readL1_none {k : Nat} {c : Core} {sn : Snapshot} (hc : s.core? l.pkg l.core = some c) (hsn : (c.l1 ++ c.past)[k]? = some sn)
    (hline : sn.line = lineOf a.va) (hplain : l.plain = true) (hver : a.ver.all (sn.ver ≤ ·) = true) :
    readL1 s l a k .none = some (laneRead s l { a with near := true } (fromLine sn.bytes a.va l.width) false none) := by
  simp only [readL1, hc, hsn, coreUpset]
  exact if_pos ⟨hline, hplain, hver⟩

theorem readGuest_none {k : Nat} {gc : Guest} (hgc : s.guests[k]? = some gc) (hserves : guestServes s l a gc = true) :
    readGuest s l a k .none = some (laneRead s l { a with near := true } (fromLine gc.bytes a.va l.width) false
      (if l.plain then none else some gc.ver)) := by
  simp only [readGuest, hgc, coreUpset]
  exact if_pos hserves

end LoadLane

/-! ## LOAD_DELIVER of a load -/

section Deliver

variable {s : State} {l : Load} {op : Nat}

/-- A load that is performed and answered writes the registers of its use, whatever they are. -/
theorem loadDeliver_whole (hl : s.load? op = some l) (hperf : l.performed = true) (hans : lanesAnswered s l.pkg l.ctx l.lanes = true)
    (hwhole : anyFailed l.lanes = false) (hg : (s.group? l.gid).isSome = true) :
    loadDeliver s op = some (standWrites (putWords (s.dropLoad l.id) l.gid (firstHolder l.holders) (l.use.regs.headD 0) l.mask l.mask.lowest
      (laneVals l.lanes l.use.once l.use.val) l.use.regs.length) l) := by
  obtain ⟨g, hg⟩ := Option.isSome_iff_exists.mp hg
  simp [loadDeliver, hl, deliverLoad, hperf, hans, hg, hwhole]

theorem loadDeliver_denied (hl : s.load? op = some l) (hperf : l.performed = true) (hans : lanesAnswered s l.pkg l.ctx l.lanes = true)
    (hfailed : anyFailed l.lanes = true) (hwin : l.windowed = false) (hg : (s.group? l.gid).isSome = true) :
    loadDeliver s op = some (endDeniedLoad s l) := by
  obtain ⟨g, hg⟩ := Option.isSome_iff_exists.mp hg
  simp [loadDeliver, hl, deliverLoad, hperf, hans, hg, hfailed, hwin]

theorem memRegs_pos (ty : Nat) : 0 < memRegs ty := by
  match ty with
  | 0 | 1 | 2 => decide
  | _ + 3 => exact Nat.one_pos

theorem regs_reg_headD (d ty : Nat) (once : Bool) : (LoadUse.reg d ty once).regs.headD 0 = d := by
  obtain ⟨m, hm⟩ := Nat.exists_eq_succ_of_ne_zero (Nat.ne_of_gt (memRegs_pos ty))
  simp only [LoadUse.regs, hm, List.range_succ_eq_map, List.map_cons, List.headD_cons, Nat.add_zero]

theorem regs_reg_length (d ty : Nat) (once : Bool) : (LoadUse.reg d ty once).regs.length = memRegs ty := by
  simp [LoadUse.regs]

end Deliver

/-! ## A line of a matrix step, a unit of an engine operation, a unit of a definition's image -/

section Units

variable {s : State} {u h p c : Nat} {bs : List Byte} {bad : Bool}

theorem stepLineReads_iff {st : Step} : stepLineReads s st u = true ↔
    (stepLines st).contains u = true ∧ st.fetched.any (fun f => f.line == u) = false
      ∧ st.parked.any (fun p => pageVa (128 * p) == pageVa (vaFull (128 * u))) = false ∧ st.lost.contains u = false
      ∧ linkedBoth s st.pkg st.ctx (vaFull (128 * u)) = true ∧ acqPending s st.gid st.holders st.id = false
      ∧ olderWrite s st.gid st.holders st.id 0 u = false ∧ olderParked s st.gid st.holders st.id (vaFull (128 * u)) = false
      ∧ staleAt s st.pkg st.ctx st.epoch (vaFull (128 * u)) = false := by
  simp only [stepLineReads, Bool.and_eq_true, Bool.not_eq_true', and_assoc]

theorem engUnitReads_iff {e : Eng} {q : Nat × Nat} : engUnitReads s e u q = true ↔
    (e.got u).isSome = false ∧ e.parked.isEmpty = true ∧ acqPending s e.gid e.holders e.id = false ∧ engBehind s e q = false
      ∧ linkedBoth s e.pkg e.ctx q.1 = true ∧ e.lost.contains (false, u) = false ∧ engWaits s e q true = false
      ∧ staleAt s e.pkg e.ctx e.epoch q.1 = false := by
  simp only [engUnitReads, Bool.and_eq_true, Bool.not_eq_true', and_assoc, Option.isSome_eq_false_iff]

theorem defUnitReads_iff {o : DefOp} {q : Nat × Nat} : defUnitReads s o u q = true ↔
    o.load = true ∧ o.lead = true ∧ o.code.isSome = false ∧ o.units.any (fun v => v.1 == u) = false
      ∧ acqPending s o.gid o.holders o.id = false ∧ o.lost.contains u = false
      ∧ (unitLines q).any (fun l => olderWrite s o.gid o.holders o.id 0 l) = false ∧ olderParked s o.gid o.holders o.id q.1 = false
      ∧ linkedBoth s o.pkg o.ctx q.1 = true ∧ staleAt s o.pkg o.ctx o.epoch q.1 = false := by
  simp only [defUnitReads, Bool.and_eq_true, Bool.not_eq_true', and_assoc, Option.isSome_eq_false_iff]

/-- A line of a step that is read next is taken, or raises UNCORR where it is poisoned; one of a page that is not mapped parks. -/
theorem performStepLine_of_reads {st : Step} (hst : s.step? st.id = some st) (hr : stepLineReads s st u = true) :
    (homeRead s st.pkg st.ctx (vaFull (128 * u)) 128 5 (recGid s st.gid) .none = .ok s bs bad →
      performStepLine s st.id u .none = some (if bad then raiseUncorr s st.pkg st.ctx st.core (stepAddr st u)
        else s.mapStep st.id (fun st => { st with fetched := st.fetched ++ [{ line := u, bytes := bs }] })))
    ∧ (homeRead s st.pkg st.ctx (vaFull (128 * u)) 128 5 (recGid s st.gid) .none = .fault h p c →
      performStepLine s st.id u .none = some (faultRec (s.mapStep st.id (fun st => { st with parked := st.parked ++ [u] })) h st.ctx 5 c false
        (recGid s st.gid) (stepAddr st u) p 0)) := by
  obtain ⟨hline, hfetched, hparked, hlost, hlinked, hacq, hwrite, holder, hstale⟩ := stepLineReads_iff.mp hr
  constructor <;> intro hread <;>
    simp only [performStepLine, hst, hline, hfetched, hparked, hlost, hlinked, hacq, hwrite, holder, hstale, hread] <;> simp

/-- A unit of an engine operation that is read next stays with the operation, with the poison it carries; one of a page that is not
mapped parks the operation. -/
theorem performEngRead_of_reads {e : Eng} {r : EngRow} {q : Nat × Nat} (he : s.eng? e.id = some e)
    (hunit : unitOf (readRow s e) u = some (r, q)) (hr : engUnitReads s e u q = true) :
    (homeRead s e.pkg e.ctx q.1 q.2 (engRecKind e) (recGid s e.gid) .none = .ok s bs bad →
      performEngRead s e.id u .none = some (afterRead (s.mapEng e.id (fun d =>
        { d with reads := d.reads ++ [(u, bs)], poison := unitPoison s d u q ++ d.poison })) e.id))
    ∧ (homeRead s e.pkg e.ctx q.1 q.2 (engRecKind e) (recGid s e.gid) .none = .fault h p c →
      performEngRead s e.id u .none = some (parkEng s e q.1 h p c)) := by
  obtain ⟨hgot, hparked, hacq, hbehind, hlinked, hlost, hwaits, hstale⟩ := engUnitReads_iff.mp hr
  constructor <;> intro hread <;>
    simp only [performEngRead, he, hunit, hgot, hparked, hacq, hbehind, hlinked, hlost, hwaits, hstale, hread] <;> simp

/-- A unit of an image that is read next is taken; a poisoned one, or one of a page that is not mapped, ends the load with 0x3A. -/
theorem performDefUnit_of_reads {o : DefOp} {q : Nat × Nat} (ho : s.defOp? o.id = some o) (hunit : defUnit o u = some q)
    (hr : defUnitReads s o u q = true) :
    (homeRead s o.pkg o.ctx q.1 q.2 0 (recGid s o.gid) .none = .ok s bs bad →
      performDefUnit s o.id u .none = some (if bad then endDefLoad s o 0x3A
        else s.mapDefOp o.id (fun o => { o with units := o.units ++ [(u, bs)] })))
    ∧ (homeRead s o.pkg o.ctx q.1 q.2 0 (recGid s o.gid) .none = .fault h p c →
      performDefUnit s o.id u .none = some (endDefLoad s o 0x3A)) := by
  obtain ⟨hload, hlead, hcode, hunits, hacq, hlost, hwrite, holder, hlinked, hstale⟩ := defUnitReads_iff.mp hr
  constructor <;> intro hread <;>
    simp only [performDefUnit, ho, hunit, hload, hlead, hcode, hunits, hacq, hlost, hwrite, holder, hlinked, hstale, hread] <;> simp

end Units

/-- Settles O31: each clause's guard lets its read or its delivery go on, and the read's own lemma says what it brings. -/
theorem loadEventsComplete : Obligations.LoadEventsComplete := by
  refine ⟨fun s l a op lane h p key bs bad hl => ⟨?_, ?_, ?_, ?_, ?_, ?_, ?_⟩, fun s op u bs bad h p c => ⟨?_, ?_, ?_⟩⟩
  · intro ha hr ht hline hread
    exact ifEnabled_some ((performLane_home hl ha hr .none).trans (readLane_ok hr (homeRead_ok ht hline hread)))
  · intro ha hr ht
    exact ifEnabled_some ((performLane_home hl ha hr .none).trans (readLane_fault hr (homeRead_fault ht)))
  · intro k c sn ha hs hc hsn hline hplain hver
    exact ifEnabled_some ((performLane_l1 hl ha hs k .none).trans (readL1_none hc hsn hline hplain hver))
  · intro k gc ha hs hgc hserves
    exact ifEnabled_some ((performLane_guest hl ha hs k .none).trans (readGuest_none hgc hserves))
  · intro d ty once hperf hans hwhole hg huse
    refine ifEnabled_some ((loadDeliver_whole hl hperf hans hwhole hg).trans ?_)
    rw [huse, regs_reg_headD, regs_reg_length]
    rfl
  · intro d once hperf hans hwhole hg huse
    refine ifEnabled_some ((loadDeliver_whole hl hperf hans hwhole hg).trans ?_)
    rw [huse]
    rfl
  · exact fun hperf hans hfailed hwin hg => ifEnabled_some (loadDeliver_denied hl hperf hans hfailed hwin hg)
  · rintro st hst rfl hr
    exact (performStepLine_of_reads hst hr).imp (ifEnabled_some ∘ ·) (ifEnabled_some ∘ ·)
  · rintro e r q he rfl hunit hr
    exact (performEngRead_of_reads he hunit hr).imp (ifEnabled_some ∘ ·) (ifEnabled_some ∘ ·)
  · rintro o q ho rfl hunit hr
    exact (performDefUnit_of_reads ho hunit hr).imp (ifEnabled_some ∘ ·) (ifEnabled_some ∘ ·)

end Sys2Proof.Machine

/-! SUPPORT. Context faults, unreachable packages, KEY and GET_CTXMEAS (R23, R276, R280 to R283, R408, R416, R421): the next state of each where its
conditions hold. -/

namespace Sys2Proof.Machine

open Sys2Proof

/-! ## Faults of a context -/

section ContextFaults

variable {s : State} {pkg ctx : Nat} {c : Ctx} (hc : s.ctx? pkg ctx = some c)
include hc

theorem contextFault_coreArray (hfault : c.canFault = true) : contextFault s pkg ctx .coreArray = some (raiseUncorr s pkg ctx 0xFFFFFFFF 0) := by
  simp [contextFault, hc, hfault]

theorem contextFault_sharedArray (hfault : c.canFault = true) : contextFault s pkg ctx .sharedArray = some (deviceFault s pkg) := by
  simp [contextFault, hc, hfault]

/-- A fault of another package of the span enters with the tick of its raise, and is no longer on its way. -/
theorem peerFault_some {raiser t : Nat} (hfocus : s.focus = (pkg, ctx)) (hpeer : c.peer = some (raiser, t)) :
    peerFault s = some ((enterFaulted s pkg ctx { cause := 0x23, pkg := raiser, tick := t }).mapCtx pkg ctx (fun c => { c with peer := none })) := by
  simp only [peerFault, hfocus, hc, hpeer]

end ContextFaults

/-- A package that has had no way to another for 2^17 ticks drops its traffic there and faults the contexts that span it. -/
theorem packageUnreachable_some {s : State} {pkg target : Nat} {p : Pkg} (hp : s.pkg? pkg = some p) (hdown : routeUp s pkg target = false)
    (hsince : unreachSince p target + 2 ^ 17 ≤ s.tick) :
    packageUnreachable s pkg target = some ((s.ctxs.filter (fun c => c.pkg == pkg && c.span.contains target && c.canFault)).foldl
      (faultUnreachable pkg target) (dropBound s pkg target)) := by
  have hdue : ¬(routeUp s pkg target = true ∨ s.tick < unreachSince p target + unreachTicks) := by
    rintro (hup | hearly)
    · simp [hdown] at hup
    · exact absurd hsince (Nat.not_le.mpr hearly)
  simp only [packageUnreachable, hp]
  exact if_neg hdue

/-! ## KEY and GET_CTXMEAS over a link that is up -/

section Messages

variable {s : State} {pkg ctx : Nat} {p : Pkg} (hp : s.pkg? pkg = some p) (hrate : p.rate ≠ 0) (hbroken : p.broken = false)
include hp hrate hbroken

theorem keyMsg_good {c : Ctx} {digest key xfer iv : List Byte} (hc : s.ctx? pkg ctx = some c) (hgood : keyGood p c digest key xfer iv = true) :
    keyMsg s pkg ctx digest key xfer iv = some (answer (s.mapCtx pkg ctx (fun c =>
      { c with state := .keyed, key := key, xfer := if c.xferOn then xfer else [], iv := if c.xferOn then iv else [], last := 0 })) pkg .ok) := by
  simp [keyMsg, hp, hrate, hbroken, hc, hgood]

theorem keyMsg_bad {c : Ctx} {digest key xfer iv : List Byte} (hc : s.ctx? pkg ctx = some c) (hbad : keyGood p c digest key xfer iv = false) :
    keyMsg s pkg ctx digest key xfer iv = some (answer s pkg .error) := by
  simp [keyMsg, hp, hrate, hbroken, hc, hbad]

theorem getCtxmeas_inSession {c : Ctx} {nonce : List Byte} (hc : s.ctx? pkg ctx = some c) (hsess : p.sess = true) (hnonce : nonce.length = 32) :
    getCtxmeas s pkg ctx nonce = some (answer s pkg (.bytes (ctxMeasBytes (some c) pkg ctx nonce))) := by
  simp [getCtxmeas, hp, hrate, hbroken, hc, hsess, hnonce]

theorem getCtxmeas_noSession {nonce : List Byte} (hsess : p.sess = false) : getCtxmeas s pkg ctx nonce = some (answer s pkg .error) := by
  simp [getCtxmeas, hp, hrate, hbroken, hsess]

end Messages

/-- Settles O41: each clause's conditions are the guard of its event, whose own lemma gives the next state. -/
theorem faultAndKeyEventsComplete : Obligations.FaultAndKeyEventsComplete := by
  refine ⟨fun s pkg ctx c hc => ⟨?_, ?_, ?_, ?_⟩, fun s pkg ctx p c digest key xfer iv nonce hp hrate hbroken hc => ⟨?_, ?_, ?_, ?_⟩⟩
  · exact fun hfault => ifEnabled_some (contextFault_coreArray hc hfault)
  · exact fun hfault => ifEnabled_some (contextFault_sharedArray hc hfault)
  · exact fun raiser t hfocus hpeer => ifEnabled_some (peerFault_some hc hfocus hpeer)
  · exact fun p target hp hdown hsince => ifEnabled_some (packageUnreachable_some hp hdown hsince)
  · exact fun hgood => ifEnabled_some (keyMsg_good hp hrate hbroken hc hgood)
  · exact fun hbad => ifEnabled_some (keyMsg_bad hp hrate hbroken hc hbad)
  · exact fun hsess hnonce => ifEnabled_some (getCtxmeas_inSession hp hrate hbroken hc hsess hnonce)
  · exact fun hsess => ifEnabled_some (getCtxmeas_noSession hp hrate hbroken hsess)

end Sys2Proof.Machine

/-! SUPPORT. Abort lines (R43, R345, R346), the groups of a core placed, retired, saved and restored (R31 to R33, R207, R316, R332, R337), nodes moved
(R46, R322), launches verified and instances completed (R308, R314): the next state of each where its conditions hold. -/

namespace Sys2Proof.Machine

open Sys2Proof

/-- Settles O23: both forms issue as their bodies say. -/
theorem abortLinesComplete : Obligations.AbortLinesComplete := by
  intro s x act w lv hlv
  subst hlv
  exact ⟨issueWith_ready, issueWith_ready⟩

/-! ## GROUP_PLACE -/

/-- A debit of the reservation changes the packages alone. -/
theorem debitCore_eq (s : State) (k : Inst) (pkg core : Nat) : ∃ ps, debitCore s k pkg core = { s with pkgs := ps } := by
  unfold debitCore
  split
  · exact ⟨s.pkgs, rfl⟩
  · exact ⟨_, rfl⟩

/-- Opening a core changes the cores alone. -/
theorem openCore_eq (s : State) (k : Inst) (pkg core : Nat) : ∃ cs, openCore s k pkg core = { s with cores := cs } := by
  unfold openCore
  split
  · split
    · exact ⟨s.cores, rfl⟩
    · exact ⟨_, rfl⟩
  · exact ⟨_, rfl⟩

/-- A seated group is the last of the groups, and its instance counts it; beside them only packages, cores and the next number change. -/
theorem seat_eq {s : State} {p : Pkg} {core slot : Nat} (k : Inst) (rank : Nat) (hp : s.pkg? p.num = some p)
    (hslot : freeSlotOf s p core = some slot) :
    ∃ ps cs, seat s k rank p.num core = State.mapInst
      { s with pkgs := ps, cores := cs, groups := s.groups ++ [placedGroup s k p rank core slot], nextId := s.nextId + 1 }
      k.id (fun k => { k with placed := k.placed ++ [{ rank := rank, pkg := p.num, core := core }] }) := by
  obtain ⟨ps, hdebit⟩ := debitCore_eq s k p.num core
  obtain ⟨cs, hopen⟩ := openCore_eq { s with pkgs := ps } k p.num core
  refine ⟨ps, cs, ?_⟩
  simp only [seat, hp, hslot, placedGroup, hdebit, hopen]

section Seat

variable {s : State} {k : Inst} {p : Pkg} {core slot : Nat} (hp : s.pkg? p.num = some p) (hslot : freeSlotOf s p core = some slot) (rank : Nat)
include hp hslot

theorem seat_groups : (seat s k rank p.num core).groups = s.groups ++ [placedGroup s k p rank core slot] := by
  obtain ⟨ps, cs, h⟩ := seat_eq k rank hp hslot
  rw [h, State.mapInst_groups]

theorem seat_inst (hk : s.inst? k.id = some k) : (seat s k rank p.num core).inst? k.id =
    some { k with placed := k.placed ++ [{ rank := rank, pkg := p.num, core := core }] } := by
  obtain ⟨ps, cs, h⟩ := seat_eq k rank hp hslot
  rw [h, State.inst_mapInst]
  · exact congrArg (Option.map _) hk
  · exact fun _ => rfl

theorem seat_sameMemory : sameMemory s (seat s k rank p.num core) := by
  obtain ⟨ps, cs, h⟩ := seat_eq k rank hp hslot
  rw [h]
  exact ⟨fun _ => rfl, fun _ => rfl⟩

end Seat

/-- Where a group may be placed, no launch goes first and the group finds its seat. -/
theorem groupPlace_some {s : State} {k : Inst} {inst rank pkg core : Nat} (hk : s.inst? inst = some k)
    (hmay : mayPlace s k rank pkg core = true) :
    groupPlace s inst rank pkg core = some (launchPlaced (seat s k rank pkg core) k) := by
  simp only [mayPlace, Bool.and_eq_true, Bool.not_eq_true', decide_eq_true_eq] at hmay
  obtain ⟨⟨⟨⟨⟨⟨hpending, hrank⟩, hplaced⟩, hseat⟩, hrestore⟩, hfirst⟩, hroom⟩ := hmay
  have hone : placeOne s k rank pkg core = some (seat s k rank pkg core) := by
    simp [placeOne, hpending, Nat.not_le.mpr hrank, hplaced, hseat, hrestore, hroom]
  simp [groupPlace, hk, hfirst, hone]

/-- Only the first group of a launch moves its queue's level. -/
theorem launchPlaced_of_begun {k : Inst} (t : State) (h : k.placed ≠ []) : launchPlaced t k = t := by
  unfold launchPlaced
  split
  · rw [if_neg (by simpa using h)]
  · rfl

/-! ## GROUP_RETIRE, GROUP_SAVE and GROUP_RESTORE of a group that is there -/

section OfGroup

variable {s : State} {g : Group} {k : Inst} (hg : s.group? g.id = some g) (hk : s.inst? g.inst = some k)
include hg hk

theorem groupRetire_eq (hsplits : g.splits = []) (hkids : g.kids = 0) (hquiet : groupQuiet s g.id = true)
    (hstate : g.state = .active ∨ g.state = .kidwait ∨ g.state = .resident) :
    groupRetire s g.id = (leaveCore (groupGone s g k) k g.pkg g.core).state := by
  have hgo : ¬(g.splits.isEmpty = false ∨ g.kids ≠ 0 ∨ groupQuiet s g.id = false
      ∨ (g.state ≠ .active ∧ g.state ≠ .kidwait ∧ g.state ≠ .resident)) := by
    rcases hstate with h | h | h <;> simp [hsplits, hkids, hquiet, h]
  simp only [groupRetire, hg, hk, if_neg hgo]
  rfl

theorem groupSave_eq (hunit : saveUnit s k g ≠ []) : groupSave s g.id = saveStep s (saveUnit s k g) saveAll := by
  simp only [groupSave, hg, hk]

theorem groupRestore_eq (core : Nat) : groupRestore s g.id core =
    ((restoreOne s g.id core).bind (restoreRest (restoreUnit s k g))).filter (keepsRoom s · k.id) := by
  simp only [groupRestore, hg, hk]

/-- A saved group whose records are intact enters a core that admits it. -/
theorem restoreOne_some {core slot : Nat} {c : Ctx} {p : Pkg} {cr : Core} {u : State} (hc : s.ctx? g.pkg g.ctx = some c)
    (hp : s.pkg? g.pkg = some p) (hsaved : g.state = .saved) (hruns : ctxRuns s g.pkg g.ctx = true) (hhold : mayHold s k c g.pkg core = true)
    (hinside : insideNodes s k g.rank g.pkg core false = true) (hrec : badRecord s g core = none)
    (htarget : targetCore (debitCore s k g.pkg core) k g core = some u) (hslot : freeSlotOf s p core = some slot)
    (hcr : u.core? g.pkg core = some cr) (hfits : rltFits cr = true) : restoreOne s g.id core = some (enterCore u g p core slot) := by
  simp [restoreOne, hg, hk, hc, hp, hsaved, hruns, hhold, hinside, hrec, htarget, hslot, hcr, hfits]

end OfGroup

section SaveStep

variable {s u : State} {gs : List Group} {save : List Group → State → Saved}
  (hu : u = gs.foldl (fun s g => if g.saving then s else beginSave s g) s)
include hu

/-- A save that is not over yet stops its groups' issue. -/
theorem saveStep_begins (hfresh : gs.any (fun o => !o.saving) = true) (hbusy : (currentGroups u gs).all (saveReady u) = false) :
    saveStep s gs save = some u := by
  simp only [saveStep, ← hu, hfresh, hbusy, if_true, Bool.false_eq_true, if_false]

/-- A save whose groups are drained ends. -/
theorem saveStep_ends {t : State} (hready : (currentGroups u gs).all (saveReady u) = true) (hsave : save (currentGroups u gs) u = .ok t) :
    saveStep s gs save = some t := by
  simp only [saveStep, ← hu, hready, hsave, if_true, Saved.state]

end SaveStep

/-- Settles O36: GROUP_PLACE by what a seat takes and changes, and the other steps by the guards of their functions. -/
theorem groupEventsComplete : Obligations.GroupEventsComplete := by
  refine ⟨fun s t inst rank core slot k p hk hid hp hmay hslot ht => ?_, fun s g k hg hk => ⟨?_, fun u hunit hu => ⟨?_, ?_⟩, ?_⟩⟩
  · subst hid ht
    exact ⟨ifEnabled_some (groupPlace_some hk hmay), seat_groups hp hslot rank, seat_inst hp hslot rank hk, seat_sameMemory hp hslot rank,
      launchPlaced_of_begun _⟩
  · intro t hsplits hkids hquiet hstate hleave
    exact ifEnabled_some ((groupRetire_eq hg hk hsplits hkids hquiet hstate).trans hleave)
  · intro hfresh hbusy
    exact ifEnabled_some ((groupSave_eq hg hk hunit).trans (saveStep_begins hu hfresh hbusy))
  · intro t hready hsave
    exact ifEnabled_some ((groupSave_eq hg hk hunit).trans (saveStep_ends hu hready hsave))
  · intro core slot c p cr u t hc hp hsaved hruns hhold hinside hrec htarget hslot hcr hfits _ hrest hroom
    refine ifEnabled_some ?_
    rw [groupRestore_eq hg hk, restoreOne_some hg hk hc hp hsaved hruns hhold hinside hrec htarget hslot hcr hfits]
    simp [hrest, hroom]

/-! ## NODE_MOVE -/

/-- A move of a node's groups begins, or ends where they are drained (R322). -/
def moveStep (s : State) (k : Inst) (level node pkg a b : Nat) (gs : List Group) : Option State :=
  let fresh := gs.any (fun g => !g.saving)
  let u := gs.foldl (fun s g => if g.saving then s else beginMove s g) s
  if (currentGroups u gs).all (saveReady u) then
    (moveNow u k level node pkg a b (currentGroups u gs)).or (if fresh then some u else none)
  else if fresh then some u
  else none

/-- Where a node is one that NODE_MOVE is for, its move goes on, or is given up where it can no longer be made. -/
theorem nodeMove_eq {s : State} {k : Inst} {id level node core : Nat} {g : Group} {rest : List Group} (hk : s.inst? id = some k)
    (hgs : s.groups.filter (fun g => g.inst == id && g.rank / groupSize k.levels level == node && g.state != .saved) = g :: rest)
    (hlevel : level < treeL k.levels) (hbind : bindOf k.levels level = 2) (hcore : core ≠ g.core) (hfield : fieldOf core = fieldOf g.core)
    (hother : heldByOther s id g.pkg core = false) (hawaits : nodeAwaits s g.pkg g.core (g :: rest) = true) (hruns : ctxRuns s g.pkg g.ctx = true) :
    nodeMove s id level node core =
      if (g :: rest).any (fun o => o.saving && !o.moving) = true ∨ (moveTo s k level node g.pkg g.core core (g :: rest)).isNone = true
      then giveUpMove s (g :: rest) else moveStep s k level node g.pkg g.core core (g :: rest) := by
  simp only [nodeMove, hk, hgs, Nat.not_le.mpr hlevel, hbind, hcore, hfield, hother, hawaits, hruns]
  simp only [ne_eq, not_true_eq_false, Bool.false_eq_true, Bool.true_eq_false, false_or]
  rfl

theorem giveUpMove_some {gs : List Group} (s : State) (hmoving : gs.any (·.moving) = true) : ∃ t, giveUpMove s gs = some t :=
  ⟨_, if_pos hmoving⟩

section MoveStep

variable {s u : State} {k : Inst} {level node pkg a b : Nat} {gs : List Group}
  (hu : u = gs.foldl (fun s g => if g.saving then s else beginMove s g) s)
include hu

theorem moveStep_begins (hfresh : gs.any (fun o => !o.saving) = true) (hbusy : (currentGroups u gs).all (saveReady u) = false) :
    moveStep s k level node pkg a b gs = some u := by
  simp only [moveStep, ← hu, hfresh, hbusy, if_true, Bool.false_eq_true, if_false]

theorem moveStep_ends {t : State} (hready : (currentGroups u gs).all (saveReady u) = true)
    (hmove : moveNow u k level node pkg a b (currentGroups u gs) = some t) : moveStep s k level node pkg a b gs = some t := by
  simp only [moveStep, ← hu, hready, hmove, if_true, Option.some_or]

end MoveStep

/-! ## LAUNCH_VERIFY and INSTANCE_COMPLETE -/

section OfInst

variable {s : State} {id : Nat} {k : Inst} (hk : s.inst? id = some k)
include hk

theorem launchVerify_some {area : Nat} {c : Ctx} {t : State} (hc : s.ctx? k.pkg k.ctx = some c)
    (hstate : c.state = .running ∨ c.state = .resident) (hverify : verifyFrom id area 4 s = .on t ∨ verifyFrom id area 4 s = .done t) :
    launchVerify s id area = some t := by
  rcases hverify with h | h <;> simp only [launchVerify, hk, hc, if_pos hstate, h]

variable (hstate : k.state = .retiring) (hdue : k.maxCt + skewOf (completionBind s k) ≤ homeNow s k.pkg)
include hstate hdue

theorem instanceComplete_noWord (hword : k.cwaddr = 0) : instanceComplete s id = some (completeInst s k 0) := by
  simp [instanceComplete, hk, hstate, Nat.not_lt.mpr hdue, hword]

theorem instanceComplete_word {e : PtEntry} (hword : k.cwaddr ≠ 0)
    (hmeet : meetPages s (.completion k.id) k.pkg k.ctx 11 (launchGid s k) k.cwaddr 4 = .go)
    (hfree : lineHeld s k.pkg k.ctx k.cwaddr = false) (hroute : routeOf s k.pkg k.ctx k.cwaddr = some e) :
    instanceComplete s id = some (completeInst (writeHome s k.pkg k.ctx k.cwaddr (toLE 4 k.cwval.toNat)) k
      (writeCt s k.pkg e.home k.ctx (lineOf k.cwaddr))) := by
  simp [instanceComplete, hk, hstate, Nat.not_lt.mpr hdue, hword, hmeet, hfree, hroute]

end OfInst

/-- Settles O37: a move by the two ways NODE_MOVE goes, and the other steps by the guards of their functions. -/
theorem instanceEventsComplete : Obligations.InstanceEventsComplete := by
  intro s id k hk
  refine ⟨fun level node core g rest hgs hlevel hbind hcore hfield hother hawaits hruns => ?_, ?_, ?_, ?_⟩
  · have hstep := nodeMove_eq hk hgs hlevel hbind hcore hfield hother hawaits hruns
    refine ⟨fun hstops hmoving => ?_, fun u hmoves hsaves hu => ?_⟩
    · obtain ⟨t, ht⟩ := giveUpMove_some s hmoving
      exact ⟨t, ifEnabled_some ((hstep.trans (if_pos hstops.symm)).trans ht), ht⟩
    · have hgo : nodeMove s id level node core = moveStep s k level node g.pkg g.core core (g :: rest) :=
        hstep.trans (if_neg (by simp [hsaves, Option.isSome_iff_ne_none.mp hmoves]))
      exact ⟨fun hfresh hbusy => ifEnabled_some (hgo.trans (moveStep_begins hu hfresh hbusy)),
        fun t hready hmove => ifEnabled_some (hgo.trans (moveStep_ends hu hready hmove))⟩
  · exact fun area c t hc hstate hverify => ifEnabled_some (launchVerify_some hk hc hstate hverify)
  · exact fun hstate hdue hword => ifEnabled_some (instanceComplete_noWord hk hstate hdue hword)
  · exact fun e hstate hdue hword hmeet hfree hroute => ifEnabled_some (instanceComplete_word hk hstate hdue hword hmeet hfree hroute)

end Sys2Proof.Machine

/-! SUPPORT. The special functions (R75 to R77, R191): what a result held to the bound of R75 can be, and which candidate's result sfuBits is. -/

namespace Sys2Proof.Machine

open Sys2Proof

/-- What R75 lets a result r be, n ulp being the bound and v the reference: the reference rounded, a value within the bound of it, or, where
it is beyond the largest finite value, that value or the infinity. -/
def SfuAdmits (n : Nat) (v : FVal) (r : Nat) : Prop :=
  r = fp32.encode .rne v
    ∨ withinUlps n (fv32 (BitVec.ofNat 32 r)) v = true
    ∨ ∃ (neg : Bool) (m : Nat) (e : Int), v = .fin neg m e ∧ cmpMag m e (2 ^ 24 - 1) 104 = .gt
        ∧ (r = fp32.bits neg fp32.maxCode ∨ r = fp32.encode .rne (.inf neg))

/-- Whatever the candidate is, its result is one that R75 admits. -/
theorem boundSfu_admits (n : Nat) (v : FVal) (cand : Word) : SfuAdmits n v (boundSfu n v cand) := by
  cases v with
  | nan => exact .inl rfl
  | inf neg => exact .inl rfl
  | fin neg m e =>
    simp only [boundSfu]
    split
    · next hover =>
      refine .inr (.inr ⟨neg, m, e, rfl, beq_iff_eq.mp hover, ?_⟩)
      split
      · exact .inr rfl
      · exact .inl rfl
    · split
      · next hwithin => exact .inr (.inl (by rwa [BitVec.ofNat_toNat, BitVec.setWidth_eq]))
      · exact .inl rfl

/-- Where R76 and R77 fix the value, no candidate changes it. -/
theorem sfuOf_of_exact {op r : Nat} {a : Word} (cand : Word → Word) (h : sfuExact op (fv32 a) = some r) : sfuOf op cand a = r := by
  simp only [sfuOf, h]

/-- Elsewhere the candidate is held to the bound around the model's reference. -/
theorem sfuOf_of_inexact {op : Nat} {a : Word} (cand : Word → Word) (h : sfuExact op (fv32 a) = none) :
    sfuOf op cand a = boundSfu (sfuUlps op) (sfuReference op a) (cand a) := by
  simp only [sfuOf, sfuReference, h]
  cases fv32 a with
  | nan => rfl
  | inf neg => rfl
  | fin neg m e => cases m <;> rfl

/-- sfuBits takes one candidate at every operand; for a function of R77 it is one whose results keep the order, or the rounded reference. -/
theorem sfuBits_candidate (op : Nat) : ∃ cand : Word → Word, sfuBits op = sfuOf op cand
    ∧ (sfuMonotonic op = true → keepsOrder (sfuOf op cand) ∨ cand = sfuRounded op) := by
  by_cases hfree : sfuMonotonic op = false ∨ keepsOrder (sfuOf op (Config.sfu op))
  · refine ⟨Config.sfu op, funext fun a => ?_, fun hmono => .inl (hfree.resolve_left (by simp [hmono]))⟩
    simp only [sfuBits, if_pos hfree]
    split
    · next h => exact (sfuOf_of_exact _ h).symm
    · rfl
  · refine ⟨sfuRounded op, funext fun a => ?_, fun _ => .inr rfl⟩
    simp only [sfuBits, if_neg hfree]
    split
    · next h => exact (sfuOf_of_exact _ h).symm
    · rfl

theorem sfuBits_of_exact {op r : Nat} {a : Word} (h : sfuExact op (fv32 a) = some r) : sfuBits op a = r := by
  obtain ⟨cand, hcand, -⟩ := sfuBits_candidate op
  rw [hcand, sfuOf_of_exact cand h]

theorem sfuBits_admits {op : Nat} {a : Word} (h : sfuExact op (fv32 a) = none) : SfuAdmits (sfuUlps op) (sfuReference op a) (sfuBits op a) := by
  obtain ⟨cand, hcand, -⟩ := sfuBits_candidate op
  rw [hcand, sfuOf_of_inexact cand h]
  exact boundSfu_admits ..

theorem sfuBits_monotonic {op : Nat} (hmono : sfuMonotonic op = true) :
    keepsOrder (sfuBits op) ∨ ∀ a : Word, sfuBits op a = sfuOf op (sfuRounded op) a := by
  obtain ⟨cand, hcand, horder⟩ := sfuBits_candidate op
  rw [hcand]
  exact (horder hmono).imp_right fun hrounded a => by rw [hrounded]

/-- Settles O6: each function issues as its body says, and its values are those of one candidate held to R75 to R77. -/
theorem specialFunctionResults : Obligations.SpecialFunctionResults := by
  intro s x act w
  refine ⟨?rcp, ?rsq, ?sqrt, ?exp2, ?log2, ?exp, ?log, ?sin, ?cos, ?tanh, ?fdiv, ?exact_, ?bound, ?order⟩
  case exact_ => exact fun op r a => sfuBits_of_exact
  case bound => exact fun op a => sfuBits_admits
  case order => exact fun op => sfuBits_monotonic
  all_goals exact issueWith_ready

end Sys2Proof.Machine

/-! SUPPORT. The system instructions (R105, R209, R216 to R218): when a WAITT passes, and what SWR does to each register it may write. -/

namespace Sys2Proof.Machine

open Sys2Proof

/-- An issue by a ready split whose body takes effect goes on at the next word. -/
theorem issueWith_done {s t : State} {x : Iss} {f : Form} {act : Mask} {body : Iss → Mask → State → Res} (h : Runs s x f act)
    (hbody : body x act s = .done t) : issueWith s f body = .next (finish t x f) := by
  rw [issueWith_ready h, hbody]; rfl

/-- An issue by a ready split whose body traps takes the trap at the split's place, where no FENCES window stalls it (R155). -/
theorem issueWith_trap {s : State} {x : Iss} {f : Form} {act : Mask} {body : Iss → Mask → State → Res} {t : Trap} (h : Runs s x f act)
    (hbody : body x act s = .trap t) (hwindow : x.sp.window = none) :
    issueWith s f body = .next (takeTrap s x.g x.sp x.k t x.sp.at) := by
  rw [issueWith_ready h, hbody]
  exact congrArg _ (if_neg (by simp [hwindow]))

/-- A region that the image has is recorded (R209). -/
theorem bodyRgn_known {s : State} {x : Iss} {i : FmtI} {live : LiveIn} (act : Mask) (hlive : x.k.regions[i.imm.toNat]? = some live) :
    bodyRgn i x act s = .done (s.mapSplit x.g.id x.sp.id (fun sp => { sp with region := some {
      hdr := x.sp.hdr, st := x.sp.st, mask := x.sp.mask, live := live, clean := true } })) := by
  simp only [bodyRgn, hlive]

/-- A wait whose tick has come changes nothing (R216). -/
theorem waitUntil_reached {s : State} {x : Iss} {t : Nat} (f : Form) (hcome : x.sp.waitt.getD t ≤ nowOf s x.g) : waitUntil f x t s = .done s :=
  if_pos hcome

section Swr

/-! ## SWR by the number it names (R218) -/

variable {i : FmtI} {x : Iss} {s : State} {act : Mask}

theorem bodySwr_waitlim (hn : i.imm = 0x010) : bodySwr i x act s =
    .done ((markDirty s x).mapGroup x.g.id (fun g => { g with waitlim := readWord x i.a.toNat 0 &&& 0x3F })) := by
  simp [bodySwr, hn]

theorem bodySwr_tbase (hn : i.imm = 0x011) : bodySwr i x act s =
    .done ((markDirty s x).mapGroup x.g.id (fun g => { g with tbase := readWord x i.a.toNat 0 &&& 0x1F })) := by
  simp [bodySwr, hn]

theorem bodySwr_rndst (hn : i.imm = 0x013) : bodySwr i x act s = .done ((markDirty s x).mapSplit x.g.id x.sp.id
    (fun sp => { sp with st := if readWord x i.a.toNat 0 = 0 then 1 else readWord x i.a.toNat 0 })) := by
  simp [bodySwr, hn]

theorem bodySwr_tcause (hn : i.imm = 0x030) (hin : x.sp.inHandler = true) : bodySwr i x act s = .done ((markDirty s x).mapSplit x.g.id x.sp.id
    (fun sp => { sp with tcause := (sp.tcause &&& ~~~(0x100 : Word)) ||| (readWord x i.a.toNat 0 &&& 0x100) })) := by
  simp [bodySwr, hn, hin]

theorem bodySwr_tpc (hn : i.imm = 0x031) (hin : x.sp.inHandler = true) : bodySwr i x act s =
    .done ((markDirty s x).mapSplit x.g.id x.sp.id (fun sp => { sp with tpc := readWord x i.a.toNat 0 })) := by
  simp [bodySwr, hn, hin]

/-- SR.TCAUSE and SR.TPC belong to the handler (R211, R212). -/
theorem bodySwr_outside (hn : i.imm = 0x030 ∨ i.imm = 0x031) (hout : x.sp.inHandler = false) :
    bodySwr i x act s = .trap { cause := 0x01, info := 0x119 } := by
  have htrap : (formSwr i).trapIllop = { cause := 0x01, info := 0x119 } := rfl
  rcases hn with hn | hn <;> simp [bodySwr, hn, hout, htrap]

end Swr

/-- Settles O18: each instruction issues as its body says, SWR by the number it names. -/
theorem systemInstructionsComplete : Obligations.SystemInstructionsComplete := by
  refine ⟨fun s x act w i live => ⟨?rgn, ?nop, ?waitt, ?waittD, ?yield, ?clkTb, ?clkCyc, ?srd⟩, fun s x act i v hruns hv => ?swr⟩
  case rgn => exact fun hruns hlive => issueWith_done hruns (bodyRgn_known act hlive)
  case waitt => exact fun hruns hcome => issueWith_done hruns (waitUntil_reached _ hcome)
  case waittD => exact fun hruns hcome => issueWith_done hruns (waitUntil_reached _ hcome)
  case swr =>
    subst hv
    exact ⟨fun hn => issueWith_done hruns (bodySwr_waitlim hn), fun hn => issueWith_done hruns (bodySwr_tbase hn),
      fun hn => issueWith_done hruns (bodySwr_rndst hn), fun hn hin => issueWith_done hruns (bodySwr_tcause hn hin),
      fun hn hin => issueWith_done hruns (bodySwr_tpc hn hin), fun hn hout hwindow => issueWith_trap hruns (bodySwr_outside hn hout) hwindow⟩
  all_goals exact fun hruns => issueWith_done hruns rfl

end Sys2Proof.Machine

/-! SUPPORT. CLAUSE_FETCH at a boundary of an ACTIVE group (R83, R85, R202, R203, R305, R317): the merge that comes first, and the split's own step
where nothing comes before it. -/

namespace Sys2Proof.Machine

open Sys2Proof

section ClauseFetch

variable {s : State} {x : Iss} {gid spid : Nat}

/-! ## What CLAUSE_FETCH does before the split's own step -/

section AtBoundary

variable (hg : s.group? gid = some x.g) (hk : s.inst? x.g.inst = some x.k) (hsp : x.g.split? spid = some x.sp)
  (hsaving : x.g.saving = false) (hover : x.g.waitOver = false) (hactive : x.g.state = .active)
  (hresume : x.sp.resume = none) (hboundary : x.g.atBoundary = true)
include hg hk hsp hsaving hover hactive hresume hboundary

theorem clauseFetch_merges (hpair : (mergePair x.g).isSome = true) : clauseFetch s gid spid .none = some (mergeAll s gid 4) := by
  simp [clauseFetch, hg, hk, hsp, hsaving, hover, hactive, hresume, hboundary, hpair]

/-- A group that nothing keeps from its next clause goes on to the split's own step. -/
theorem clauseFetch_own (hpair : mergePair x.g = none) (hleave : mustLeave s x.g = false) (hswap : swapDue s x.g = false)
    (hentry : entryDue s x.g = false) (hstall : mergeStalls x.g x.sp = false) (hlost : x.sp.fetchLost = false)
    (hdropped : fetchDropped s x (x.k.codeVa + x.sp.hdr) = false) : clauseFetch s gid spid .none = fetchAtBoundary s x := by
  simp [clauseFetch, hg, hk, hsp, hsaving, hover, hactive, hresume, hboundary, hpair, hleave, hswap, hentry, hstall, hlost, hdropped,
    codeUpset, coreUpset]

end AtBoundary

/-! ## The split's own step -/

section Own

variable (hbar : x.sp.bar = none) (hheld : heldBack s x.g x.k x.sp = false)
include hbar hheld

theorem fetchAtBoundary_begins {h : ClauseHdr} {ws : List DWord} (hfetch : fetchClause s x = .ok h ws) (hwait : boundaryWait s x h ws = none)
    (hactive : x.g.state = .active) (hresident : nodeResident s x.g x.k = true) (hturn : holdsTurn s x.g x.k x.sp = false) :
    fetchAtBoundary s x = some (beginClause s x h ws) := by
  simp [fetchAtBoundary, hbar, hheld, hfetch, hwait, hactive, hresident, hturn]

theorem fetchAtBoundary_waits {h : ClauseHdr} {ws : List DWord} {kind : WaitKind} (hfetch : fetchClause s x = .ok h ws)
    (hwait : boundaryWait s x h ws = some kind) : fetchAtBoundary s x = startBoundaryWait s x kind h.wctr ws := by
  simp [fetchAtBoundary, hbar, hheld, hfetch, hwait]

theorem fetchAtBoundary_traps {t : Trap} {p : TrapAt} (hfetch : fetchClause s x = .trap t p) (hactive : x.g.state = .active)
    (hwindow : x.sp.window = none) : fetchAtBoundary s x = some (takeTrap s x.g x.sp x.k t p) := by
  simp [fetchAtBoundary, hbar, hheld, hfetch, hactive, fetchTrap, hwindow]

end Own

end ClauseFetch

/-- Settles O29: merges come first; with none left the split's own step begins its clause, waits for it or traps. -/
theorem clauseFetchCompletes : Obligations.ClauseFetchCompletes := by
  intro s x gid spid hg hk hsp hsaving hover hactive hresume hboundary
  refine ⟨fun hpair => ifEnabled_some (clauseFetch_merges hg hk hsp hsaving hover hactive hresume hboundary hpair), ?_⟩
  intro hpair hleave hswap hentry hstall hbar hlost hdropped hheld
  have hown : clauseFetch s gid spid .none = fetchAtBoundary s x :=
    clauseFetch_own hg hk hsp hsaving hover hactive hresume hboundary hpair hleave hswap hentry hstall hlost hdropped
  refine ⟨fun h ws hfetch hwait hresident hturn => ?_, fun h ws kind t hfetch hwait hstart => ?_, fun t p hfetch hwindow => ?_⟩
  · exact ifEnabled_some (hown.trans (fetchAtBoundary_begins hbar hheld hfetch hwait hactive hresident hturn))
  · exact ifEnabled_some ((hown.trans (fetchAtBoundary_waits hbar hheld hfetch hwait)).trans hstart)
  · exact ifEnabled_some (hown.trans (fetchAtBoundary_traps hbar hheld hfetch hactive hwindow))

end Sys2Proof.Machine

/-! SUPPORT. Matrix steps and engine operations completed, REDGO and CPYG carried out, base-die links that fail (R66 to R70, R167, R245 to R250, R255,
R266, R388 to R390, R414 to R416, R422, R446): the next state of each where its conditions hold. -/

namespace Sys2Proof.Machine

open Sys2Proof

/-! ## MATRIX_STEP_COMPLETE -/

section MatrixStep

variable {s : State} {st : Step} {g : Group} {c : Core} {k : Inst} (hst : s.step? st.id = some st) (hg : s.group? st.gid = some g)
  (hc : s.core? st.pkg st.core = some c) (hk : s.inst? g.inst = some k) (hcommitted : st.seq ≠ 0) (hready : st.ready = true)
  (hfirst : s.steps.any (fun o => stepBefore o st) = false)
include hst hg hc hk hcommitted hready hfirst

/-- A committed step whose operands are there, with none before it, meets poison or completes. -/
theorem matrixDone_eq : matrixDone s st.id =
    if stepPoisoned c st ((fmtClass st.afmt).getD 0) then some (raiseUncorr s st.pkg st.ctx st.core 0)
    else some (((releaseOp s st.pkg st.core st.id ([st.a.entry, st.b.entry].filterMap (fun t => t))).mapGroup st.gid
      (fun _ => afterStep s g c k st)).dropStep st.id) := by
  have hgo : ¬(st.seq = 0 ∨ st.ready = false ∨ s.steps.any (fun o => stepBefore o st) = true) := by
    simp only [hcommitted, hready, hfirst, Bool.true_eq_false, Bool.false_eq_true, or_self, not_false_iff]
  simp only [matrixDone, hst, hg, hc, hk, if_neg hgo]
  rfl

end MatrixStep

/-! ## ENGINE_OP_COMPLETE -/

theorem engComplete_single {s : State} {op : Nat} {e : Eng} (he : s.eng? op = some e) (hsingle : ∀ a b c d f g h, e.kind ≠ .coll a b c d f g h)
    (hwork : engWorkDone s e = true) (htime : engTimeReached s e = true) : engComplete s op = some (endEng s e) := by
  cases hkind : e.kind with
  | coll => exact (hsingle _ _ _ _ _ _ _ hkind).elim
  | _ => simp only [engComplete, he, hkind, hwork, htime, Bool.and_self, if_true]

theorem engComplete_coll {s : State} {op : Nat} {e : Eng} {a b c lv k t q : Nat} (he : s.eng? op = some e) (hkind : e.kind = .coll a b c lv k t q)
    (hall : (collMembers s e).length = collP s e lv) (hdone : (collMembers s e).all (fun m => writesDone s m && engTimeReached s m) = true) :
    engComplete s op = some ((collMembers s e).foldl endEng s) := by
  simp only [engComplete, he, hkind]
  exact if_pos ⟨hall, hdone⟩

/-! ## REDGO and CPYG -/

section Requests

variable {s : State} {op : Nat} {e : Eng} (he : s.eng? op = some e)
include he

theorem redgoExecute_decides {block d : Nat} {u v : State} {e2 : Eng} (hkind : e.kind = .redgo block d) (htail : e.tail = false)
    (hparked : e.parked = []) (hblock : readRowsFrom s op 1 = some u) (hsources : readRowsFrom u op 17 = some v) (he2 : v.eng? op = some e2)
    (hparked2 : e2.parked = []) : redgoExecute s op = some (rdeDecide v e2 block) := by
  simp [redgoExecute, he, hkind, htail, hparked, hblock, hsources, he2, hparked2]

theorem redgoFlag_writes {block d h p key : Nat} {b : RdeBlock} (hkind : e.kind = .redgo block d) (hgood : rdeGood s e block = some b)
    (hflagen : b.flagen = true) (hwriting : e.writing = true) (hdone : writesDone s e = true) (htime : engTimeReached s e = true)
    (hparked : e.parked = []) (hbehind : engBehind s e (b.flag, 4) = false) (hheld : lineHeld s e.pkg e.ctx b.flag = false)
    (hmigrating : migrating s e.pkg e.ctx b.flag = false) (hrelease : releasePending s e = false) (hlinked : linked s e.pkg e.ctx b.flag = true)
    (hstale : staleAt s e.pkg e.ctx e.epoch b.flag = false) (hat : translate s e.pkg e.ctx b.flag = .at_ h p key) :
    redgoFlag s op = some (endEng (performAt s h e.ctx b.flag key (toLE 4 b.flagval))
      { e with ct := max e.ct (writeCt s e.pkg h e.ctx (lineOf b.flag)) }) := by
  simp [redgoFlag, he, hkind, hgood, hflagen, hwriting, hdone, htime, hparked, hbehind, hheld, hmigrating, hrelease, hlinked, hstale, hat]

theorem cpygExecute_serves {host dst len counter d code : Nat} {bs : List Byte} {c : Ctx} {p : Pkg} (hkind : e.kind = .cpyg host dst len counter d)
    (hc : s.ctx? e.pkg e.ctx = some c) (hp : s.pkg? e.pkg = some p) (htail : e.tail = false) (hparked : e.parked = [])
    (hfirst : ∀ o ∈ s.engs, o.id ≠ op → o.pkg = e.pkg → o.ctx = e.ctx → cpygAhead e o = false) (hacq : acqPending s e.gid e.holders op = false)
    (hmapped : spanFault s e.pkg e.ctx dst len = none) (hresult : cpygResult s c p e.fell host dst len counter = (code, bs)) :
    cpygExecute s op = some ((if code = 0 then s.bumpChoice.mapCtx e.pkg e.ctx (fun c => { c with last := counter }) else s.bumpChoice).mapEng op
      (fun e => { e with tail := true, status := some code, reads := [(0, bs)] })) := by
  have hidle : s.engs.any (fun o => o.id != op && o.pkg == e.pkg && o.ctx == e.ctx && cpygAhead e o) = false := by
    simpa [and_assoc] using hfirst
  simp [cpygExecute, he, hkind, hc, hp, hidle, htail, hparked, hacq, hmapped, hresult]

end Requests

/-! ## BASE_DIE_LINK_FAIL -/

theorem linkFail_up {s : State} {pkg link : Nat} {p : Pkg} (hp : s.pkg? pkg = some p) (hup : p.bdLinks[link]? = some .up) :
    linkFail s pkg link = some ((s.engs.filter (fun e => e.pkg == pkg)).foldl (breakRedgo link)
      (s.mapPkg pkg (fun p => { p with bdLinks := setAt p.bdLinks link .failed }))) := by
  simp only [linkFail, hp]
  exact if_pos hup

/-- Settles O33: each clause's conditions are the guard of its event, whose own lemma gives the next state. -/
theorem engineEventsComplete : Obligations.EngineEventsComplete := by
  refine ⟨fun s op => ⟨fun st g c k hst hid hg hc hk hcommitted hready hfirst => ?_, fun e he hsingle hwork htime => ?_,
    fun e a b c lv k t q he hkind hall hdone => ?_⟩, fun s op e => ⟨?_, ?_, ?_, fun pkg link p hp hup => ifEnabled_some (linkFail_up hp hup)⟩⟩
  · subst hid
    have hstep := matrixDone_eq hst hg hc hk hcommitted hready hfirst
    exact ⟨fun hbad => ifEnabled_some (hstep.trans (if_pos hbad)), fun hgood => ifEnabled_some (hstep.trans (if_neg (by simp [hgood])))⟩
  · exact ifEnabled_some (engComplete_single he hsingle hwork htime)
  · exact ifEnabled_some (engComplete_coll he hkind hall hdone)
  · intro block d u v e2 he hkind htail hparked hblock hsources he2 hparked2
    exact ifEnabled_some (redgoExecute_decides he hkind htail hparked hblock hsources he2 hparked2)
  · intro block d h p key b he hkind hgood hflagen hwriting hdone htime hparked hbehind hheld hmigrating hrelease hlinked hstale hat
    exact ifEnabled_some (redgoFlag_writes he hkind hgood hflagen hwriting hdone htime hparked hbehind hheld hmigrating hrelease hlinked hstale hat)
  · intro host dst len counter d code bs c p he hkind hc hp htail hparked hfirst hacq hmapped hresult
    exact ifEnabled_some (cpygExecute_serves he hkind hc hp htail hparked hfirst hacq hmapped hresult)

end Sys2Proof.Machine

/-! SUPPORT. Loads at issue (R134, R219, R220, R222, R224, R225): what LD and LDC do where no check of an address traps. -/

namespace Sys2Proof.Machine

open Sys2Proof

theorem bodyLd_issues {s : State} {x : Iss} {act : Mask} {ty : BitVec 4} {w : FmtM} {la : List (Nat × Nat)}
    (hla : la = laneAddrs x w.ab.toNat w.off.toInt (memWidth ty.toNat) (onceM x w.ab.toNat w.d.toNat) act)
    (hok : addrsOk s x (memWidth ty.toNat) true la = true) (hroom : windowFull x la = false) :
    bodyLd ty w x act s = .done (issueLoad s x (.reg w.d.toNat ty.toNat (onceM x w.ab.toNat w.d.toNat)) (memWidth ty.toNat)
      (w.ord.toNat == 0) (if w.ord.toNat = 2 then some w.scope.toNat else none) 0
      ((List.range (memRegs ty.toNat)).map (w.d.toNat + ·)) act la) := by
  subst hla
  simp [bodyLd, accessTrap_none hok, hroom]

theorem bodyLdc_issues {s : State} {x : Iss} {act : Mask} {w : FmtM} {la : List (Nat × Nat)}
    (hla : la = laneAddrs x w.ab.toNat w.off.toInt 4 (onceM x w.ab.toNat w.d.toNat) act) (hok : constsOk s x la = true) :
    bodyLdc w x act s = .done (issueLoad s x (.const w.d.toNat (onceM x w.ab.toNat w.d.toNat)) 4 true none 0 [w.d.toNat] act
      (la.map (fun p => (p.1, addr64 (x.k.cbase + p.2))))) := by
  subst hla
  simp [bodyLdc, ldcTrap_none hok]

/-- Settles O8: LD and LDC issue as their bodies say where no check traps; a hint's body does nothing. -/
theorem loadsIssue : Obligations.LoadsIssue := fun _ _ _ _ _ _ =>
  ⟨fun hruns hla hok hroom => issueWith_done hruns (bodyLd_issues hla hok hroom),
    fun hruns hla hok => issueWith_done hruns (bodyLdc_issues hla hok), fun hruns => issueWith_done hruns rfl⟩

end Sys2Proof.Machine

/-! SUPPORT. TILEDEF, TILEREL, LDA and STA (R127, R131, R132, R229 to R233): what each body does where the tile table admits it and the
elements lie inside. -/

namespace Sys2Proof.Machine

open Sys2Proof

section Ashlar

variable {s : State} {x : Iss} {w : FmtA} {act : Mask}

/-- A definition that R131 does not refuse takes its entry. -/
theorem bodyTiledef_defines {c : Core} {t : Tile} (hc : s.core? x.g.pkg x.g.core = some c)
    (ht : t = { state := .empty, shared := w.mod.getLsbD 0,
                owner := if w.mod.getLsbD 0 then (coreNode x.k x.g.rank).getD 0 else x.g.rank, fmt := w.mod.toNat / 16,
                row0 := (readWord x w.a.toNat 0).toNat % 2 ^ 14, nrows := (readWord x w.a.toNat 0).toNat / 2 ^ 14 % 2 ^ 14,
                col0 := (readWord x w.b.toNat 0).toNat % 32, ncols := (readWord x w.b.toNat 0).toNat / 32 % 64, uses := 0, stamp := s.nextId })
    (hadmits : defRefused x c (tileEntry x w.d.toNat) t
      ((readWord x w.a.toNat 0).toNat / 2 ^ 28 != 0 || (readWord x w.b.toNat 0).toNat / 2 ^ 11 != 0) = none) :
    bodyTiledef w x act s = .done ((markDirty s x).bump.mapCore x.g.pkg x.g.core (fun c =>
      { c.eraseCells t with tiles := setAt c.tiles (tileEntry x w.d.toNat) t })) := by
  subst ht
  simp only [bodyTiledef, hc, hadmits]

/-- A tile that may be written is the group's, and no operation fills or drains it. -/
theorem tileWrites_iff {n : Nat} : tileWrites s x n = true ↔ tileLegal x (tileOf s x (tileEntry x n)) = true
    ∧ (tileOf s x (tileEntry x n)).state ≠ .filling ∧ (tileOf s x (tileEntry x n)).state ≠ .draining := by
  simp [tileWrites, and_assoc]

theorem tileLegal_not_free {t : Tile} (h : tileLegal x t = true) : t.state ≠ .free := by
  simp only [tileLegal, Bool.and_eq_true, bne_iff_ne] at h
  exact h.1

theorem bodyTilerel_frees (hwrites : tileWrites s x w.a.toNat = true) :
    bodyTilerel w x act s = .done (setTile (markDirty s x) x (tileEntry x w.a.toNat) (fun _ => { })) := by
  obtain ⟨hlegal, hfilling, hdraining⟩ := tileWrites_iff.mp hwrites
  simp only [bodyTilerel, hlegal, if_neg (tileLegal_not_free hlegal), if_true]

section Element

variable {t : Tile} (ht : t = tileOf s x (tileEntry x w.a.toNat)) (hscale : w.mod.getLsbD 2 = true → isScaled t.fmt = true)
  (hinside : outOfTile x w t act = false)
include ht hscale hinside

/-- LDA of elements inside a tile that may be read goes on to the poison in them (R24). -/
theorem bodyLda_inside (hreads : tileReads s x w.a.toNat = true) (hpair : ldaRegs (t.fmt == 12) w = 2 → pairOk x.k w.d.toNat = true) :
    bodyLda w x act s =
      if ashPoisoned s x (act.lanes.flatMap (laneHalves x w t)) then .jump (raiseUncorr s x.g.pkg x.g.ctx x.g.core 0)
      else .done (putWords s x.g.id x.sp.id w.d.toNat act act.lowest (ldaVal x w (cellsOf s x) t) (ldaRegs (t.fmt == 12) w)) := by
  subst ht
  simp only [bodyLda, nameReader_ok hreads, hinside]
  rw [if_neg (by simpa using hscale), if_neg Bool.false_ne_true, if_neg (by simpa using hpair)]

theorem bodySta_writes (hwrites : tileWrites s x w.a.toNat = true) (hcode : w.mod.toNat / 16 % 8 = 0 ∨ exactFmt t.fmt = false)
    (hblock : w.mod.getLsbD 2 = false → isScaled t.fmt = true → blockForm x w act = true)
    (hpair : ldaRegs (t.fmt == 12) w = 2 → pairOk x.k w.c.toNat = true) :
    bodySta w x act s = .done (setTile ((advanceSt s x act (w.mod.toNat / 16 % 8)).mapCore x.g.pkg x.g.core (fun c =>
      { c.setBad (staHalves x w t act) false with ashlar := staCells x w t act c.ashlar })) x (tileEntry x w.a.toNat)
      (fun t => if t.state = .empty then { t with state := .ready } else t)) := by
  subst ht
  have hexact : ¬(w.mod.toNat / 16 % 8 ≠ 0 ∧ exactFmt (tileOf s x (tileEntry x w.a.toNat)).fmt = true) := by
    rcases hcode with h | h <;> simp [h]
  simp only [bodySta, nameWriter_ok hwrites, hinside]
  rw [if_neg hexact, if_neg (by simpa using hscale), if_neg (by simpa using hblock), if_neg Bool.false_ne_true, if_neg (by simpa using hpair)]

end Element

end Ashlar

/-- Settles O12: each instruction's conditions are the checks of its body; an LDA of poisoned data leaves its split where it is. -/
theorem tileInstructionsComplete : Obligations.TileInstructionsComplete := by
  intro s x act w c t
  refine ⟨?tiledef, ?tilerel, ?lda, ?sta⟩
  case tiledef => exact fun hruns hc ht hadmits => issueWith_done hruns (bodyTiledef_defines hc ht hadmits)
  case tilerel => exact fun hruns hwrites => issueWith_done hruns (bodyTilerel_frees hwrites)
  case lda =>
    intro hruns ht hreads hscale hinside hpair
    have hbody := bodyLda_inside ht hscale hinside hreads hpair
    exact ⟨fun hgood => issueWith_done hruns (hbody.trans (if_neg (by simp [hgood]))),
      fun hbad => (issueWith_ready hruns).trans (by rw [hbody, if_pos hbad]; rfl)⟩
  case sta =>
    intro hruns ht hwrites hcode hscale hblock hinside hpair
    exact issueWith_done hruns (bodySta_writes ht hscale hinside hwrites hcode hblock hpair)

end Sys2Proof.Machine

/-! SUPPORT. The matrix instructions (R116, R237, R240 to R253): a step that passes the checks of R237 starts, MWAIT passes, MZERO
clears its view and MST starts its store. -/

namespace Sys2Proof.Machine

open Sys2Proof

theorem orTrap_of_none {o : Option Trap} {k : Res} (h : o = none) : orTrap o k = k := by rw [h, orTrap_none]

section MatrixStep

variable {s : State} {x : Iss} {w : FmtA}

/-- An operand of a matrix step that passes R242 and R243 is used, in memory or in its tile. -/
theorem stepOperand_ok {n fmt : Nat} {badOr any : Bool} {mx : Nat × Nat} {k : Option Nat → Res} (h : stepOperandOk s x n fmt badOr mx any = true) :
    (if isTileOp n then stepTile s x n fmt badOr mx any (fun e => k (some e)) else k none) = k (operandEntry x n) := by
  by_cases hn : isTile n = true
  · simp only [isTileOp, operandEntry, hn, if_true, stepTile_ok hn h]
  · simp [isTileOp, operandEntry, hn]

theorem stepTiles_ok {d : StepDesc} {c : Nat} {k : Option Nat → Option Nat → Res}
    (ha : stepOperandOk s x w.a.toNat d.afmt d.aor (aTileMax d c) true = true)
    (hb : stepOperandOk s x w.b.toNat d.bfmt (!d.bor) (bTileMax d) (d.ks != 0) = true) :
    stepTiles s x w d c k = k (operandEntry x w.a.toNat) (operandEntry x w.b.toNat) := by
  simp only [stepTiles, stepOperand_ok hb]
  exact stepOperand_ok (k := fun ea => k ea (operandEntry x w.b.toNat)) ha

theorem admitStep_starts {d : StepDesc} {ranges : List Range} {ea eb : Option Nat}
    (hjoins : viewJoins s x (viewOf (viewWord x.k w.d.toNat)).regs = true)
    (hlimit : (stepsOf s x.g.id).length < 8) (hfree : rltWait s x (rltEntries 0 ranges []) = none) :
    admitStep s x w d ranges ea eb = .done (startStep s x w d ranges ea eb) := by
  simp only [admitStep, hjoins, if_true, if_neg (Nat.not_le.mpr hlimit), hfree]

/-- What an operand adds where it is in memory, a tile nothing. -/
theorem memoryOnly_eq {α : Type} (n : Nat) (l : List α) : (if (!isTileOp n) = true then l else []) = if isTile n = true then [] else l := by
  cases h : isTile n <;> simp [isTileOp, h]

theorem aligned_memory {m n va p : Nat} (h : (isTile n || aligned m [va, p]) = true) :
    aligned m ((if isTile n = true then ([] : List (Nat × Nat)) else [(va, va), (p, va)]).map (·.1)) = true := by
  cases hn : isTile n
  · simpa [hn] using h
  · simp [aligned]

theorem aligned_append {m : Nat} {l r : List Nat} (hl : aligned m l = true) (hr : aligned m r = true) : aligned m (l ++ r) = true := by
  simp only [aligned, List.all_append, Bool.and_eq_true]
  exact ⟨hl, hr⟩

/-- What stepOk asks, by the steps of R237. -/
theorem stepOk_iff {d : StepDesc} {c : Nat} : stepOk s x w d c = true ↔
    d.illop x w = some c ∧ (viewOf (viewWord x.k w.d.toNat)).type = classType c ∧ stepAligned x w d c = true
      ∧ rangesOk s x (stepRanges x w d c) = true ∧ stepOperandOk s x w.a.toNat d.afmt d.aor (aTileMax d c) true = true
      ∧ stepOperandOk s x w.b.toNat d.bfmt (!d.bor) (bTileMax d) (d.ks != 0) = true
      ∧ viewJoins s x (viewOf (viewWord x.k w.d.toNat)).regs = true ∧ (stepsOf s x.g.id).length < 8
      ∧ rltWait s x (rltEntries 0 (stepRanges x w d c) []) = none := by
  simp only [stepOk, Bool.and_eq_true, beq_iff_eq, decide_eq_true_eq, and_assoc]

/-- A step that R237 admits starts, whatever form it issues in. -/
theorem bodyStep_starts {form : Form} {sp c : Nat} (hok : stepOk s x w (stepDesc x w sp) c = true) :
    bodyStep form w sp x s = .done (startStep s x w (stepDesc x w sp) (stepRanges x w (stepDesc x w sp) c) (operandEntry x w.a.toNat)
      (operandEntry x w.b.toNat)) := by
  obtain ⟨hclass, htype, haligned, hranges, ha, hb, hjoins, hlimit, hfree⟩ := stepOk_iff.mp hok
  simp only [stepAligned, Bool.and_eq_true] at haligned
  obtain ⟨⟨haddrA, haddrB⟩, hmeta⟩ := haligned
  have hal := misaligned_none (l := _ ++ _) ((List.map_append ..).symm ▸ aligned_append (aligned_memory haddrA) (aligned_memory haddrB))
  have hml : misaligned 16 (if (stepDesc x w sp).sparse = 1 then [((stepDesc x w sp).metaVa, (stepDesc x w sp).metaVa)] else []) = none := by
    refine misaligned_none ?_
    by_cases hsp : (stepDesc x w sp).sparse = 1
    · simpa [aligned, hsp] using hmeta
    · simp [hsp, aligned]
  simp only [bodyStep, hclass, htype, ne_eq, not_true_eq_false, if_false, memoryOnly_eq]
  exact (orTrap_of_none hal).trans ((orTrap_of_none hml).trans ((orTrap_of_none (badRange_none hranges)).trans
    ((stepTiles_ok ha hb).trans (admitStep_starts hjoins hlimit hfree))))

end MatrixStep

section Views

variable {s : State} {x : Iss} {w : FmtA} {act : Mask} {v : View}

theorem bodyMwait_passes (hcount : x.g.mtx ≤ modLo w.mod) : bodyMwait w x act s = .done s := if_pos hcount

theorem bodyMzero_clears (hv : v = viewOf (viewWord x.k w.d.toNat)) (hquiet : v.regs.all (fun r => regState x.g r != .pending) = true) :
    bodyMzero w x act s = .done (s.mapGroup x.g.id (fun g =>
      v.regs.foldl (fun g r => g.setRegState r .full) ((List.range (v.rows * v.cols)).foldl (fun g e => viewPut g v e 0) g))) := by
  subst hv
  refine if_neg ?_
  simpa using hquiet

theorem viewSource_ready {k block : Res} (h : srcEmpty x.g (viewOf (viewWord x.k w.a.toNat)).regs (epBit w.ep 0) = .ready) :
    viewSource x w k block = k := by
  simp only [viewSource, h]

section Mst

variable (hv : v = viewOf (viewWord x.k w.a.toNat)) (hfmt : (mstFormats v.type).contains (modLo w.mod) = true)
  (hctl : ctlBad s x (wordVal x w.c.toNat) false = false) (hready : srcEmpty x.g v.regs (epBit w.ep 0) = .ready) {p : EngPlan}
  (hfree : engWait s x p (wordVal x w.c.toNat) = none)
include hv hfmt hctl hready hfree

theorem bodyMst_memory (hmem : isTile w.d.toNat = false)
    (haligned : aligned (mstBytes (modLo w.mod)) [addrVal x w.d.toNat, wordVal x w.b.toNat] = true)
    (hrange : rangeOk s x (addrVal x w.d.toNat, (v.rows - 1) * wordVal x w.b.toNat + v.cols * mstBytes (modLo w.mod)) = true)
    (hp : p = { kind := .mstMem (addrVal x w.d.toNat) (wordVal x w.b.toNat) (modLo w.mod) v.rows v.cols
                              ((mstRows x.g v (modLo w.mod)).map (fun r => r.flatMap (toLE (mstBytes (modLo w.mod))))),
                            reads := [],
                            writes := [(addrVal x w.d.toNat, (v.rows - 1) * wordVal x w.b.toNat + v.cols * mstBytes (modLo w.mod))] }) :
    bodyMst w x act s = .done (startEng s x p (wordVal x w.c.toNat) (modHi w.mod) none) := by
  subst hv hp
  have hal : misaligned (mstBytes (modLo w.mod)) [(addrVal x w.d.toNat, addrVal x w.d.toNat), (wordVal x w.b.toNat, addrVal x w.d.toNat)] = none :=
    misaligned_none haligned
  have hr := badRange_none (l := [_]) (by simpa [rangesOk] using hrange)
  simp only [bodyMst, isTileOp, hmem, hfmt, hctl, hal, hr, orTrap_none, viewSource_ready hready, issueEng_done hfree]
  simp

theorem bodyMst_tile (htile : isTile w.d.toNat = true) (hword : wordVal x w.b.toNat < 2 ^ 22) {t : Tile}
    (ht : t = tileOf s x (tileEntry x w.d.toNat))
    (hwrites : tileWrites s x w.d.toNat = true) (hsame : t.fmt = modLo w.mod) (hrows : wordVal x w.b.toNat % 2 ^ 14 + v.rows ≤ t.nrows)
    (hcols : wordVal x w.b.toNat / 2 ^ 14 % 256 + v.cols ≤ t.elems)
    (hp : p = { kind := .mstTile (tileEntry x w.d.toNat) (wordVal x w.b.toNat % 2 ^ 14) (wordVal x w.b.toNat / 2 ^ 14 % 256)
                              (modLo w.mod) v.rows v.cols (mstRows x.g v (modLo w.mod)),
                            reads := [], writes := [], fill := some (tileEntry x w.d.toNat) }) :
    bodyMst w x act s = .done (startEng s x p (wordVal x w.c.toNat) (modHi w.mod) none) := by
  subst hv hp ht
  obtain ⟨hlegal, -⟩ := tileWrites_iff.mp hwrites
  simp only [bodyMst, isTileOp, htile, hfmt, hctl, hlegal, hsame, nameWriter_ok hwrites, viewSource_ready hready, issueEng_done hfree]
  rw [if_neg (by simpa using hword), if_pos trivial, if_neg (by simp), if_neg (by omega)]

end Mst

end Views

/-- Settles O19: stepOk is what a matrix step's body checks, and the other conditions are the checks of their instructions' bodies. -/
theorem matrixInstructionsComplete : Obligations.MatrixInstructionsComplete := by
  intro s x act w c v
  refine ⟨?mma, ?mmas, ?mcommit, ?mwait, ?mzero, ?mstMemory, ?mstTile⟩
  case mma => exact fun hruns hok => issueWith_done hruns (bodyStep_starts hok)
  case mmas =>
    intro hruns sp hsp hok
    subst hsp
    exact issueWith_done hruns (bodyStep_starts hok)
  case mcommit => exact fun hruns => issueWith_done hruns rfl
  case mwait => exact fun hruns hcount => issueWith_done hruns (bodyMwait_passes hcount)
  case mzero => exact fun hruns hv hquiet => issueWith_done hruns (bodyMzero_clears hv hquiet)
  case mstMemory =>
    intro hruns hv hmem hfmt hctl haligned hrange hready p hp hfree
    exact issueWith_done hruns (bodyMst_memory hv hfmt hctl hready hfree hmem haligned hrange hp)
  case mstTile =>
    intro hruns hv htile hfmt hword hctl t ht hwrites hsame hrows hcols hready p hp hfree
    exact issueWith_done hruns (bodyMst_tile hv hfmt hctl hready hfree htile hword ht hwrites hsame hrows hcols hp)

end Sys2Proof.Machine

/-! SUPPORT. What an issuing access and a placement change beside what their statements name: core records (R417) and the FENCES windows of other
groups (R156), each with a state that shows it. -/

namespace Sys2Proof.Machine

open Sys2Proof

/-- A context that routes its first 1 GiB to one memory-homed pseudo-channel. -/
def routedCtx : Ctx :=
  { benchCtx 0 0 with
    pt := [{ valid := true, mh := true, log2size := 30, hostvis := false, home := 0, log2n := 0, listbase := 0, base := 0, raw := 0 }]
    pcl := [0] }

/-! ## A load whose address register lifts a quarantine entry of a core record -/

/-- The reads of an instruction that took effect lift quarantine entries in the green room too (R417). -/
theorem finish_coreRecs (s : State) (x : Iss) (f : Form) : (finish s x f).coreRecs = (liftQuarantine s x.g (f.reads x.k)).coreRecs := by
  unfold finish noteLogs
  split <;> rfl

/-- LD of S10 at the address in S8 and S9. -/
def ldS10 : FmtM := { d := 650, ab := 648, off := 0, ep := 0, g := 0, scope := 0, ord := 0 }

/-- The group that issues it. -/
def readerIss : Iss :=
  let sp := freshSplit 1 0 [0]
  { g := { freshGroup 2 1 0 0 0 0 0 0 16 0 0 sp with state := .active }, sp := sp, k := benchInst 1 0 0 }

/-- Its CPYG with status in S8 has failed, and another kernel that has run on the core since keeps the entry in its core record (R269, R417). -/
def quarantineRec : CoreRec :=
  { id := 3, core := { freshCore 0 0 9 0 0 with rlt := [{ lo := 4096, hi := 4224, write := true, op := 0, quarantine := some (2, 648) }] }
    green := { off := 0, len := 0, stamp := 3 } }

/-- The group about to issue the load, beside that record. -/
def quarantined : State :=
  { State.reset with
    ctxs := [routedCtx], insts := [readerIss.k], groups := [readerIss.g], coreRecs := [quarantineRec], cur := some (2, 0), nextId := 4 }

/-- Its one access, at address 0. -/
def readerLanes : List (Nat × Nat) := laneAddrs readerIss 648 0 4 true (BitVec.allOnes 96)

theorem reader_runs : Runs quarantined readerIss (formLd 0 ldS10) (BitVec.allOnes 96) := ⟨rfl, rfl⟩

theorem reader_addrsOk : addrsOk quarantined readerIss 4 true readerLanes = true := rfl

theorem reader_lifts : (liftQuarantine quarantined readerIss.g ((formLd 0 ldS10).reads readerIss.k)).coreRecs ≠ quarantined.coreRecs := by
  decide

/-- Refutes O59: the load's read of S8 lifts the group's entry in the core record, which the statement says is as before. -/
theorem not_accessIssueFrame : ¬ Obligations.AccessIssueFrame := by
  intro h
  have hnext := (loadsIssue quarantined readerIss (BitVec.allOnes 96) 0 ldS10 readerLanes).1 reader_runs rfl reader_addrsOk rfl
  obtain ⟨-, hframe, -⟩ := h quarantined _ readerIss (BitVec.allOnes 96) ldS10 (.ld 0 ldS10) (formLd 0 ldS10) 4 true true readerLanes
    (.inl ⟨0, rfl, rfl, rfl, rfl, rfl⟩) reader_runs rfl reader_addrsOk (fun _ => rfl) nofun hnext
  have hrecs := congrArg State.coreRecs hframe
  rw [finish_coreRecs] at hrecs
  exact reader_lifts hrecs

/-! ## A placement whose write of its queue's entry meets another group's FENCES window -/

/-- A group of the launch's context, in a FENCES window that has registered the line of the queue's entry. -/
def windowGroup : Group :=
  let sp := freshSplit 1 0 [0]
  let saved : Checkpoint := { lanes := sp.lanes, mask := sp.mask, hdr := 0, idx := 0, clause := [0], st := 1, retStacks := [] }
  { freshGroup 3 2 0 0 0 1 0 0 16 0 0
      { sp with window := some { target := 1000, scope := 0, saved := saved, lines := [0], regd := [0], kept := [], conflict := false,
                                 firstLoad := 0 } } with
    state := .active }

/-- A launch of queue 0, whose entry lies at address 0, with no group placed yet. -/
def windowedLaunch : State :=
  { State.reset with
    pkgs := [{ num := 0, fields := List.replicate 6 { state := .on } }]
    ctxs := [{ routedCtx with queues := [{ num := 0 }] }]
    pages := [{ ctx := 0, pkg := 0, va := 0, state := .mapped, frames := [0], newFrames := [], since := 0, bad := none }]
    insts := [{ benchInst 1 0 0 with state := .placing, placed := [] }, benchInst 2 0 0]
    groups := [windowGroup], nextId := 4 }

/-- The windows of a group that another agent's write has met (R156). -/
def Group.conflicts (g : Group) : List Bool := g.splits.map (fun sp => sp.window.any (·.conflict))

/-- The launch's first group is placed, and the write of EFFPRIO (R286, R297) meets the window. -/
theorem windowedLaunch_placed : (groupPlace windowedLaunch 1 0 0 671).any (fun t => t.groups.head?.map Group.conflicts == some [true]) = true := rfl

theorem windowedLaunch_conflicts : windowedLaunch.groups.head?.map Group.conflicts = some [false] := rfl

/-- Refutes O50: the groups before the placed one are not as they were, the first one's window having met the write of the queue's entry. -/
theorem not_groupStartRule : ¬ Obligations.GroupStartRule := by
  intro h
  obtain ⟨t, hplace, hmet⟩ := (Option.any_eq_true ..).mp windowedLaunch_placed
  obtain ⟨-, g, -, -, hgroups, -⟩ := h windowedLaunch t 1 0 0 671 (ifEnabled_some hplace)
  have hsame : t.groups.head?.map Group.conflicts = windowedLaunch.groups.head?.map Group.conflicts := by rw [hgroups]; rfl
  rw [windowedLaunch_conflicts, beq_iff_eq.mp hmet] at hsame
  exact absurd hsame (by decide)

end Sys2Proof.Machine

/-! SUPPORT. Stores, atomics, reductions and cue writes at issue, and the fences (R145, R153, R154, R157, R158, R219, R223, R226 to R228, R301): what each
body does where no check of an address traps and the fence condition it asks for holds. -/

namespace Sys2Proof.Machine

open Sys2Proof

section WriteIssue

/-- An access that is no release, or whose fence condition holds, is not kept waiting (R158). -/
theorem not_fenceHeld {rel : Prop} {s : State} {x : Iss} {scope : Nat} (h : ¬rel ∨ fenceReady s x scope = true) :
    ¬(rel ∧ fenceReady s x scope = false) := by
  rintro ⟨hrel, hopen⟩
  rcases h with h | h
  · exact h hrel
  · simp [hopen] at h

variable {s : State} {x : Iss} {act : Mask} {k : BitVec 4} {w : FmtM} {la : List (Nat × Nat)}

theorem bodySt_issues (hla : la = laneAddrs x w.ab.toNat w.off.toInt (memWidth k.toNat) (onceM x w.ab.toNat w.d.toNat) act)
    (hok : addrsOk s x (memWidth k.toNat) false la = true) (hrel : w.ord.toNat < 8 ∨ fenceReady s x w.scope.toNat = true) :
    bodySt k w x act s = .done (issueWrite (dropGuests (advanceSt s x act (w.ord.toNat % 8)) x.g.pkg x.g.ctx (la.map (·.2))) x none
      .none (memWidth k.toNat) none 1 act (onceM x w.ab.toNat w.d.toNat) (stLanes k w x la) (decide (8 ≤ w.ord.toNat))) := by
  subst hla
  simp only [bodySt, accessTrap_none hok]
  exact if_neg (not_fenceHeld (hrel.imp_left Nat.not_le.mpr))

theorem bodyAtom_issues (hla : la = laneAddrs x w.ab.toNat w.off.toInt (atomWidth k.toNat) (onceM x w.ab.toNat w.d.toNat) act)
    (hok : addrsOk s x (atomWidth k.toNat) false la = true) (hrel : w.ord.toNat < 2 ∨ fenceReady s x w.scope.toNat = true) :
    bodyAtom k w x act s = .done (issueWrite (dropGuests
      (markDirty (setPending s x.g.id ((List.range (atomRet k.toNat)).map (w.d.toNat + ·))) x) x.g.pkg x.g.ctx (la.map (·.2))) x
      (some k.toNat) (.atomReg w.d.toNat (atomRet k.toNat == 2)) (atomWidth k.toNat)
      (if w.ord.toNat % 2 = 1 then some w.scope.toNat else none) 2 act (onceM x w.ab.toNat w.d.toNat)
      (atomLanes k.toNat w.d.toNat x la) (decide (2 ≤ w.ord.toNat))) := by
  subst hla
  simp only [bodyAtom, accessTrap_none hok]
  exact if_neg (not_fenceHeld (hrel.imp_left Nat.not_le.mpr))

theorem bodyRed_issues (hla : la = laneAddrs x w.ab.toNat w.off.toInt (atomWidth k.toNat) false act)
    (hok : addrsOk s x (atomWidth k.toNat) false la = true) (hrel : w.ord = 0 ∨ fenceReady s x w.scope.toNat = true) :
    bodyRed k w x act s = .done (issueWrite (dropGuests (markDirty s x) x.g.pkg x.g.ctx (la.map (·.2))) x (some k.toNat) .none
      (atomWidth k.toNat) none 2 act false (atomLanes k.toNat w.d.toNat x la) (w.ord != 0)) := by
  subst hla
  simp only [bodyRed, accessTrap_none hok]
  exact if_neg (not_fenceHeld (hrel.imp_left Classical.not_not.mpr))

theorem bodyCuew_issues (hla : la = laneAddrs x w.ab.toNat w.off.toInt 4 true act)
    (hok : addrsOk s x 4 false la = true) (hrel : w.ord = 0 ∨ fenceReady s x w.scope.toNat = true) :
    bodyCuew w x act s = .done (issueWrite (dropGuests (markDirty s x) x.g.pkg x.g.ctx (la.map (·.2))) x (some 0) .none
      4 none 2 act true (atomLanes 0 w.d.toNat x la) (w.ord != 0)) := by
  subst hla
  simp only [bodyCuew, accessTrap_none hok]
  exact if_neg (not_fenceHeld (hrel.imp_left Classical.not_not.mpr))

end WriteIssue

/-- Settles O9: each access issues its write as its body says where no check traps and no fence condition keeps it. -/
theorem storesAndAtomicsIssue : Obligations.StoresAndAtomicsIssue := fun _ _ _ _ _ _ =>
  ⟨fun hruns hla hok hrel => issueWith_done hruns (bodySt_issues hla hok hrel),
    fun hruns hla hok hrel => issueWith_done hruns (bodyAtom_issues hla hok hrel),
    fun hruns hla hok hrel => issueWith_done hruns (bodyRed_issues hla hok hrel),
    fun hruns hla hok hrel => issueWith_done hruns (bodyCuew_issues hla hok hrel)⟩

section Fences

variable {s : State} {x : Iss} {act : Mask} {w : FmtM}

theorem bodyFence_passes (hready : fenceReady s x w.scope.toNat = true) : bodyFence w x act s = .done s := if_pos hready

/-- After four rollbacks in a row FENCES is a FENCE, and starts its count again (R157). -/
theorem bodyFences_asFence (has : x.sp.asFence = true) (hready : fenceReady s x w.scope.toNat = true) :
    bodyFences w x act s = .done (s.mapSplit x.g.id x.sp.id (fun sp => { sp with asFence := false, rollbacks := 0 })) :=
  (if_pos has).trans (if_pos hready)

/-- A split with no write outstanding opens its window (R154). -/
theorem bodyFences_opens (has : x.sp.asFence = false) (hwrites : writesOpen s x.g.id x.sp.id = 0) :
    bodyFences w x act s = .done (s.mapSplit x.g.id x.sp.id (fun sp => { sp with window := some {
      target := x.sp.ctmax + skewOf (bindOf x.k.levels w.scope.toNat), scope := w.scope.toNat, saved := checkpointOf x,
      lines := [], regd := [], kept := [], conflict := false, firstLoad := s.nextId } })) :=
  (if_neg (by simp [has])).trans (if_neg (Classical.not_not.mpr hwrites))

end Fences

/-- Settles O11: a fence whose condition holds passes, and FENCES opens its window or acts as one. -/
theorem fencesComplete : Obligations.FencesComplete := fun _ _ _ _ =>
  ⟨fun hruns hready => issueWith_done hruns (bodyFence_passes hready),
    fun hruns has hready => issueWith_done hruns (bodyFences_asFence has hready),
    fun hruns has hwrites => issueWith_done hruns (bodyFences_opens has hwrites)⟩

end Sys2Proof.Machine

/-! SUPPORT. A guest copy's lease (R144, R145, R394): when the home grants it, and a state that meets every condition O32 names for the fill, where the
home grants none since the line's page is being unmapped. -/

namespace Sys2Proof.Machine

open Sys2Proof

/-- The home grants a lease to a load that wants the line, unless a write to it, or a command on its page, waits for one to expire. -/
theorem guestFill_fills {s : State} {pkg ctx line lease : Nat} {e : PtEntry} {c : Ctx} {bs : List Byte}
    (hroute : routeOf s pkg ctx (vaFull (128 * line)) = some e) (hc : s.ctx? pkg ctx = some c)
    (hlinked : linkedNow s pkg ctx (vaFull (128 * line)) = true) (hch : e.mh = false) (haway : e.home ≠ pkg) (hpos : 1 ≤ lease) (hmax : lease ≤ c.lease)
    (hwants : wantsGuest s pkg ctx line = true)
    (hfree : s.leaseHold.any (fun x => x.1 == ctx && x.2.1 == line && decide (homeNow s e.home < x.2.2)) = false)
    (hread : readHome s pkg ctx (vaFull (128 * line)) 128 = .bytes bs false)
    (hawaited : leaseAwaited s e.home ctx (vaFull (128 * line)) = false) :
    guestFill s pkg ctx line lease = some { s with
      guests := { pkg := pkg, ctx := ctx, line := line, bytes := bs, expiry := homeNow s e.home + lease, ver := orderOf s ctx line }
        :: s.guests.filter (fun o => !(o.pkg == pkg && o.ctx == ctx && o.line == line)),
      leases := (ctx, line, max (homeNow s e.home + lease) (leaseOf s ctx line)) :: s.leases.filter (fun x => !(x.1 == ctx && x.2.1 == line)) } := by
  have hlease : ¬(lease = 0 ∨ c.lease < lease) := by omega
  rw [not_or] at hlease
  simp only [guestFill, hroute, hc]
  rw [if_neg (by simp [hlinked, hch, haway, hlease, hwants, hfree, hawaited])]
  simp only [hread]

/-- A range of CH lines whose home is package 1. -/
def remoteEntry : PtEntry :=
  { valid := true, mh := false, log2size := 30, hostvis := false, home := 1, log2n := 0, listbase := 0, base := 0, raw := 0 }

/-- A context that spans packages 0 and 1, as one of them holds it. -/
def spanningCtx (pkg : Nat) : Ctx := { benchCtx pkg 0 with span := [0, 1], pt := [remoteEntry], pcl := [0] }

/-- A package whose first port leads to the other one. -/
def linkedPkg (num : Nat) : Pkg :=
  { num := num, ports := setAt (List.replicate 64 { }) 0 { state := .up }, routes := setAt (List.replicate 128 0) (1 - num) 1 }

/-- A plain load of package 0 that waits for the first word of line 0. -/
def waitingLoad : Load :=
  { id := 2, gid := 3, holders := [0], ctx := 0, pkg := 0, core := 0, use := .reg 0 0 false, width := 4, plain := true, acq := none
    windowed := false, kind := 0, lanes := [{ lane := 0, va := 0 }], mask := 1
    place := { pc := 0, header := false, hdr := 0, idx := 0, len := 1 } }

/-- The load, while an UNMAP of its page waits at package 1 for the lease on line 1 to expire. -/
def unmapping : State :=
  { State.reset with
    pkgs := [linkedPkg 0, { linkedPkg 1 with pgCmd := some { op := 2, ctx := 0, pages := [0] } }]
    ctxs := [spanningCtx 0, spanningCtx 1]
    pages := [{ ctx := 0, pkg := 1, va := 0, state := .mapped, frames := [0], newFrames := [], since := 0, bad := none }]
    leases := [(0, 1, 1000)], loads := [waitingLoad], nextId := 4 }

/-- Package 1 grants no lease on the page's lines. -/
theorem unmapping_guestFill : guestFill unmapping 0 0 0 1 = none := rfl

theorem unmapping_reads : readHome unmapping 0 0 (vaFull (128 * 0)) 128 = .bytes (List.replicate 128 0) false := by decide

/-- Refutes O32: the statement's conditions for the fill of a guest copy leave out that no command on the line's page waits for a lease to expire. -/
theorem not_writeAndCopyEventsComplete : ¬ Obligations.WriteAndCopyEventsComplete := by
  rintro ⟨-, -, hcopies⟩
  obtain ⟨hfill, -, -⟩ := hcopies unmapping 0 0 0 1 remoteEntry (spanningCtx 0) (List.replicate 128 0)
  have hnext := hfill rfl rfl rfl rfl (by decide) (by decide) (by decide) rfl rfl unmapping_reads
  have hrefused : exec (.guestCopyFill 0 0 0 1) unmapping = .refused .notEnabled := congrArg ifEnabled unmapping_guestFill
  rw [hrefused] at hnext
  cases hnext

end Sys2Proof.Machine

/-! SUPPORT. A lane's write at its home (R147, R219, R223, R226, R227, R405): when it is performed, and what it leaves unchanged where device memory has
its canonical form; a memory that lists an address out of order shows that O60 needs the form. -/

namespace Sys2Proof.Machine

open Sys2Proof

/-! ## Bytes of one line under a key and a tweak -/

theorem overlay_getD {old new : List Byte} {i j : Nat} (hfit : i + new.length ≤ old.length) :
    (overlay old i new).getD j 0 = if i ≤ j ∧ j < i + new.length then new.getD (j - i) 0 else old.getD j 0 := by
  have htake : (old.take i).length = i := by simp; omega
  have hnew : new.take (old.length - i) = new := List.take_of_length_le (by omega)
  simp only [overlay, hnew, List.getD_eq_getElem?_getD]
  by_cases hlow : j < i
  · rw [List.append_assoc, List.getElem?_append_left (by omega), List.getElem?_take_of_lt hlow, if_neg (by omega)]
  · by_cases hin : j < i + new.length
    · rw [List.getElem?_append_left (by simp; omega), List.getElem?_append_right (by omega), htake, if_pos (by omega)]
    · rw [List.getElem?_append_right (by simp; omega), if_neg (by omega), List.getElem?_drop]
      congr 2
      simp; omega

theorem overlay_length {old new : List Byte} {i : Nat} (hfit : i + new.length ≤ old.length) : (overlay old i new).length = old.length := by
  simp [overlay]; omega

@[simp] theorem Memory.readN_length (m : List Host.Cell) (a n : Nat) : (Memory.readN m a n).length = n := by simp [Memory.readN]

theorem Memory.readN_getD {m : List Host.Cell} {a n i : Nat} (h : i < n) : (Memory.readN m a n).getD i 0 = Memory.read m (a + i) := by
  simp [Memory.readN, List.getD_eq_getElem?_getD, h]

@[simp] theorem lineUnder_length (s : State) (line : Nat) (ck : List Byte) (tweak : Nat) : (lineUnder s line ck tweak).length = 128 := by
  unfold lineUnder
  simp only []
  split
  · simp
  · split <;> simp

/-- A line whose seal is the reader's, or that has none, reads as it stands. -/
theorem lineUnder_getD_plain {s : State} {b tweak : Nat} {ck : List Byte}
    (h : sealOf s (b / 128) = none ∨ sealOf s (b / 128) = some (ck, tweak)) :
    (lineUnder s (b / 128) ck tweak).getD (b % 128) 0 = Memory.read s.mem b := by
  have hline : lineUnder s (b / 128) ck tweak = Memory.readN s.mem (128 * (b / 128)) 128 := by
    rcases h with h | h <;> simp [lineUnder, h]
  rw [hline, Memory.readN_getD (Nat.mod_lt _ (by decide)), Nat.div_add_mod]

theorem readPhys_sealed {s : State} {a n tweak : Nat} {ck : List Byte} (h : sealOf s (a / 128) = some (ck, tweak)) :
    readPhys s ck tweak a n = Memory.readN s.mem a n := by
  simp [readPhys, h]

/-- One byte is read out of its line. -/
theorem readPhys_one (s : State) (ck : List Byte) (tweak b : Nat) :
    readPhys s ck tweak b 1 = [(lineUnder s (b / 128) ck tweak).getD (b % 128) 0] := by
  have hplain : Memory.readN s.mem b 1 = [Memory.read s.mem b] := rfl
  unfold readPhys
  split
  next h => rw [hplain, lineUnder_getD_plain (.inl h)]
  next k t h =>
    split
    next heq => rw [hplain, lineUnder_getD_plain (.inr (by rw [h, heq.1, heq.2]))]
    next =>
      have hlt : b % 128 < (lineUnder s (b / 128) ck tweak).length := by simp [Nat.mod_lt]
      rw [List.drop_eq_getElem_cons hlt, List.getD_eq_getElem?_getD, List.getElem?_eq_getElem hlt]
      rfl

theorem lineUnder_congr {s t : State} {line : Nat} (hseal : sealOf t line = sealOf s line)
    (hmem : ∀ c, c / 128 = line → Memory.read t.mem c = Memory.read s.mem c) (ck : List Byte) (tweak : Nat) :
    lineUnder t line ck tweak = lineUnder s line ck tweak := by
  have hraw : Memory.readN t.mem (128 * line) 128 = Memory.readN s.mem (128 * line) 128 := by
    refine List.map_congr_left fun i hi => hmem _ ?_
    have := List.mem_range.mp hi
    omega
  simp only [lineUnder, hseal, hraw]

/-! ## A write of bytes of one line -/

section WritePhys

variable {s : State} {ck : List Byte} {tweak a : Nat} {bs : List Byte}

/-- A write of bytes of one line: they go in as they are where the line's seal is the writer's or it has none; else the whole line is written again. -/
theorem writePhys_cases (s : State) (ck : List Byte) (tweak a : Nat) (bs : List Byte) :
    ((sealOf s (a / 128) = none ∨ sealOf s (a / 128) = some (ck, tweak)) ∧ (writePhys s ck tweak a bs).mem = Memory.writeN s.mem a bs)
      ∨ (writePhys s ck tweak a bs).mem = Memory.writeN s.mem (128 * (a / 128)) (overlay (lineUnder s (a / 128) ck tweak) (a % 128) bs) := by
  match hseal : sealOf s (a / 128) with
  | none => exact .inl ⟨.inl rfl, by simp only [writePhys, hseal]; split <;> rfl⟩
  | some (k, t) =>
    by_cases heq : k = ck ∧ t = tweak
    · exact .inl ⟨.inr (by rw [heq.1, heq.2]), by simp only [writePhys, hseal, if_pos heq]; split <;> rfl⟩
    · exact .inr (by simp only [writePhys, hseal, if_neg heq]; split <;> rfl)

theorem writePhys_seals (s : State) (ck : List Byte) (tweak a : Nat) (bs : List Byte) :
    (writePhys s ck tweak a bs).seals = if sealOf s (a / 128) = some (ck, tweak) then s.seals
      else (a / 128, ck, tweak) :: (if sealOf s (a / 128) = none then s.seals else s.seals.filter (fun x => x.1 != a / 128)) := by
  match hseal : sealOf s (a / 128) with
  | none => simp only [writePhys, hseal, reduceCtorEq, if_false, if_true]; split <;> rfl
  | some (k, t) =>
    by_cases heq : k = ck ∧ t = tweak
    · simp only [writePhys, hseal, heq, and_self, if_true]; split <;> rfl
    · simp only [writePhys, hseal, heq, if_false, Option.some.injEq, Prod.mk.injEq, reduceCtorEq]; split <;> rfl

/-- The line then stands under the writer's key and tweak. -/
theorem sealOf_writePhys_same : sealOf (writePhys s ck tweak a bs) (a / 128) = some (ck, tweak) := by
  unfold sealOf
  rw [writePhys_seals]
  split
  next h => exact h
  next => simp

theorem sealOf_writePhys_other {line : Nat} (h : line ≠ a / 128) : sealOf (writePhys s ck tweak a bs) line = sealOf s line := by
  have hfilter : (s.seals.filter (fun x => x.1 != a / 128)).find? (fun x => x.1 == line) = s.seals.find? (fun x => x.1 == line) := by
    rw [List.find?_filter]
    congr 1
    funext x
    by_cases hx : x.1 = line <;> simp [hx, h]
  unfold sealOf
  rw [writePhys_seals]
  split
  · rfl
  · rw [List.find?_cons_of_neg (by simpa using h.symm)]
    split
    · rfl
    · rw [hfilter]

@[simp] theorem writePhys_groups (s : State) (ck : List Byte) (tweak a : Nat) (bs : List Byte) :
    (writePhys s ck tweak a bs).groups = s.groups := by
  unfold writePhys; simp only []; split <;> (repeat' split) <;> rfl

variable (hm : Memory.wf s.mem = true) (hfit : a % 128 + bs.length ≤ 128)
include hm hfit

/-- The line's bytes are then those written, and around them what they read as under the writer's key; no other byte changes. -/
theorem read_writePhys (c : Nat) : Memory.read (writePhys s ck tweak a bs).mem c =
    if c / 128 = a / 128 then
      if a ≤ c ∧ c < a + bs.length then bs.getD (c - a) 0 else (lineUnder s (a / 128) ck tweak).getD (c % 128) 0
    else Memory.read s.mem c := by
  rcases writePhys_cases s ck tweak a bs with ⟨hseal, hmem⟩ | hmem <;> rw [hmem, Memory.read_writeN hm]
  · by_cases hline : c / 128 = a / 128
    · rw [if_pos hline, ← hline, lineUnder_getD_plain (hline ▸ hseal)]
    · rw [if_neg hline, if_neg (by omega)]
  · rw [overlay_length (by simpa using hfit), lineUnder_length]
    by_cases hline : c / 128 = a / 128
    · have hc : c - 128 * (a / 128) = c % 128 := by omega
      rw [if_pos hline, if_pos (by omega), hc, overlay_getD (by simpa using hfit)]
      by_cases hin : a ≤ c ∧ c < a + bs.length
      · rw [if_pos hin, if_pos (by omega)]
        congr 1
        omega
      · rw [if_neg hin, if_neg (by omega)]
    · rw [if_neg hline, if_neg (by omega)]

theorem readPhys_writePhys_same : readPhys (writePhys s ck tweak a bs) ck tweak a bs.length = bs := by
  rw [readPhys_sealed sealOf_writePhys_same]
  refine List.ext_getElem (by simp) fun i hi hbs => ?_
  simp only [Memory.readN, List.getElem_map, List.getElem_range]
  rw [read_writePhys hm hfit, if_pos (by omega), if_pos (by omega), Nat.add_sub_cancel_left,
    List.getD_eq_getElem?_getD, List.getElem?_eq_getElem hbs, Option.getD_some]

theorem readPhys_writePhys_line {b : Nat} (hline : b / 128 = a / 128) (hout : b < a ∨ a + bs.length ≤ b) :
    readPhys (writePhys s ck tweak a bs) ck tweak b 1 = readPhys s ck tweak b 1 := by
  rw [readPhys_sealed (hline ▸ sealOf_writePhys_same), readPhys_one]
  refine congrArg (fun v => [v]) ?_
  exact (read_writePhys hm hfit b).trans (by rw [if_pos hline, if_neg (by omega), hline])

theorem readPhys_writePhys_other {b : Nat} (hline : b / 128 ≠ a / 128) (ck' : List Byte) (tweak' : Nat) :
    readPhys (writePhys s ck tweak a bs) ck' tweak' b 1 = readPhys s ck' tweak' b 1 := by
  rw [readPhys_one, readPhys_one, lineUnder_congr (sealOf_writePhys_other hline)]
  intro c hc
  rw [read_writePhys hm hfit, if_neg (hc ▸ hline)]

end WritePhys

/-! ## What a performed lane leaves unchanged -/

/-- The two states hold the same bytes under the same seals, and the same words in every register. -/
structure SameData (s t : State) : Prop where
  mem : t.mem = s.mem
  seals : t.seals = s.seals
  hostMem : t.hostMem = s.hostMem
  regs : ∀ gid n l, t.regWord gid n l = s.regWord gid n l

theorem SameData.trans {s t u : State} (h : SameData s t) (h' : SameData t u) : SameData s u :=
  ⟨h'.mem.trans h.mem, h'.seals.trans h.seals, h'.hostMem.trans h.hostMem, fun gid n l => (h'.regs gid n l).trans (h.regs gid n l)⟩

theorem SameData.readPhys_eq {s t : State} (h : SameData s t) (ck : List Byte) (tweak a n : Nat) :
    readPhys t ck tweak a n = readPhys s ck tweak a n := by
  simp only [readPhys, lineUnder, sealOf, h.mem, h.seals]

/-- A step that changes each group's splits at most changes no register's word. -/
theorem regWord_of_map {s t : State} {f : Group → Group} (hgroups : t.groups = s.groups.map f)
    (hf : ∀ g, (f g).id = g.id ∧ (f g).vregs = g.vregs ∧ (f g).sregs = g.sregs) (gid n l : Nat) :
    t.regWord gid n l = s.regWord gid n l := by
  have hid : (fun g : Group => g.id == gid) ∘ f = fun g => g.id == gid := funext fun g => by simp [(hf g).1]
  have hgroup : t.group? gid = (s.group? gid).map f := by simp only [State.group?, hgroups, List.find?_map, hid]
  unfold State.regWord
  rw [hgroup]
  cases s.group? gid with
  | none => rfl
  | some g => simp only [Option.map_some, (hf g).2.1, (hf g).2.2]

theorem sameData_markWindows (s : State) (home ctx line : Nat) : SameData s (markWindows s home ctx line) :=
  ⟨rfl, rfl, rfl, regWord_of_map rfl fun g => by split <;> exact ⟨rfl, rfl, rfl⟩⟩

theorem sameData_holdLeases (s : State) (home ctx line : Nat) : SameData s (holdLeases s home ctx line) := by
  unfold holdLeases
  simp only []
  split <;> exact ⟨rfl, rfl, rfl, fun _ _ _ => rfl⟩

theorem sameData_markSeen (s : State) (gid : Nat) (holders : List Nat) (line n : Nat) : SameData s (markSeen s gid holders line n) :=
  ⟨rfl, rfl, rfl, regWord_of_map rfl fun g => by split <;> exact ⟨rfl, rfl, rfl⟩⟩

theorem sameData_acquired (s : State) (gid pkg core scope : Nat) : SameData s (acquired s gid pkg core scope) := by
  unfold acquired
  (repeat' split) <;> exact ⟨rfl, rfl, rfl, fun _ _ _ => rfl⟩

theorem sameData_performAt (s : State) (home ctx va key : Nat) (bs : List Byte) :
    SameData (writePhys s (lineKey s home ctx (lineOf va)) (lineOf va) key bs) (performAt s home ctx va key bs) := by
  have hbump (u : State) : SameData u (bumpOrder u ctx (lineOf va)) := ⟨rfl, rfl, rfl, fun _ _ _ => rfl⟩
  exact ((hbump _).trans (sameData_holdLeases ..)).trans (sameData_markWindows ..)

/-- Beside its bytes at their home, a performed lane changes nothing that memory or a register holds. -/
theorem sameData_laneWritten (s : State) (w : Write) (a : LaneAcc) (home key : Nat) (old bs : List Byte) :
    SameData (performAt s home w.ctx a.va key bs) (laneWritten s w a home key old bs) := by
  have hclear (u : State) (b : Bool) : SameData u (if b then clearPoison u key else u) := by
    cases b <;> exact ⟨rfl, rfl, rfl, fun _ _ _ => rfl⟩
  have hmap (u : State) (f : Write → Write) : SameData u (u.mapWrite w.id f) := ⟨rfl, rfl, rfl, fun _ _ _ => rfl⟩
  unfold laneWritten
  simp only []
  split
  next j _ =>
    split
    · exact (((hclear _ _).trans (hmap _ _)).trans (sameData_markSeen ..)).trans (sameData_acquired ..)
    · exact ((hclear _ _).trans (hmap _ _)).trans (sameData_markSeen ..)
  next => exact ((hclear _ _).trans (hmap _ _)).trans (sameData_markSeen ..)

/-- The bytes bs stand at key as they are read under ck and tweak; every other byte of the line reads as before under them, and every byte of
another line under every key; host memory and the registers are as they were. -/
structure WriteFramed (s t : State) (ck : List Byte) (tweak key : Nat) (bs : List Byte) : Prop where
  written : readPhys t ck tweak key bs.length = bs
  line : ∀ b, b / 128 = key / 128 → (b < key ∨ key + bs.length ≤ b) → readPhys t ck tweak b 1 = readPhys s ck tweak b 1
  others : ∀ b ck' tweak', b / 128 ≠ key / 128 → readPhys t ck' tweak' b 1 = readPhys s ck' tweak' b 1
  host : ∀ b, Memory.read t.hostMem b = Memory.read s.hostMem b
  regs : ∀ gid n l, t.regWord gid n l = s.regWord gid n l

/-- The frame of a lane's write, over a memory in its canonical form. -/
theorem laneWritten_framed {s : State} {w : Write} {a : LaneAcc} {home key : Nat} {old bs : List Byte} (hm : Memory.wf s.mem = true)
    (hfit : key % 128 + bs.length ≤ 128) :
    WriteFramed s (laneWritten s w a home key old bs) (lineKey s home w.ctx (lineOf a.va)) (lineOf a.va) key bs := by
  have hsame := (sameData_performAt s home w.ctx a.va key bs).trans (sameData_laneWritten s w a home key old bs)
  refine ⟨?_, fun b hline hout => ?_, fun b ck tweak hline => ?_, fun b => ?_, fun gid n l => ?_⟩
  · rw [hsame.readPhys_eq, readPhys_writePhys_same hm hfit]
  · rw [hsame.readPhys_eq, readPhys_writePhys_line hm hfit hline hout]
  · rw [hsame.readPhys_eq, readPhys_writePhys_other hm hfit hline]
  · rw [hsame.hostMem, writePhys_hostMem]
  · rw [hsame.regs]
    simp only [State.regWord, State.group?, writePhys_groups]

/-! ## When a lane's write is performed -/

section Performed

variable {s : State} {w : Write} {a : LaneAcc} {op lane h p key : Nat} (hw : s.write? op = some w) (ha : waitingLane w.lanes lane = some a)
  (hheld : writeHeld s w a = false) (hstale : staleAt s w.pkg w.ctx w.epoch a.va = false) (hat : translate s w.pkg w.ctx a.va = .at_ h p key)
include hw ha hheld hstale hat

theorem performStore_home (hatom : w.atom = none) : performStore s op lane .none = some (laneWritten s w a h key [] a.data) := by
  simp [performStore, hw, ha, hheld, hstale, hat, hatom, homeUpset]

theorem atomicExecute_home {o : Nat} {old : List Byte} {bad : Bool} (hatom : w.atom = some o)
    (hsound : w.use = .none ∨ poisonedAt s key (atomWidth o) = false) (hread : readHome s w.pkg w.ctx a.va (atomWidth o) = .bytes old bad) :
    atomicExecute s op lane =
      some (laneWritten s w a h key old (toLE (atomWidth o) (atomNew o (leNat old) (leNat a.data) (leNat a.cmp)))) := by
  have hgo : ¬(poisonedAt s key (atomWidth o) = true ∧ w.use ≠ .none) := by
    rintro ⟨hbad, huse⟩
    rcases hsound with hnone | hgood
    · exact huse hnone
    · simp [hgood] at hbad
  simp only [atomicExecute, hw, ha, hheld, hstale, hat, hatom, hread, if_neg hgo]
  simp

variable {t : State} (hm : Memory.wf s.mem = true)
include hm

/-! ## The frame of O60 over a canonical memory, which every step keeps -/

theorem writePerform_framed (hatom : w.atom = none) (hfit : key % 128 + a.data.length ≤ 128)
    (hnext : exec (.writePerform (.lane op lane) .none) s = .next t) :
    WriteFramed s t (lineKey s h w.ctx (lineOf a.va)) (lineOf a.va) key a.data := by
  obtain rfl := Host.Outcome.next.inj (hnext.symm.trans (ifEnabled_some (performStore_home hw ha hheld hstale hat hatom)))
  exact laneWritten_framed hm hfit

theorem atomicExecute_framed {o : Nat} {old bs : List Byte} {bad : Bool} (hatom : w.atom = some o)
    (hsound : w.use = .none ∨ poisonedAt s key (atomWidth o) = false) (hread : readHome s w.pkg w.ctx a.va (atomWidth o) = .bytes old bad)
    (hbs : bs = toLE (atomWidth o) (atomNew o (leNat old) (leNat a.data) (leNat a.cmp))) (hfit : key % 128 + bs.length ≤ 128)
    (hnext : exec (.atomicExecute op lane) s = .next t) :
    WriteFramed s t (lineKey s h w.ctx (lineOf a.va)) (lineOf a.va) key bs := by
  subst hbs
  obtain rfl := Host.Outcome.next.inj (hnext.symm.trans (ifEnabled_some (atomicExecute_home hw ha hheld hstale hat hatom hsound hread)))
  exact laneWritten_framed hm hfit

end Performed

/-! ## A memory that lists an address out of order -/

/-- A store of one zero byte to address 0. -/
def zeroStore : Write :=
  { id := 2, gid := 3, holders := [0], ctx := 0, pkg := 0, core := 0, atom := none, use := .none, width := 1, acq := none, kind := 1
    lanes := [{ lane := 0, va := 0, data := [0] }], mask := 1, scalar := false, place := { pc := 0, header := false, hdr := 0, idx := 0, len := 1 } }

/-- The store in flight over a memory that lists address 1 before address 0, which holds 7. -/
def unsorted : State :=
  { State.reset with
    mem := [(1, 5), (0, 7)], ctxs := [routedCtx]
    pages := [{ ctx := 0, pkg := 0, va := 0, state := .mapped, frames := [0], newFrames := [], since := 0, bad := none }]
    writes := [zeroStore], nextId := 4 }

/-- The store's one lane. -/
def zeroLane : LaneAcc := { lane := 0, va := 0, data := [0] }

theorem unsorted_translate : translate unsorted 0 0 0 = .at_ 0 0 0 := by decide

theorem unsorted_performs : performStore unsorted 2 0 .none = some (laneWritten unsorted zeroStore zeroLane 0 0 [] [0]) :=
  performStore_home (w := zeroStore) rfl rfl rfl rfl unsorted_translate rfl

/-- Address 0 reads as 7 after the store too. -/
theorem unsorted_readsOld : readPhys (laneWritten unsorted zeroStore zeroLane 0 0 [] [0]) (lineKey unsorted 0 0 0) 0 0 1 = [7] := by decide

/-- Refutes O60: the statement does not ask that memory has its canonical form, and a byte listed out of order keeps its value. -/
theorem not_storeFrame : ¬ Obligations.StoreFrame := by
  intro h
  obtain ⟨hread, -⟩ := h unsorted _ zeroStore zeroLane 2 0 0 0 0 [0] _ rfl rfl unsorted_translate rfl rfl (.inl ⟨rfl, rfl, rfl⟩) (by decide)
    (ifEnabled_some unsorted_performs)
  exact absurd (hread.symm.trans unsorted_readsOld) (by decide)

end Sys2Proof.Machine

/-! SUPPORT. The order of an access's address traps (R220, R224, R448): what the checks of its lanes answer where some lane breaks one of them, and the
trap that the access takes. -/

namespace Sys2Proof.Machine

open Sys2Proof

/-- A list that passes two checks together passes each. -/
theorem all_of_all_and {α : Type} {l : List α} {p q : α → Bool} (h : l.all (fun a => p a && q a) = true) : l.all p = true ∧ l.all q = true := by
  simp only [List.all_eq_true, Bool.and_eq_true] at h ⊢
  exact ⟨fun a ha => (h a ha).1, fun a ha => (h a ha).2⟩

section AccessTraps

variable {s : State} {x : Iss} {once onlyW : Bool} {n o a : Nat} {la : List (Nat × Nat)}

theorem accessTrap_align (hbad : firstBad once la (fun a => a % n == 0) = some (o, a)) :
    accessTrap s x once n onlyW la = some { cause := 0x0B, info := o, addr := a } := by
  simp only [accessTrap, hbad]; rfl

theorem accessTrap_addr (halign : la.all (fun p => p.2 % n == 0) = true)
    (hbad : firstBad once la (fun a => (routeOf s x.g.pkg x.g.ctx a).isSome) = some (o, a)) :
    accessTrap s x once n onlyW la = some { cause := 0x0A, info := o, addr := a } := by
  simp only [accessTrap, firstBad_none (ok := fun a => a % n == 0) halign, hbad]; rfl

theorem accessTrap_rlock (hok : la.all (fun p => p.2 % n == 0 && (routeOf s x.g.pkg x.g.ctx p.2).isSome) = true)
    (hbad : firstBad once la (fun a => !rltHit s x.g.pkg x.g.core a onlyW) = some (o, a)) :
    accessTrap s x once n onlyW la = some { cause := 0x08, info := o, addr := a } := by
  obtain ⟨halign, hroute⟩ : la.all (fun p => p.2 % n == 0) = true ∧ la.all (fun p => (routeOf s x.g.pkg x.g.ctx p.2).isSome) = true :=
    all_of_all_and hok
  simp only [accessTrap, firstBad_none (ok := fun a => a % n == 0) halign,
    firstBad_none (ok := fun a => (routeOf s x.g.pkg x.g.ctx a).isSome) hroute, hbad]; rfl

theorem ldcTrap_align (hbad : firstBad once la (fun a => a % 4 == 0) = some (o, a)) :
    ldcTrap s x once la = some { cause := 0x0B, info := o, addr := a } := by
  simp only [ldcTrap, hbad]; rfl

theorem ldcTrap_addr (halign : la.all (fun p => p.2 % 4 == 0) = true)
    (hbad : firstBad once la (fun a => decide (a < x.k.csize)) = some (o, a)) :
    ldcTrap s x once la = some { cause := 0x0A, info := o, addr := a } := by
  simp only [ldcTrap, firstBad_none (ok := fun a => a % 4 == 0) halign, hbad]; rfl

theorem ldcTrap_rlock (hok : la.all (fun p => p.2 % 4 == 0 && decide (p.2 < x.k.csize)) = true)
    (hbad : firstBad once la (fun a => !rltHit s x.g.pkg x.g.core (x.k.cbase + a) true) = some (o, a)) :
    ldcTrap s x once la = some { cause := 0x08, info := o, addr := a } := by
  obtain ⟨halign, hinside⟩ : la.all (fun p => p.2 % 4 == 0) = true ∧ la.all (fun p => decide (p.2 < x.k.csize)) = true :=
    all_of_all_and hok
  simp only [ldcTrap, firstBad_none (ok := fun a => a % 4 == 0) halign,
    firstBad_none (ok := fun a => decide (a < x.k.csize)) hinside, hbad]; rfl

variable {act : Mask} {w : FmtM} {t : Trap}

/-- Each access makes the checks of R220 over its own lanes and size before anything else, and takes their trap. -/
theorem access_traps {i : Instr} {f : Form} (hi : Accesses x w i f n once onlyW) (hruns : Runs s x f act) (hwindow : x.sp.window = none)
    (htrap : accessTrap s x once n onlyW (laneAddrs x w.ab.toNat w.off.toInt n once act) = some t) :
    exec i s = .next (takeTrap s x.g x.sp x.k t x.sp.at) := by
  rcases hi with ⟨ty, rfl, rfl, rfl, rfl, rfl⟩ | ⟨ty, rfl, rfl, rfl, rfl, rfl⟩ | ⟨op, rfl, rfl, rfl, rfl, rfl⟩ | ⟨op, rfl, rfl, rfl, rfl, rfl⟩
    | ⟨rfl, rfl, rfl, rfl, rfl⟩
  · exact issueWith_trap hruns (by simp only [bodyLd, htrap]) hwindow
  · exact issueWith_trap hruns (by simp only [bodySt, htrap]) hwindow
  · exact issueWith_trap hruns (by simp only [bodyAtom, htrap]) hwindow
  · exact issueWith_trap hruns (by simp only [bodyRed, htrap]) hwindow
  · exact issueWith_trap hruns (by simp only [bodyCuew, htrap]) hwindow

theorem ldc_traps (hruns : Runs s x (formLdc w) act) (hwindow : x.sp.window = none)
    (htrap : ldcTrap s x (onceM x w.ab.toNat w.d.toNat)
      (laneAddrs x w.ab.toNat w.off.toInt 4 (onceM x w.ab.toNat w.d.toNat) act) = some t) :
    exec (.ldc w) s = .next (takeTrap s x.g x.sp x.k t x.sp.at) :=
  issueWith_trap hruns (by simp only [bodyLdc, htrap]) hwindow

end AccessTraps

/-- Settles O10: the checks answer ALIGN, then ADDR, then RLOCK, and each access takes what they answer. -/
theorem accessTrapOrder : Obligations.AccessTrapOrder := by
  intro s x act w la o a hwindow
  constructor
  · rintro i f n once onlyW hi hruns rfl
    exact ⟨fun hbad => access_traps hi hruns hwindow (accessTrap_align hbad),
      fun halign hbad => access_traps hi hruns hwindow (accessTrap_addr halign hbad),
      fun hok hbad => access_traps hi hruns hwindow (accessTrap_rlock hok hbad)⟩
  · rintro once rfl hruns rfl
    exact ⟨fun hbad => ldc_traps hruns hwindow (ldcTrap_align hbad),
      fun halign hbad => ldc_traps hruns hwindow (ldcTrap_addr halign hbad),
      fun hok hbad => ldc_traps hruns hwindow (ldcTrap_rlock hok hbad)⟩

end Sys2Proof.Machine

/-! SUPPORT. Control transfers (R200, R201, R204 to R206): the fifth split that a transfer would make, the return stacks that RET needs, and the table that
a JMPT reads. -/

namespace Sys2Proof.Machine

open Sys2Proof

theorem mem_lanes {m : Mask} {i : Nat} : i ∈ m.lanes ↔ m.getLsbD i = true := by
  simp only [Mask.lanes, List.mem_filter, List.mem_range, and_iff_right_iff_imp]
  exact BitVec.lt_of_getLsbD

section Transfers

variable {s t : State} {x : Iss} {f : Form} {act : Mask} {w : FmtC} {dest dest' : Nat → Nat} {pre : State → State} {d0 : Nat} {others : List Nat}

/-- An issue by a ready split whose body places the split itself ends there. -/
theorem issueWith_jump {body : Iss → Mask → State → Res} (hruns : Runs s x f act) (hbody : body x act s = .jump t) :
    issueWith s f body = .next t := by
  rw [issueWith_ready hruns, hbody]; rfl

/-! ## Where the lanes go -/

/-- Only the acting lanes' destinations count (R200). -/
theorem transferTo_congr (h : ∀ i ∈ act.lanes, dest i = dest' i) : transferTo s x act dest pre = transferTo s x act dest' pre := by
  have hland : (fun i => if act.getLsbD i then dest i else x.sp.fall) = fun i => if act.getLsbD i then dest' i else x.sp.fall := by
    funext i
    split
    next hi => exact h i (mem_lanes.mpr hi)
    next => rfl
  simp only [transferTo, hland]

/-- A transfer that would leave more than four splits traps before it changes anything (R201). -/
theorem transferTo_splitov (hwindow : x.sp.window = none)
    (hdests : distinct (x.sp.mask.lanes.map (fun i => if act.getLsbD i then dest i else x.sp.fall)) = d0 :: others)
    (hmany : 4 < x.g.splits.length + others.length) :
    transferTo s x act dest pre = .trap { cause := 0x0D, info := x.g.splits.length + others.length } := by
  simp only [transferTo, hdests, hwindow, if_pos hmany]
  rfl

/-! ## RET -/

/-- RET takes its destinations off the return stacks where each acting lane has one (R205). -/
theorem bodyRet_transfers (hlinked : ∀ i ∈ act.lanes, x.g.retStacks.getD i [] ≠ []) :
    bodyRet w x act s = transferTo s x act (fun i => (x.g.retStacks.getD i []).headD 0)
      (fun s => popLinks x act (transferReads x (formRet w) s)) := by
  have hnone : act.lanes.find? (fun i => (x.g.retStacks.getD i []).isEmpty) = none :=
    List.find?_eq_none.mpr fun i hi => by simpa using hlinked i hi
  simp only [bodyRet, hnone]

/-! ## JMPT -/

theorem tableWord_read {off : Nat} {bs : List Byte} {k : Nat → Res} (h : constWord s x off = .bytes bs false) :
    tableWord s x act w off k = k (leNat bs) := by
  simp only [tableWord, h]; rfl

/-- The lane's entry of a jump table whose words are T (R206). -/
def tableEntryOf (x : Iss) (w : FmtC) (T : Nat → List Byte) (i : Nat) : Nat := 8 * leNat (T ((readWord x w.a.toNat i).toNat + 1))

theorem tableDests_read {T : Nat → List Byte} {ls : List Nat} (k : List (Nat × Nat) → Res)
    (h : ∀ i ∈ ls, constWord s x (tableOff w + 4 * ((readWord x w.a.toNat i).toNat + 1)) = .bytes (T ((readWord x w.a.toNat i).toNat + 1)) false) :
    tableDests s x act w ls k = k (ls.map (fun i => (i, tableEntryOf x w T i))) := by
  induction ls generalizing k with
  | nil => rfl
  | cons i ls ih =>
    rw [tableDests, tableWord_read (h i List.mem_cons_self), ih _ fun j hj => h j (List.mem_cons_of_mem i hj)]
    rfl

/-- A function's value is found again in its graph over a list. -/
theorem find?_graph {g : Nat → Nat} {ls : List Nat} {i : Nat} (hi : i ∈ ls) :
    (((ls.map (fun j => (j, g j))).find? (fun p => p.1 == i)).map (·.2)).getD 0 = g i := by
  have hfind : ls.find? (fun j => j == i) = some i := by
    obtain ⟨j, hj⟩ := Option.isSome_iff_exists.mp (List.find?_isSome (p := fun j => j == i) |>.mpr ⟨i, hi, beq_self_eq_true i⟩)
    have hji : j = i := by simpa using List.find?_some hj
    rw [hj, hji]
  simp only [List.find?_map, Function.comp_def, hfind, Option.map_some, Option.getD_some]

/-- JMPT sends each acting lane to its entry of a table that passes its checks (R206). -/
theorem bodyJmpt_transfers {T : Nat → List Byte} (hT : TableGood s x act w T) :
    bodyJmpt w x act s = transferTo s x act (tableEntryOf x w T) (transferReads x (formJmpt w)) := by
  obtain ⟨hparked, hwaits, hstale, hwords, hpos, hlen, hfits, hbound⟩ := hT
  have hsize : ¬ x.k.csize < tableOff w + 4 := by omega
  have htable : ¬ (leNat (T 0) = 0 ∨ 65535 < leNat (T 0) ∨ x.k.csize < tableOff w + 4 * (leNat (T 0) + 1)) := by omega
  have hin : act.lanes.find? (fun i => decide (leNat (T 0) ≤ (readWord x w.a.toNat i).toNat)) = none :=
    List.find?_eq_none.mpr fun i hi => by simpa using hbound i hi
  have hcount : constWord s x (tableOff w) = .bytes (T 0) false := hwords 0 (.inl rfl)
  simp only [bodyJmpt, hparked, hwaits, hstale, if_neg hsize, tableWord_read hcount, if_neg htable, hin,
    tableDests_read (T := T) _ fun i hi => hwords _ (.inr ⟨i, hi, rfl⟩)]
  exact transferTo_congr fun i hi => find?_graph hi

end Transfers

/-- Settles O13: each body is a transfer to its destinations, which places the splits or, for a fifth one, traps. -/
theorem transfersComplete : Obligations.TransfersComplete := by
  refine ⟨fun s x act w d0 others => ⟨?bra, ?brx, ?call, ?calli, ?ret⟩, ?jmpt, ?splitov⟩
  case bra | brx | call | calli => exact fun hruns hsends => issueWith_jump hruns (transferTo_sends hsends)
  case ret => exact fun hruns hlinked hsends => issueWith_jump hruns ((bodyRet_transfers hlinked).trans (transferTo_sends hsends))
  case jmpt => exact fun s x act w d0 others T hruns hT hsends => issueWith_jump hruns ((bodyJmpt_transfers hT).trans (transferTo_sends hsends))
  case splitov =>
    intro s x act w i f dest d0 others T htransfer hruns hwindow hdests hmany
    have htrap {body : Iss → Mask → State → Res} {pre : State → State} (hbody : body x act s = transferTo s x act dest pre) :
        issueWith s f body = .next (takeTrap s x.g x.sp x.k { cause := 0x0D, info := x.g.splits.length + others.length } x.sp.at) :=
      issueWith_trap hruns (hbody.trans (transferTo_splitov hwindow hdests hmany)) hwindow
    rcases htransfer with ⟨rfl, rfl, rfl⟩ | ⟨rfl, rfl, rfl⟩ | ⟨rfl, rfl, rfl⟩ | ⟨rfl, rfl, rfl⟩ | ⟨rfl, rfl, hlinked, rfl⟩ | ⟨rfl, rfl, hT, rfl⟩
    · exact htrap (body := bodyBra w) rfl
    · exact htrap (body := bodyBrx w) rfl
    · exact htrap (body := bodyCall w) rfl
    · exact htrap (body := bodyCalli w) rfl
    · exact htrap (bodyRet_transfers hlinked)
    · exact htrap (bodyJmpt_transfers hT)

end Sys2Proof.Machine

/-! SUPPORT. EXIT and RTE (R207, R213): the three ways an EXIT leaves its split, and the return from a handler. -/

namespace Sys2Proof.Machine

open Sys2Proof

section Exit

variable {s : State} {x : Iss} {act : Mask} {w : FmtC}

/-- A split that keeps a lane goes on at the fall-through without the acting ones. -/
theorem bodyExit_keeps (hrest : x.sp.lanes &&& ~~~act ≠ 0) : bodyExit w x act s =
    .jump (settleBarriers ((emptyStacks s x act).mapSplit x.g.id x.sp.id (fun sp =>
      { (sp.noteRegion (guardRegs w.g) []).goTo x.sp.fall with lanes := x.sp.lanes &&& ~~~act, mask := sp.mask &&& ~~~act })) x.g.inst) :=
  if_neg hrest

/-- The group without the split, which asks to yield for it (R84). -/
def dropSplit (s : State) (x : Iss) : State :=
  s.mapGroup x.g.id (fun g =>
    { g with splits := (g.splits.filter (fun sp => sp.id != x.sp.id)).map (fun sp => { sp with yld := sp.yld || x.sp.yld }) })

theorem bodyExit_ends (hrest : x.sp.lanes &&& ~~~act = 0) : bodyExit w x act s =
    .jump (if x.g.splits.length = 1 then lastLaneLeft (dropSplit (emptyStacks s x act) x) x
      else settleBarriers (dropSplit (emptyStacks s x act) x) x.g.inst) :=
  if_pos hrest

theorem bodyRte_returns (hin : x.sp.inHandler = true) : bodyRte w x act s = .jump (s.mapSplit x.g.id x.sp.id Split.leaveHandler) := if_pos hin

end Exit

/-- Settles O14: an EXIT keeps its split or ends it, the last one of its group or not, and RTE leaves the handler. -/
theorem exitAndReturnComplete : Obligations.ExitAndReturnComplete := by
  intro s x act w
  refine ⟨fun hruns hrest => ?keeps, fun hruns hrest hothers => ?ends, fun hruns hrest hlast => ?last, fun hruns hin => ?rte⟩
  case keeps => exact issueWith_jump hruns (bodyExit_keeps hrest)
  case ends => exact issueWith_jump hruns ((bodyExit_ends hrest).trans (congrArg Res.jump (if_neg hothers)))
  case last => exact issueWith_jump hruns ((bodyExit_ends hrest).trans (congrArg Res.jump (if_pos hlast)))
  case rte => exact issueWith_jump hruns (bodyRte_returns hin)

end Sys2Proof.Machine

/-! SUPPORT. TRAP and the taking of a trap (R99, R210 to R212, R214): the handler or a context fault, SR.TCAUSE as TRAPI leaves it, and the checks of R97
that come before TRAP executes. -/

namespace Sys2Proof.Machine

open Sys2Proof

/-! ## The handler, or a context fault (R210) -/

section TakeTrap

variable {s : State} {g : Group} {sp : Split} {k : Inst} {t : Trap} {p : TrapAt}

theorem takeTrap_handler {h : Nat} (hhandler : k.handler = some h) (hout : sp.inHandler = false) :
    takeTrap s g sp k t p = s.mapSplit g.id sp.id (fun sp => sp.enterHandler t p h) := by
  simp [takeTrap, hhandler, hout]

theorem takeTrap_escalates (hnone : k.handler = none ∨ sp.inHandler = true) : takeTrap s g sp k t p = raiseCtxFault s g.pkg g.ctx
    { cause := t.cause, pkg := g.pkg, info := t.info % 2 ^ 20, core := g.core, tpc := p.pc, addr := t.addr } := by
  unfold takeTrap
  rcases hnone with hnone | hin
  · rw [hnone]
  · cases k.handler with
    | none => rfl
    | some h => exact if_pos hin

end TakeTrap

/-! ## SR.TCAUSE of TRAPI (R211) -/

/-- CAUSE in [7:0], SKIP in bit 8, IN in bit 9 and INFO from bit 12 up. -/
theorem tcauseWord_trapi (imm : BitVec 20) : tcauseWord 0x11 imm.toNat = BitVec.ofNat 32 (0x11 + 0x100 + 0x200 + imm.toNat * 2 ^ 12) := by
  have hinfo : imm.toNat % 2 ^ 20 = imm.toNat := Nat.mod_eq_of_lt imm.isLt
  rw [tcauseWord, hinfo]
  rfl

theorem tcauseWord_trapi_info (imm : BitVec 20) : (tcauseWord 0x11 imm.toNat).extractLsb' 12 20 = imm := by
  have himm : imm.toNat < 2 ^ 20 := imm.isLt
  refine BitVec.eq_of_toNat_eq ?_
  rw [tcauseWord_trapi, BitVec.extractLsb'_toNat, BitVec.toNat_ofNat, Nat.shiftRight_eq_div_pow]
  omega

theorem tcauseWord_trapi_cause (imm : BitVec 20) : (tcauseWord 0x11 imm.toNat).extractLsb' 0 8 = 0x11 := by
  refine BitVec.eq_of_toNat_eq ?_
  rw [tcauseWord_trapi, BitVec.extractLsb'_toNat, BitVec.toNat_ofNat, Nat.shiftRight_eq_div_pow]
  change (17 + 256 + 512 + imm.toNat * 2 ^ 12) % 2 ^ 32 / 2 ^ 0 % 2 ^ 8 = 17
  omega

/-! ## The checks before an instruction executes (R97) -/

section Verdicts

variable {s : State} {x : Iss} {f : Form} {body : Iss → Mask → State → Res}

theorem issueWith_verdict_trap {t : Trap} (hissuer : issuer s = some x) (hwindow : x.sp.window = none) (hv : verdict x f = .trap t) :
    issueWith s f body = .next (takeTrap s x.g x.sp x.k t x.sp.at) := by
  simp [issueWith, issueAt, hissuer, windowStalls, hwindow, hv, issueTrap]

theorem issueWith_noLane (hissuer : issuer s = some x) (hwindow : x.sp.window = none) (hv : verdict x f = .noLane) :
    issueWith s f body = .next (passOver s x f) := by
  simp [issueWith, issueAt, hissuer, windowStalls, hwindow, hv]

theorem verdict_illop (hbad : f.illop = true) : verdict x f = .trap f.trapIllop := by simp [verdict, hbad]

/-- An instruction whose guard no lane passes, and that writes no mask scalar, is passed over (R89, R113). -/
theorem verdict_noLane (hgood : f.illop = false) (hregs : f.illopd x.k = none) (hguard : srcEmpty x.g (guardRegs f.g) false = .ready)
    (hnone : actMask x f = 0) (hmask : maskWrite x f = false) : verdict x f = .noLane := by
  simp [verdict, hgood, hregs, hguard, hnone, hmask]

end Verdicts

/-! ## TRAP (R214) -/

section TrapInstr

variable {s : State} {x : Iss} {act : Mask} {w : FmtI}

/-- A register field or an EP bit that is not zero is ILLOP, since TRAP uses none of them. -/
theorem formTrap_illop (h : w.d ≠ 0 ∨ w.a ≠ 0 ∨ w.ep ≠ 0) : (formTrap w).illop = true := by
  have hfield (r : BitVec 10) (hr : r ≠ 0) : (r.toNat != 0) = true := by simpa [BitVec.toNat_eq] using hr
  have hep : ∀ ep : BitVec 3, ep ≠ 0 → (epBit ep 0 = true ∨ epBit ep 1 = true ∨ epBit ep 2 = true) := by
    unfold epBit; decide
  rcases h with hd | ha | hset
  · simp [Form.illop, formTrap, formSysI, opdsI, Opd.illop, hfield _ hd]
  · simp [Form.illop, formTrap, formSysI, opdsI, Opd.illop, hfield _ ha]
  · rcases hep _ hset with h0 | h1 | h2
    · simp [Form.illop, formTrap, formSysI, opdsI, Opd.illop, h0]
    · simp [Form.illop, formTrap, formSysI, h1]
    · simp [Form.illop, formTrap, formSysI, h2]

/-- TRAP names no register, so no operand of it offends (R95). -/
theorem formTrap_illopd (k : Inst) : (formTrap w).illopd k = none := by
  simp [Form.illopd, formTrap, formSysI, opdsI, Opd.illopd, Form.r96, Opd.scalarDst]

theorem formTrap_maskWrite : maskWrite x (formTrap w) = false := by
  simp [maskWrite, Form.dsts, formTrap, formSysI, opdsI, Opd.dstRegs]

theorem exec_trap (hruns : Runs s x (formTrap w) act) (hwindow : x.sp.window = none) :
    exec (.trap w) s = .next (takeTrap s x.g x.sp x.k { cause := 0x11, info := w.imm.toNat } x.sp.at) :=
  issueWith_trap hruns rfl hwindow

theorem decode_trap (w : FmtI) : decode (putI 0x109 w) = .trap w := by
  simp [decode, decode4]

end TrapInstr

/-- Settles O15: TRAP's trap enters the handler or escalates, and the entry sets what R211 and R212 name and keeps the rest. -/
theorem trapTakesHandlerOrFaults : Obligations.TrapTakesHandlerOrFaults := by
  refine ⟨fun s x act w h hruns hwindow hhandler hout => ⟨?enters, fun sp _ => ?entry⟩, fun s x act w hruns hwindow hnone => ?faults⟩
  case enters => rw [exec_trap hruns hwindow, takeTrap_handler hhandler hout]
  case entry => exact ⟨tcauseWord_trapi w.imm, rfl, rfl, rfl, rfl, rfl⟩
  case faults =>
    have hinfo : w.imm.toNat % 2 ^ 20 = w.imm.toNat := Nat.mod_eq_of_lt w.imm.isLt
    rw [exec_trap hruns hwindow, takeTrap_escalates hnone, hinfo]
    rfl

/-- Settles O48: TRAP's word reads back, its zero fields and its guard are checked in the order of R97, and it traps with its immediate. -/
theorem trapInstructionRule : Obligations.TrapInstructionRule := by
  intro s x act w
  refine ⟨decode_trap w, fun hissuer hwindow hfields => ?illop, fun hissuer hwindow hgood hguard hnone => ?noLane, fun hruns hwindow => ?traps⟩
  case illop => exact issueWith_verdict_trap hissuer hwindow (verdict_illop (formTrap_illop hfields))
  case noLane => exact issueWith_noLane hissuer hwindow (verdict_noLane hgood (formTrap_illopd x.k) hguard hnone formTrap_maskWrite)
  case traps =>
    exact ⟨exec_trap hruns hwindow, fun h hhandler hout => takeTrap_handler hhandler hout,
      fun h sp => ⟨tcauseWord_trapi_info w.imm, tcauseWord_trapi_cause w.imm, rfl⟩⟩

end Sys2Proof.Machine

/-! SUPPORT. Holds, the active set, wait limits, and the ends of waits and of FENCES windows (R84, R120, R153 to R155, R203, R216, R316, R318, R319): the
next state of each event where its conditions hold. -/

namespace Sys2Proof.Machine

open Sys2Proof

theorem ifReady_some {o : Option (Host.Outcome State Fault Refusal)} {r : Host.Outcome State Fault Refusal} (h : o = some r) : ifReady o = r := by
  rw [h]; rfl

section Events

variable {s : State} {x : Iss} {gid spid : Nat}

/-! ## Holds and the active set -/

section OfGroup

variable (hg : s.group? gid = some x.g)
include hg

theorem splitHoldEnd_frees (hk : s.inst? x.g.inst = some x.k) (hsp : x.g.split? spid = some x.sp) (hheld : heldBack s x.g x.k x.sp = true)
    (hlimit : 64 ≤ x.sp.held) : splitHoldEnd s gid spid = some (s.mapSplit gid spid (fun sp => { sp with free := true, held := 0 })) := by
  simp only [splitHoldEnd, hg, hk, hsp]
  exact if_pos ⟨hheld, hlimit⟩

theorem activeSetEnter_enters (hstate : x.g.state = .resident) (hready : groupReady s x.g = true) (hplace : placesTaken (groupsOn s x.g) < 8)
    (hclaim : (groupsOn s x.g).any (fun o => o.id != gid && o.state == .resident && groupReady s o && betterClaim s x.g o) = false) :
    activeSetEnter s gid = some (s.mapGroup gid (fun g => { g with state := .active, readyCyc := 0, activeSince := s.tick })) := by
  simp only [activeSetEnter, hg]
  exact if_pos ⟨hstate, hready, hplace, by simp only [hclaim]; rfl⟩

section AtBoundary

variable (hboundary : x.g.atBoundary = true)
include hboundary

theorem activeSetLeave_active (hstate : x.g.state = .active) (hdue : x.g.leaving = true ∨ departs s x.g = true) :
    activeSetLeave s gid = some (leaveActive s x.g) := by
  simp [activeSetLeave, hg, hboundary, hstate, hdue]

theorem activeSetLeave_parked (hstate : x.g.state = .parked) (hholds : x.g.holdsPlace = true) :
    activeSetLeave s gid = some (leaveActive s x.g) := by
  simp [activeSetLeave, hg, hboundary, hstate, hholds]

theorem swapTimeout_leaves (hstate : x.g.state = .active)
    (hover : (groupsOn s x.g).any (fun o => o.state == .resident && decide (2048 ≤ o.readyCyc) && groupReady s o) = true)
    (hlongest : (groupsOn s x.g).any (fun o => o.state == .active && o.atBoundary && decide (o.activeSince < x.g.activeSince)) = false) :
    swapTimeout s gid = some (leaveActive s x.g) := by
  have hlong : activeLongest s x.g = true := by rw [activeLongest, ← List.not_any_eq_all_not, hlongest]; rfl
  simp only [swapTimeout, hg]
  exact if_pos ⟨hstate, hboundary, hover, hlong⟩

end AtBoundary

end OfGroup

/-! ## Wait limits -/

/-- A wait that has reached its limit, of a group on its core and outside a window, is due (R120). -/
theorem waitDue_some {g : Group} {sp : Split} {v : Wait} {lim : Nat} (hwait : sp.wait = some v) (hlim : waitLimit g.waitlim = some lim)
    (hreached : lim ≤ v.count) (hon : g.counting = true ∨ g.state = .parked) (hwindow : sp.window = none) : waitDue g sp = some v := by
  have hpresent : g.present = true := by simpa [Group.present] using hon
  simp only [waitDue, hwait, hlim, hwindow]
  exact if_pos ⟨hreached, hpresent, rfl⟩

section OfSplit

variable (hg : s.group? gid = some x.g) (hk : s.inst? x.g.inst = some x.k) (hsp : x.g.split? spid = some x.sp)
include hg hk hsp

theorem waitto_traps {v : Wait} (hdue : waitDue x.g x.sp = some v) (hplain : v.boundary = true ∨ x.sp.atHint = false) :
    waitto s gid spid = some (takeTrap s x.g x.sp x.k { cause := 0x07, info := v.kind.code } (x.sp.waitPlace v)) := by
  simp only [waitto, hg, hk, hsp, hdue]
  refine if_neg fun ⟨hin, hhint⟩ => ?_
  rcases hplain with h | h
  · simp [hin] at h
  · simp [hhint] at h

theorem waitto_hint {v : Wait} (hdue : waitDue x.g x.sp = some v) (hin : v.boundary = false) (hhint : x.sp.atHint = true) :
    waitto s gid spid = some (s.mapSplit gid spid Split.advance) := by
  simp only [waitto, hg, hk, hsp, hdue]
  exact if_pos ⟨hin, hhint⟩

end OfSplit

/-! ## Waits that end -/

theorem waittExpire_waitt {w : FmtA} {t : Nat} (hstands : standsAt s gid spid = some (x, .waitt w)) (hwaitt : x.sp.waitt = some t)
    (hcome : t ≤ nowOf s x.g) : execWaittExpire gid spid s = execWaitt w { s with cur := some (gid, spid) } :=
  ifReady_some (by simp [hstands, hwaitt, hcome])

theorem waittExpire_waittD {w : FmtA} {t : Nat} (hstands : standsAt s gid spid = some (x, .waittD w)) (hwaitt : x.sp.waitt = some t)
    (hcome : t ≤ nowOf s x.g) : execWaittExpire gid spid s = execWaittD w { s with cur := some (gid, spid) } :=
  ifReady_some (by simp [hstands, hwaitt, hcome])

theorem fenceComplete_fence {w : FmtM} (hstands : standsAt s gid spid = some (x, .fence w)) (hready : fenceReady s x w.scope.toNat = true) :
    execFenceComplete gid spid s = execFence w { s with cur := some (gid, spid) } :=
  ifReady_some (by simp [hstands, hready])

/-- A split whose WAITT has a target waits for that, whatever tick it would take anew (R216). -/
theorem waitUntil_kept {f : Form} {n t : Nat} (hwaitt : x.sp.waitt = some t) (hcome : t ≤ nowOf s x.g) : waitUntil f x n s = .done s :=
  waitUntil_reached f (by rw [hwaitt]; exact hcome)

/-! ## FENCES windows -/

section Window

variable {v : Window} (hg : s.group? gid = some x.g) (hsp : x.g.split? spid = some x.sp) (hv : x.sp.window = some v)
include hg hsp hv

theorem fencesWindowClose_closes (hclean : v.conflict = false) (hcome : v.target ≤ nowOf s x.g) (hloads : earlierLoadsDone s gid spid v.firstLoad = true) :
    fencesWindowClose s gid spid = some (endWindowDenials
      ((State.mapGroup (closeLoads s gid spid v.firstLoad) gid (fun g => g.closeLogs spid)).mapSplit gid spid
        (fun sp => { sp with window := none, rollbacks := 0, asFence := false })) gid spid) := by
  simp only [fencesWindowClose, hg, hsp, hv]
  exact if_pos ⟨hclean, hcome, hloads⟩

theorem fencesRollback_rolls (hconflict : v.conflict = true) : fencesRollback s gid spid = some (rollback s x.g x.sp v true) := by
  simp only [fencesRollback, hg, hsp, hv]
  exact if_pos hconflict

end Window

end Events

/-- Settles O30: each clause's conditions are the guard of its event, whose own lemma gives the next state. -/
theorem activeSetAndWaitEventsComplete : Obligations.ActiveSetAndWaitEventsComplete := by
  constructor
  · intro s x gid spid hg hk
    exact ⟨fun hsp hheld hlimit => ifEnabled_some (splitHoldEnd_frees hg hk hsp hheld hlimit),
      fun hstate hready hplace hclaim => ifEnabled_some (activeSetEnter_enters hg hstate hready hplace hclaim),
      fun hboundary hstate hdue => ifEnabled_some (activeSetLeave_active hg hboundary hstate hdue),
      fun hboundary hstate hholds => ifEnabled_some (activeSetLeave_parked hg hboundary hstate hholds),
      fun hboundary hstate hover hlongest => ifEnabled_some (swapTimeout_leaves hg hboundary hstate hover hlongest)⟩
  · intro s x gid spid hg hk hsp
    refine ⟨fun v lim hwait hlim hreached hon hwindow => ?limit, fun w act t hstands hwaitt hcome hruns => ?waitt,
      fun w act t hstands hwaitt hcome hruns => ?waittD, fun w act hstands hready hruns => ?fence,
      fun v hv hclean hcome hloads => ifEnabled_some (fencesWindowClose_closes hg hsp hv hclean hcome hloads),
      fun v hv hconflict => ifEnabled_some (fencesRollback_rolls hg hsp hv hconflict)⟩
    case limit =>
      have hdue : waitDue x.g x.sp = some v := waitDue_some hwait hlim hreached hon hwindow
      exact ⟨fun hplain => ifEnabled_some (waitto_traps hg hk hsp hdue hplain), fun hin hhint => ifEnabled_some (waitto_hint hg hk hsp hdue hin hhint)⟩
    case waitt => exact (waittExpire_waitt hstands hwaitt hcome).trans (issueWith_done hruns (waitUntil_kept hwaitt hcome))
    case waittD => exact (waittExpire_waittD hstands hwaitt hcome).trans (issueWith_done hruns (waitUntil_kept hwaitt hcome))
    case fence => exact (fenceComplete_fence hstands hready).trans (issueWith_done hruns (bodyFence_passes hready))

end Sys2Proof.Machine

/-! SUPPORT. The engine instructions (R237, R254 to R264, R267, R387, R415): each body's fields, addresses and ranges pass its checks, and the
operation starts where neither a limit of R257 nor the range-lock table keeps it. -/

namespace Sys2Proof.Machine

open Sys2Proof

section Engines

variable {s : State} {x : Iss} {w : FmtA} {act : Mask} {p : EngPlan} {t : Tile} {d a len ctl : Nat}

/-! ## The checks that the engine instructions share (R237 steps 3, 4 and 7) -/

/-- Aligned values and ranges in order take no trap. -/
theorem addressChecks_pass {m : Nat} {l : List (Nat × Nat)} {rs : List Range} {k : Res} (haligned : aligned m (l.map (·.1)) = true)
    (hranges : rangesOk s x rs = true) : orTrap (misaligned m l) (orTrap (badRange s x rs) k) = k :=
  (orTrap_of_none (misaligned_none haligned)).trans (orTrap_of_none (badRange_none hranges))

theorem rangesOk_singleton {r : Range} (h : rangeOk s x r = true) : rangesOk s x [r] = true := by simp [rangesOk, h]

theorem aligned_singleton {m v : Nat} (h : v % m = 0) : aligned m [v] = true := by simp [aligned, h]

theorem misaligned_singleton {m v base : Nat} (h : v % m = 0) : misaligned m [(v, base)] = none := misaligned_none (aligned_singleton h)

/-- Step 7 of R237, of an operation that need not wait and does more than start. -/
theorem engWait_passes {block : List Nat → Res} {k : Res} (hfree : engWait s x p ctl = none) :
    (match engWait s x p ctl with
      | some l => block l
      | none => k) = k := by
  rw [hfree]

section Copies

/-! ## CPY, CPY2D, TLD and TST (R259, R260) -/

variable (hd : d = addrVal x w.d.toNat) (ha : a = addrVal x w.a.toNat) (hctl : ctl = wordVal x w.c.toNat)
  (hgood : ctlBad s x ctl false = false) (hfree : engWait s x p ctl = none)
include hctl hgood hfree

include hd ha in
/-- A CPY of length 0 completes at its issue (R256). -/
theorem bodyCpy_starts (hlen : len = wordVal x w.b.toNat) (hp : p = { kind := .cpy d a len, reads := [(a, len)], writes := [(d, len)] })
    (hbound : len ≤ 2 ^ 31) (haligned : aligned 16 [d, a, len] = true) (hranges : rangesOk s x [(d, len), (a, len)] = true) :
    bodyCpy w x act s = .done (if len = 0 then finishAtIssue s x ctl else startEng s x p ctl (modHi w.mod) none) := by
  subst hd ha hlen hctl hp
  refine (if_neg (by simp [hgood]; omega)).trans ((addressChecks_pass haligned hranges).trans ?_)
  split
  · exact engWait_passes hfree
  · exact issueEng_done hfree

include hd ha in
theorem bodyCpy2d_starts {rb rows ss ds : Nat} (hrb : rb = descWord x w.b.toNat 0) (hrows : rows = descWord x w.b.toNat 1)
    (hss : ss = descWord x w.b.toNat 2) (hds : ds = descWord x w.b.toNat 3)
    (hp : p = { kind := .cpy2d d a rb rows ss ds, reads := [(a, (rows - 1) * ss + rb)], writes := [(d, (rows - 1) * ds + rb)] })
    (hrbMin : 16 ≤ rb) (hrbMax : rb ≤ 2 ^ 20) (hrowsMin : 1 ≤ rows) (hrowsMax : rows ≤ 65536) (haligned : aligned 16 [d, a, rb, ss, ds] = true)
    (hranges : rangesOk s x [(d, (rows - 1) * ds + rb), (a, (rows - 1) * ss + rb)] = true) :
    bodyCpy2d w x act s = .done (startEng s x p ctl (modHi w.mod) none) := by
  subst hd ha hrb hrows hss hds hctl hp
  exact (if_neg (by simp [hgood]; omega)).trans ((addressChecks_pass haligned hranges).trans (issueEng_done hfree))

include ha in
theorem bodyTld_starts (hlen : len = wordVal x w.b.toNat) (ht : t = tileOf s x (tileEntry x w.d.toNat)) (hwrites : tileWrites s x w.d.toNat = true)
    (hp : p = { kind := .tld (tileEntry x w.d.toNat) a len, reads := [(a, (t.nrows - 1) * len + 4 * t.ncols)], writes := [],
                fill := some (tileEntry x w.d.toNat) })
    (haligned : aligned 4 [a, len] = true) (hrange : rangeOk s x (a, (t.nrows - 1) * len + 4 * t.ncols) = true) :
    bodyTld w x act s = .done (startEng s x p ctl (modHi w.mod) none) := by
  subst ha hlen ht hctl hp
  exact (if_neg (by simp [hgood])).trans ((withTile_writer hwrites).trans
    ((addressChecks_pass haligned (rangesOk_singleton hrange)).trans (issueEng_done hfree)))

include hd in
theorem bodyTst_starts (hlen : len = wordVal x w.b.toNat) (ht : t = tileOf s x (tileEntry x w.a.toNat)) (hreads : tileReads s x w.a.toNat = true)
    (hp : p = { kind := .tst d (tileEntry x w.a.toNat) len, reads := [], writes := [(d, (t.nrows - 1) * len + 4 * t.ncols)],
                drain := some (tileEntry x w.a.toNat) })
    (haligned : aligned 4 [d, len] = true) (hrange : rangeOk s x (d, (t.nrows - 1) * len + 4 * t.ncols) = true) :
    bodyTst w x act s = .done (startEng s x p ctl (modHi w.mod) none) := by
  subst hd hlen ht hctl hp
  exact (if_neg (by simp [hgood])).trans ((withTile_reader hreads).trans
    ((addressChecks_pass haligned (rangesOk_singleton hrange)).trans (issueEng_done hfree)))

/-! ## ROWPUB and COLL (R263, R264) -/

include hd ha in
theorem bodyRowpub_starts (hlen : len = wordVal x w.b.toNat) (hmin : 16 ≤ len) (hmax : len ≤ 4096) (haligned : aligned 16 [len, d, a] = true)
    (hstripe : d % 4096 + len ≤ 4096) (hranges : rangesOk s x [(d, len), (a, len)] = true) (hmh : isMh s x d = true)
    (hp : p = { kind := .rowpub d a len, reads := [(a, len)], writes := [(d, len)] }) :
    bodyRowpub w x act s = .done (startEng s x p ctl (modHi w.mod) none) := by
  subst hd ha hlen hctl hp
  obtain ⟨hunit, hbases⟩ : wordVal x w.b.toNat % 16 = 0 ∧ aligned 16 [addrVal x w.d.toNat, addrVal x w.a.toNat] = true := by
    simpa [aligned] using haligned
  exact (if_neg (by simp [hgood]; omega)).trans ((orTrap_of_none (misaligned_none hbases)).trans ((orTrap_of_none (if_pos hstripe)).trans
    ((orTrap_of_none (badRange_none hranges)).trans ((if_pos hmh).trans (issueEng_done hfree)))))

include hd ha in
/-- A collective that starts is counted at its level. -/
theorem bodyColl_starts {lv count rd wr : Nat} (hlv : lv = levelOf x.k.levels (modHi w.mod)) (hcount : count = wordVal x w.b.toNat)
    (hlvMin : treeG x.k.levels ≤ lv) (hlvMax : lv < treeL x.k.levels) (hcountMin : 1 ≤ count) (hcountMax : count ≤ 2 ^ 24)
    (hsizes : (rd, wr) = (collSizes (modLo w.mod % 4) (groupSize x.k.levels lv) count).map (· * collBytes (modLo w.mod / 4))
      (· * collBytes (modLo w.mod / 4)))
    (hp : p = { kind := .coll d a count lv (modLo w.mod % 4) (modLo w.mod / 4) (collJoined x.g lv), reads := [(a, rd)], writes := [(d, wr)] })
    (haligned : aligned 16 [d, a] = true) (hranges : rangesOk s x [(d, wr), (a, rd)] = true) :
    bodyColl w x act s = .done ((startEng s x p ctl (modHi w.mod) none).mapGroup x.g.id (fun g =>
      { g with collCount := (lv, collJoined x.g lv + 1) :: g.collCount.filter (fun c => c.1 != lv) })) := by
  obtain ⟨hrd, hwr⟩ := Prod.mk.inj hsizes
  subst hd ha hlv hcount hctl hrd hwr hp
  exact (if_neg (by simp [hgood]; omega)).trans ((addressChecks_pass haligned hranges).trans (engWait_passes hfree))

/-! ## The requests that leave their status register PENDING (R387, R415) -/

theorem bodyCpyg_starts {host dst ctr : Nat} (hhost : host = descWord x w.a.toNat 0 + 2 ^ 32 * descWord x w.a.toNat 1)
    (hdst : dst = descWord x w.a.toNat 2 + 2 ^ 32 * descWord x w.a.toNat 3) (hlen : len = descWord x w.a.toNat 4)
    (hctr : ctr = descWord x w.a.toNat 5 + 2 ^ 32 * descWord x w.a.toNat 6) (hzero : descWord x w.a.toNat 7 = 0) (hmin : 16 ≤ len)
    (hmax : len ≤ 65536) (hcounts : ctr ≠ 0) (haligned : aligned 16 [len, host, dst] = true) (hrange : rangeOk s x (dst, len) = true)
    (hp : p = { kind := .cpyg host dst len ctr w.d.toNat, reads := [], writes := [(dst, len)] }) :
    bodyCpyg w x act s = .done (setPending (startEng s x p ctl (modHi w.mod) none) x.g.id [w.d.toNat]) := by
  obtain ⟨hunit, hbases⟩ : len % 16 = 0 ∧ aligned 16 [host, dst] = true := by simpa [aligned] using haligned
  subst hhost hdst hlen hctr hctl hp
  refine (if_neg ?_).trans ((addressChecks_pass hbases (rangesOk_singleton hrange)).trans (engWait_passes hfree))
  rw [hgood]
  simp only [Bool.false_eq_true, or_false]
  omega

include ha in
theorem bodyRedgo_starts (haligned : a % 64 = 0) (hrange : rangeOk s x (a, 256) = true) (hopen : spanLocked s x a 256 = false)
    (hp : p = { kind := .redgo a w.d.toNat, reads := [(a, 256)], writes := [] }) :
    bodyRedgo w x act s = .done (setPending (startEng s x p ctl (modHi w.mod) none) x.g.id [w.d.toNat]) := by
  subst ha hctl hp
  exact (if_neg (by simp [hgood])).trans ((addressChecks_pass (aligned_singleton haligned) (rangesOk_singleton hrange)).trans
    ((if_neg (by simp [hopen])).trans (engWait_passes hfree)))

end Copies

section Gathers

/-! ## GATH and SCAT (R261, R262) -/

variable {q : RowList} (hd : d = addrVal x w.d.toNat) (ha : a = addrVal x w.a.toNat) (hq : q = rowList x w.b.toNat)
  (hctl : ctl = wordVal x w.c.toNat) (hfree : engWait s x p ctl = none)
include hd ha hq hctl hfree

theorem bodyGath_starts (hgood : ctlBad s x ctl false = false) (hquad : q.bad 16 = false)
    (hp : p = { kind := .gath d a q.n q.rowb q.stride q.list, reads := [(q.list, 4 * q.n)], writes := [(d, q.n * q.rowb)] })
    (haligned : aligned 16 [d, a] = true) (hlist : q.list % 4 = 0) (hranges : rangesOk s x [(d, q.n * q.rowb), (q.list, 4 * q.n)] = true) :
    bodyGath w x act s = .done (startEng s x p ctl (modHi w.mod) none) := by
  subst hd ha hq hctl hp
  exact (if_neg (by simp [hquad, hgood])).trans ((orTrap_of_none (misaligned_none haligned)).trans
    ((addressChecks_pass (aligned_singleton hlist) hranges).trans (issueEng_done hfree)))

/-- The slot that a SCAT names holds a combinable definition with a payload and no scalar (R262). -/
theorem bodyScat_starts {sl : DefSlot} (hgood : ctlBad s x ctl true = false) (hquad : q.bad 128 = false)
    (hsl : sl = slotOf s x.g.pkg x.g.ctx (ctl / 256 % 64)) (hloaded : sl.state = .loaded) (hcombine : defCombine sl.img = true)
    (hpayload : defPfmt sl.img ≠ 0) (hscalars : defNscal sl.img = 0) (htable : d % 128 = 0) (hsource : a % 16 = 0) (hstride : q.stride % 128 = 0)
    (hlist : q.list % 4 = 0)
    (hp : p = { kind := .scat d a q.n q.rowb q.stride q.list (ctl / 256 % 64) sl.gen,
                reads := [(a, q.n * scatRow sl.img q.rowb), (q.list, 4 * q.n)], writes := [] })
    (hranges : rangesOk s x [(a, q.n * scatRow sl.img q.rowb), (q.list, 4 * q.n)] = true) :
    bodyScat w x act s = .done (startEng s x p ctl (modHi w.mod) none) := by
  subst hd ha hq hctl hsl hp
  exact (if_neg (by simp [hquad, hgood])).trans ((if_neg (by simp [hloaded])).trans ((if_neg (by simp [hcombine, hpayload, hscalars])).trans
    ((orTrap_of_none (misaligned_singleton htable)).trans ((orTrap_of_none (misaligned_singleton hsource)).trans
      ((orTrap_of_none (misaligned_singleton hstride)).trans ((addressChecks_pass (aligned_singleton hlist) hranges).trans (issueEng_done hfree)))))))

end Gathers

/-! ## EWAIT (R267) -/

theorem bodyEwait_passes (hcount : x.g.eng ≤ modLo w.mod) : bodyEwait w x act s = .done (acquireAt s x (modHi w.mod)) := if_pos hcount

theorem bodyEwait_waits (hcount : modLo w.mod < x.g.eng) : bodyEwait w x act s = .block .wctr 2 := if_neg (Nat.not_le.mpr hcount)

end Engines

/-- Settles O20: each copy and tile operation that its body's checks admit starts. -/
theorem copyEnginesStart : Obligations.CopyEnginesStart := by
  intro s x act w p t d a len ctl hd ha hlen hctl hgood hfree
  refine ⟨?cpy, ?cpy2d, ?tld, ?tst⟩
  case cpy =>
    intro hruns hp hbound haligned hranges
    exact issueWith_done hruns (bodyCpy_starts hd ha hctl hgood hfree hlen hp hbound haligned hranges)
  case cpy2d =>
    intro rb rows ss ds hruns hrb hrows hss hds hp hrbMin hrbMax hrowsMin hrowsMax haligned hranges
    exact issueWith_done hruns
      (bodyCpy2d_starts hd ha hctl hgood hfree hrb hrows hss hds hp hrbMin hrbMax hrowsMin hrowsMax haligned hranges)
  case tld =>
    intro hruns ht hwrites hp haligned hrange
    exact issueWith_done hruns (bodyTld_starts ha hctl hgood hfree hlen ht hwrites hp haligned hrange)
  case tst =>
    intro hruns ht hreads hp haligned hrange
    exact issueWith_done hruns (bodyTst_starts hd hctl hgood hfree hlen ht hreads hp haligned hrange)

/-- Settles O21: each gather, scatter, collective and request that its body's checks admit starts; EWAIT passes or waits at its count. -/
theorem gatherEnginesStart : Obligations.GatherEnginesStart := by
  refine ⟨fun s x act w p d a ctl q hd ha hq hctl hfree => ⟨?gath, ?scat, ?rowpub, ?coll, ?cpyg, ?redgo⟩, fun s x act w => ⟨?passes, ?waits⟩⟩
  case gath =>
    intro hruns hgood hquad hp haligned hlist hranges
    exact issueWith_done hruns (bodyGath_starts hd ha hq hctl hfree hgood hquad hp haligned hlist hranges)
  case scat =>
    intro sl hruns hgood hquad hsl hloaded hcombine hpayload hscalars htable hsource hstride hlist hp hranges
    exact issueWith_done hruns (bodyScat_starts hd ha hq hctl hfree hgood hquad hsl hloaded hcombine hpayload hscalars htable hsource hstride hlist hp hranges)
  case rowpub =>
    intro len hruns hgood hlen hmin hmax haligned hstripe hranges hmh hp
    exact issueWith_done hruns (bodyRowpub_starts hd ha hctl hgood hfree hlen hmin hmax haligned hstripe hranges hmh hp)
  case coll =>
    intro lv count rd wr hruns hgood hlv hcount hlvMin hlvMax hcountMin hcountMax hsizes hp haligned hranges
    exact issueWith_done hruns
      (bodyColl_starts hd ha hctl hgood hfree hlv hcount hlvMin hlvMax hcountMin hcountMax hsizes hp haligned hranges)
  case cpyg =>
    intro host dst len ctr hruns hgood hhost hdst hlen hctr hzero hmin hmax hcounts haligned hrange hp
    exact issueWith_done hruns (bodyCpyg_starts hctl hgood hfree hhost hdst hlen hctr hzero hmin hmax hcounts haligned hrange hp)
  case redgo =>
    intro hruns hgood haligned hrange hopen hp
    exact issueWith_done hruns (bodyRedgo_starts ha hctl hgood hfree haligned hrange hopen hp)
  case passes => exact fun hruns hcount => issueWith_done hruns (bodyEwait_passes hcount)
  case waits => exact fun hruns hcount => (issueWith_ready hruns).trans (by rw [bodyEwait_waits hcount]; rfl)

end Sys2Proof.Machine

/-! SUPPORT. Remote requests at their homes (R168, R279, R283, R368 to R374, R404, R421): what a request that its unit takes up meets there, two requests
combined, the acknowledgement, and the wings ring. -/

namespace Sys2Proof.Machine

open Sys2Proof

/-! ## A request that its home's unit takes up (R372, R373) -/

section Granule

variable {s : State} {op : Nat} {r : Rop} {c : Ctx} (hr : s.rop? op = some r) (hcoming : r.coming = true) (hbehind : ropBehind s r = false)
  (hreaches : ropReaches s r (ropHome s r) = true) (hsent : r.phase = .sent → ropSentAfter s r = false)
include hcoming hbehind hreaches hsent

theorem ropGranule_enabled :
    ¬(r.coming = false ∨ ropBehind s r = true ∨ ropReaches s r (ropHome s r) = false ∨ (r.phase = .sent ∧ ropSentAfter s r = true)) := by
  rintro (h | h | h | ⟨hphase, hafter⟩)
  · simp [hcoming] at h
  · simp [hbehind] at h
  · simp [hreaches] at h
  · simp [hsent hphase] at hafter

include hr

theorem ropGranule_noCtx (hc : s.ctx? (ropHome s r) r.ctx = none) :
    ropGranule s op = some (faultRop s r (ropHome s r) causeNoCtx 0) := by
  have hguard := ropGranule_enabled hcoming hbehind hreaches hsent
  simp only [ropGranule, hr, if_neg hguard, hc]

/-- A number whose context is torn down, or is created and has no epoch of its own yet, names no context. -/
theorem ropGranule_unborn (hc : s.ctx? (ropHome s r) r.ctx = some c)
    (hstate : c.state = .tornDown ∨ (c.state = .created ∧ c.epoch = r.epoch)) :
    ropGranule s op = some (faultRop s r (ropHome s r) causeNoCtx 0) := by
  have hguard := ropGranule_enabled hcoming hbehind hreaches hsent
  simp only [ropGranule, hr, if_neg hguard, hc]
  rcases hstate with htorn | ⟨hcreated, hepoch⟩
  · simp [htorn]
  · simp [hcreated, hepoch]

theorem ropGranule_stale (hc : s.ctx? (ropHome s r) r.ctx = some c) (htorn : c.state ≠ .tornDown)
    (hstale : c.epoch ≠ r.epoch ∨ c.state = .faulted) :
    ropGranule s op = some (dropPacket (s.dropRop op) (ropHome s r)) := by
  have hguard := ropGranule_enabled hcoming hbehind hreaches hsent
  simp only [ropGranule, hr, if_neg hguard, hc, if_neg htorn, if_pos hstale]

/-- A request whose context is resident at its home runs there, or is held at the unit. -/
theorem ropGranule_resident (hc : s.ctx? (ropHome s r) r.ctx = some c) (hepoch : c.epoch = r.epoch)
    (hstate : c.state = .resident ∨ c.state = .running) :
    ropGranule s op =
      if ropHeld s r = false ∧ cuuAhead s (.rop op) r.run = false then some (runGranule s r (ropHome s r))
      else if r.phase = .held then none else some (holdRop s r) := by
  have hguard := ropGranule_enabled hcoming hbehind hreaches hsent
  simp only [ropGranule, hr, if_neg hguard, hc]
  rcases hstate with hstate | hstate <;> simp [hstate, hepoch]

end Granule

/-! ## Two requests for one target (R371) -/

/-- The earlier request with the later's payload, issuers and poison in it. -/
def joinRops (img : DefImage) (a b : Rop) : Rop :=
  { a with payload := runCombine img a.payload b.payload, issuers := a.issuers ++ b.issuers, poisoned := a.poisoned || b.poisoned }

/-- The requests after a later one has joined an earlier one. -/
def joinedRops (rops : List Rop) (img : DefImage) (a b : Rop) : List Rop :=
  (rops.filter (fun q => q.id != b.id)).map (fun q => if q.id = (joinRops img a b).id then joinRops img a b else q)

theorem ropCombine_some {s : State} {earlier later : Nat} {a b : Rop} {img : DefImage} (ha : s.rop? earlier = some a) (hb : s.rop? later = some b)
    (himg : combineImage s a = some img) (hmay : mayCombine s a b = true) :
    ropCombine s earlier later = some { s with rops := joinedRops s.rops img a b } := by
  simp only [ropCombine, ha, hb, himg]
  exact if_pos hmay

/-- The later request is no longer there. -/
theorem joinedRops_length {rops : List Rop} {b : Rop} (hb : b ∈ rops) (img : DefImage) (a : Rop) :
    (joinedRops rops img a b).length + 1 ≤ rops.length := by
  have hfewer : (rops.filter (fun q => q.id != b.id)).length < rops.length :=
    List.length_filter_lt_length_iff_exists.mpr ⟨b, hb, by simp⟩
  rw [joinedRops, List.length_map]
  exact hfewer

/-- Under the earlier request's name stands the joined one. -/
theorem eq_joinRops_of_mem {rops : List Rop} {img : DefImage} {a b q : Rop} (hq : q ∈ joinedRops rops img a b) (hid : q.id = a.id) :
    q = joinRops img a b := by
  obtain ⟨o, -, rfl⟩ := List.mem_map.mp hq
  by_cases ho : o.id = (joinRops img a b).id
  · exact if_pos ho
  · rw [if_neg ho] at hid
    exact absurd hid ho

/-! ## The acknowledgement and the wings ring (R279, R369, R374, R421) -/

theorem ropAck_some {s : State} {op : Nat} {r : Rop} (hr : s.rop? op = some r) (hacked : r.phase = .acked)
    (hways : ∀ i ∈ r.issuers, routeUp s r.home i.pkg = true) :
    ropAck s op = some ((r.issuers.foldl (fun s i => ackIssuer s r i) s).dropRop op) := by
  simp only [ropAck, hr]
  exact if_pos ⟨hacked, List.all_eq_true.mpr hways⟩

/-- A request that meets a context with no resident slot joins its ring where one of the ring's entries is free. -/
theorem wingsAppend_eq {s : State} {op : Nat} {r : Rop} {c : Ctx} (hr : s.rop? op = some r) (hc : s.ctx? (ropHome s r) r.ctx = some c)
    (hcoming : r.coming = true) (hepoch : c.epoch = r.epoch) (hstate : c.state = .descheduled ∨ c.state = .keyed ∨ c.state = .measured)
    (hbehind : wingsBehind s r = false) (hreaches : ropReaches s r (ropHome s r) = true) (hsent : r.phase = .sent → ropSentAfter s r = false) :
    wingsAppend s op =
      if c.wings.length < 2 ^ c.wrlog2 then
        some (ringWrite ((s.mapRop op (fun r => { r with phase := .wings })).mapCtx (ropHome s r) r.ctx (fun c => { c with wings := c.wings ++ [op] }))
          (ropHome s r) c op)
      else some (faultRop s r (ropHome s r) causeWingsFull 0) := by
  have hfirst : ¬(r.phase = .sent ∧ ropSentAfter s r = true) := fun ⟨hphase, hafter⟩ => by simp [hsent hphase] at hafter
  simp only [wingsAppend, hr, hc]
  exact if_pos ⟨hcoming, hepoch, hstate, hbehind, hreaches, hfirst⟩

/-- Settles O34: what a request meets is decided by its home's context and, where that is resident, by what holds the request's lines; a combined
request is the earlier one's with the later's payload and issuers; an acknowledgement and the ring have their own guards. -/
theorem remoteEventsComplete : Obligations.RemoteEventsComplete := by
  intro s op r
  refine ⟨fun c hr hcoming hbehind hreaches hsent => ⟨?noCtx, fun hc hepoch hstate => ⟨?runs, ?held⟩, ?unborn, ?stale⟩, ?combine, ?ack,
    fun c hr hc hcoming hepoch hstate hbehind hreaches hsent => ⟨?room, ?full⟩⟩
  case noCtx => exact fun hc => ifEnabled_some (ropGranule_noCtx hr hcoming hbehind hreaches hsent hc)
  case runs =>
    intro hfree hfirst
    exact ifEnabled_some ((ropGranule_resident hr hcoming hbehind hreaches hsent hc hepoch hstate).trans (if_pos ⟨hfree, hfirst⟩))
  case held =>
    intro hwaits hphase
    have hbusy : ¬(ropHeld s r = false ∧ cuuAhead s (.rop op) r.run = false) := by
      rintro ⟨hfree, hfirst⟩
      simp [hfree, hfirst] at hwaits
    exact ifEnabled_some
      ((ropGranule_resident hr hcoming hbehind hreaches hsent hc hepoch hstate).trans ((if_neg hbusy).trans (if_neg hphase)))
  case unborn => exact fun hc hstate => ifEnabled_some (ropGranule_unborn hr hcoming hbehind hreaches hsent hc hstate)
  case stale => exact fun hc htorn hstale => ifEnabled_some (ropGranule_stale hr hcoming hbehind hreaches hsent hc htorn hstale)
  case combine =>
    intro later b img hr hb himg hmay
    refine ⟨_, ifEnabled_some (ropCombine_some hr hb himg hmay), joinedRops_length (List.mem_of_find?_eq_some hb) img r,
      ⟨fun _ => rfl, fun _ => rfl⟩, fun q hq hid => ?_⟩
    obtain rfl := eq_joinRops_of_mem hq hid
    exact ⟨rfl, rfl, rfl⟩
  case ack => exact fun hr hacked hways => ifEnabled_some (ropAck_some hr hacked hways)
  case room => exact fun hroom => ifEnabled_some ((wingsAppend_eq hr hc hcoming hepoch hstate hbehind hreaches hsent).trans (if_pos hroom))
  case full =>
    intro hfull
    exact ifEnabled_some ((wingsAppend_eq hr hc hcoming hepoch hstate hbehind hreaches hsent).trans (if_neg (Nat.not_lt.mpr hfull)))

end Sys2Proof.Machine

/-! SUPPORT. The commands of CTX_CMD (R270 to R279, R283, R284, R336): what a written command meets before its own checks, and the next state of each of the
eight where they pass. -/

namespace Sys2Proof.Machine

open Sys2Proof

/-! ## A command as it is written (R272) -/

section Commands

variable {s : State} {pkg : Nat} {p : Pkg} (hp : s.pkg? pkg = some p)
include hp

theorem ctxCommand_busy (hon : mgmtOn p = true) (hbusy : p.ctxCmd ≠ none) (ctx : Nat) (body : Pkg → Option State) :
    ctxCommand s pkg ctx body = some (s.mapPkg pkg (fun p => { p with ctxDrop := true })) := by
  simp [ctxCommand, hp, hon, Option.isSome_iff_ne_none.mpr hbusy]

theorem ctxCommand_taken (htakes : takesCmd p = true) (ctx : Nat) (body : Pkg → Option State) : ctxCommand s pkg ctx body = body p := by
  simp only [takesCmd, Bool.and_eq_true, Option.isNone_iff_eq_none] at htakes
  obtain ⟨⟨hon, hidle⟩, hready⟩ := htakes
  simp [ctxCommand, hp, hon, hidle, hready]

theorem ctxCmdBad_some {op ctx : Nat} (htakes : takesCmd p = true) (hop : op % 16 = 0 ∨ 8 < op % 16) :
    ctxCmdBad s pkg op ctx = some (endCtxCmd s pkg ctx 5) :=
  (if_pos hop).trans (ctxCommand_taken hp htakes ctx _)

variable {ctx : Nat} (hfocus : s.focus = (pkg, ctx))
include hfocus

theorem onCtx_busy (hon : mgmtOn p = true) (hbusy : p.ctxCmd ≠ none) (ok : CtxState → Bool) (body : Pkg → Ctx → Option State) :
    onCtx s ok body = some (s.mapPkg pkg (fun p => { p with ctxDrop := true })) := by
  simp only [onCtx, hfocus]
  exact ctxCommand_busy hp hon hbusy ctx _

theorem create_busy (hon : mgmtOn p = true) (hbusy : p.ctxCmd ≠ none) :
    create s = some (s.mapPkg pkg (fun p => { p with ctxDrop := true })) := by
  simp only [create, hfocus]
  exact ctxCommand_busy hp hon hbusy _ _

variable (htakes : takesCmd p = true)
include htakes

theorem onCtx_missing (hc : s.ctx? pkg ctx = none) (ok : CtxState → Bool) (body : Pkg → Ctx → Option State) :
    onCtx s ok body = some (endCtxCmd s pkg ctx 1) := by
  simp only [onCtx, hfocus, ctxCommand_taken hp htakes, hc]

theorem onCtx_refused {c : Ctx} {ok : CtxState → Bool} (hc : s.ctx? pkg ctx = some c) (hok : ok c.state = false)
    (body : Pkg → Ctx → Option State) : onCtx s ok body = some (endCtxCmd s pkg ctx 1) := by
  simp [onCtx, hfocus, ctxCommand_taken hp htakes, hc, hok]

theorem onCtx_admitted {c : Ctx} {ok : CtxState → Bool} (hc : s.ctx? pkg ctx = some c) (hok : ok c.state = true)
    (body : Pkg → Ctx → Option State) : onCtx s ok body = body p c := by
  simp [onCtx, hfocus, ctxCommand_taken hp htakes, hc, hok]

/-! ## CREATE (R271, R273) -/

theorem create_inUse {c : Ctx} (hctx : ctx < 2048) (hc : s.ctx? pkg ctx = some c) (hstate : c.state ≠ .tornDown) :
    create s = some (endCtxCmd s pkg ctx 1) := by
  simp [create, hfocus, Nat.mod_eq_of_lt hctx, ctxCommand_taken hp htakes, hc, hstate]

theorem create_good (hctx : ctx < 2048) (hc : s.ctx? pkg ctx = none) (haligned : p.ctxArg % 4096 = 0)
    (hpool : rangeInHostPool s pkg p.ctxArg 4096 = true) (hgood : ccbBad s pkg (readPool s pkg p.ctxArg 4096) = false) :
    create s = some (endCtxCmd { s with ctxs := s.ctxs.filter (fun o => !(o.pkg == pkg && o.num == ctx))
      ++ [newCtx s pkg ctx p.ctxArg (readPool s pkg p.ctxArg 4096)] } pkg ctx 0) := by
  simp [create, hfocus, Nat.mod_eq_of_lt hctx, ctxCommand_taken hp htakes, hc, haligned, hpool, hgood]

end Commands

/-! ## The commands of a context that is there -/

section OfCtx

variable {s : State} {p : Pkg} {c : Ctx} (hfocus : s.focus = (c.pkg, c.num)) (hp : s.pkg? c.pkg = some p) (htakes : takesCmd p = true)
  (hc : s.ctx? c.pkg c.num = some c)
include hfocus hp htakes hc

theorem measure_good {pt : List PtEntry} {pcl : List Nat} (hstate : c.state = .created) (hpt : pt = placeTable (tableBytes s c.pkg c.ptaddr))
    (hpcl : pcl = pchList (listBytes s c.pkg c.pcladdr)) (hkeypol : c.keypol < 8) (htables : tablesBad pt pcl c.span = false)
    (hown : (ownRanges c).all (fun r => routesWhole { c with pt := pt, pcl := pcl } r.1 r.2) = true) :
    measure s = some (endCtxCmd (s.mapCtx c.pkg c.num (fun e => { e with
      state := .measured, pt := pt, pcl := pcl, digest := ctxDigest c (tableBytes s c.pkg c.ptaddr) (listBytes s c.pkg c.pcladdr) pt pcl }))
      c.pkg c.num 0) := by
  subst pt pcl
  refine (onCtx_admitted hp hfocus htakes hc (by simp [hstate]) _).trans (if_neg ?_)
  rintro (hpol | hbad | hout)
  · omega
  · simp [htables] at hbad
  · rw [List.any_eq_not_all_not] at hout
    simp [hown] at hout

theorem admitContext_good (hstate : c.state = .keyed ∨ c.state = .descheduled) (hslots : residentCount s c.pkg < 256)
    (hsave : largestSave s c.pkg c.num ≤ c.grsize) :
    admitContext s = some (admitGoesOn (beginCmd s c.pkg 3 c.num) c.pkg c.num) :=
  (onCtx_admitted hp hfocus htakes hc (by simpa using hstate) _).trans
    ((if_neg (Nat.not_le.mpr hslots)).trans (if_neg (Nat.not_lt.mpr hsave)))

theorem run_good (hstate : c.state = .resident) (hsave : largestSave s c.pkg c.num ≤ c.grsize) :
    run s = some (takeQueues (endCtxCmd ((turnAges s c.pkg c.num).mapCtx c.pkg c.num (fun c => { c with state := .running })) c.pkg c.num 0)
      c.pkg c.num) :=
  (onCtx_admitted hp hfocus htakes hc (by simp [hstate]) _).trans (if_neg (Nat.not_lt.mpr hsave))

/-! ## STOP, EVICT, CLEAR and TEARDOWN (R274, R277, R278, R283, R284) -/

theorem stop_running (hstate : c.state = .running) :
    stop s = some (settle (beginCmd (pauseQueues (turnAges s c.pkg c.num) c.pkg c.num) c.pkg 5 c.num) c.pkg c.num
      (allSaved (beginCmd (pauseQueues (turnAges s c.pkg c.num) c.pkg c.num) c.pkg 5 c.num) c.pkg c.num) .resident) :=
  onCtx_admitted hp hfocus htakes hc (by simp [hstate]) _

theorem evict_resident (hstate : c.state = .resident) :
    evict s = some (if enginesDone (beginCmd s c.pkg 6 c.num) c.pkg c.num then evictDone (beginCmd s c.pkg 6 c.num) c
      else beginCmd s c.pkg 6 c.num) :=
  onCtx_admitted hp hfocus htakes hc (by simp [hstate]) _

theorem evict_waits (hstate : c.state = .resident) (hengines : enginesDone (beginCmd s c.pkg 6 c.num) c.pkg c.num = false) :
    evict s = some (beginCmd s c.pkg 6 c.num) := by
  rw [evict_resident hfocus hp htakes hc hstate, hengines]
  rfl

/-- EVICT with no engine operation left turns on the record of its slots. -/
theorem evict_done (hstate : c.state = .resident) (hengines : enginesDone (beginCmd s c.pkg 6 c.num) c.pkg c.num = true) :
    evict s = some (evictDone (beginCmd s c.pkg 6 c.num) c) := by
  rw [evict_resident hfocus hp htakes hc hstate, hengines]
  rfl

theorem clearCtx_faulted (hstate : c.state = .faulted) :
    clearCtx s = some (endCtxCmd ((dropSessions s c.pkg c.num).mapCtx c.pkg c.num (fun c =>
      { c with state := if c.before = .running then .resident else c.before, epoch := (c.epoch + 1) % 256 })) c.pkg c.num 0) :=
  onCtx_admitted hp hfocus htakes hc (by simp [hstate]) _

theorem teardown_some (hstate : c.state ≠ .tornDown) :
    teardown s = some (endCtxCmd ((dropPages (dropSessions (discardWork s c.pkg c.num) c.pkg c.num) c.pkg c.num).mapCtx c.pkg c.num Ctx.tornDown)
      c.pkg c.num 0) :=
  onCtx_admitted hp hfocus htakes hc (by simpa using hstate) _

end OfCtx

/-! ## ADMIT with nothing to restore and no ring to replay (R279) -/

theorem cmdUnderWay_beginCmd {s : State} {pkg : Nat} {p : Pkg} (hp : s.pkg? pkg = some p) (op ctx : Nat) :
    cmdUnderWay (beginCmd s pkg op ctx) pkg op ctx = true := by
  simp [cmdUnderWay, beginCmd, hp]

theorem admitGoesOn_empty {s : State} {pkg ctx : Nat} {c : Ctx} (hc : s.ctx? pkg ctx = some c) (hunder : cmdUnderWay s pkg 3 ctx = true)
    (hwings : c.wings = []) (hkept : c.kept = none) :
    admitGoesOn s pkg ctx = endCtxCmd (s.mapCtx pkg ctx (fun c => { c with state := .resident })) pkg ctx 0 := by
  have hrestored : restoreSlots s c = s := by simp [restoreSlots, hkept]
  have hreplays : admitReplays s pkg ctx = settle s pkg ctx true .resident := by
    simp [admitReplays, replayWings, hc, hunder, hwings]
  simp only [admitGoesOn, hc, hrestored, hkept, hunder]
  exact hreplays

/-! ## EVICT's record (R278) -/

section EvictDone

variable {s v : State} {c : Ctx}

theorem evictDone_ok (h : keepSlots s c = .ok v) :
    evictDone s c = endCtxCmd (v.mapCtx c.pkg c.num (fun c => { c with state := .descheduled })) c.pkg c.num 0 := by
  simp only [evictDone, h]
  rfl

theorem evictDone_waits (h : keepSlots s c = .waits) : evictDone s c = s := by
  simp only [evictDone, h]

theorem evictDone_full {q d : Nat} (h : keepSlots s c = .full v q d) : evictDone s c = raiseCtxFault v q d { cause := 0x22, pkg := q } := by
  simp only [evictDone, h]

end EvictDone

/-- Settles O40: what holds of every command (it is dropped while one is BUSY, and refused in a state that R270 does not allow it in) is proved once
for all of them; each command then adds its own checks and its effect. -/
theorem contextCommandsComplete : Obligations.ContextCommandsComplete := by
  refine ⟨fun s pkg ctx p c hfocus hp htakes => ⟨?create, ?present, ?missing⟩, ?busy, ?under⟩
  case create =>
    intro b hctx hc haligned hpool hb hgood
    subst b
    exact ifEnabled_some (create_good hp hfocus htakes hctx hc haligned hpool hgood)
  case present =>
    rintro hc rfl rfl
    refine ⟨?measure, ?admission, ?run, ?refused⟩
    case measure =>
      intro pt pcl hstate hpt hpcl hkeypol htables hown
      exact ifEnabled_some (measure_good hfocus hp htakes hc hstate hpt hpcl hkeypol htables hown)
    case admission =>
      intro hstate hslots hsave
      exact ⟨ifEnabled_some (admitContext_good hfocus hp htakes hc hstate hslots hsave),
        admitGoesOn_empty hc (cmdUnderWay_beginCmd hp 3 c.num)⟩
    case run => exact fun hstate hsave => ifEnabled_some (run_good hfocus hp htakes hc hstate hsave)
    case refused =>
      have hrefused {ok : CtxState → Bool} (hok : ok c.state = false) := onCtx_refused hp hfocus htakes hc hok
      rintro i (⟨rfl, h⟩ | ⟨rfl, hkeyed, hdescheduled⟩ | ⟨rfl, h⟩ | ⟨rfl, h⟩ | ⟨rfl, h⟩ | ⟨rfl, h⟩ | ⟨rfl, h⟩ | ⟨rfl, hctx, h⟩)
      case inr.inl => exact ifEnabled_some (hrefused (by simp [hkeyed, hdescheduled]) _)
      case inr.inr.inr.inr.inr.inr.inr => exact ifEnabled_some (create_inUse hp hfocus htakes hctx hc h)
      all_goals exact ifEnabled_some (hrefused (by simpa using h) _)
  case missing =>
    intro i hi hc
    have hmissing := onCtx_missing hp hfocus htakes hc
    simp only [List.mem_cons, List.not_mem_nil, or_false] at hi
    rcases hi with rfl | rfl | rfl | rfl | rfl | rfl | rfl <;> exact ifEnabled_some (hmissing _ _)
  case busy =>
    intro s pkg ctx p hfocus hp hon hbusy i hi
    have hdropped := onCtx_busy hp hfocus hon hbusy
    simp only [List.mem_cons, List.not_mem_nil, or_false] at hi
    rcases hi with rfl | hi
    · exact ifEnabled_some (create_busy hp hfocus hon hbusy)
    · rcases hi with rfl | rfl | rfl | rfl | rfl | rfl | rfl <;> exact ifEnabled_some (hdropped _ _)
  case under =>
    rintro s pkg ctx p c hfocus hp htakes hc rfl rfl
    refine ⟨?stop, ?evict, ?clear, ?teardown, fun op hop => ifEnabled_some (ctxCmdBad_some hp htakes hop)⟩
    case stop =>
      rintro u hstate rfl
      exact ifEnabled_some (stop_running hfocus hp htakes hc hstate)
    case evict =>
      rintro u hstate rfl
      refine ⟨fun hengines => ifEnabled_some (evict_waits hfocus hp htakes hc hstate hengines), fun hengines => ?_⟩
      have hdone := evict_done hfocus hp htakes hc hstate hengines
      exact ⟨fun v h => ifEnabled_some (hdone.trans (congrArg some (evictDone_ok h))),
        fun h => ifEnabled_some (hdone.trans (congrArg some (evictDone_waits h))),
        fun v q d h => ifEnabled_some (hdone.trans (congrArg some (evictDone_full h)))⟩
    case clear => exact fun hstate => ifEnabled_some (clearCtx_faulted hfocus hp htakes hc hstate)
    case teardown => exact fun hstate => ifEnabled_some (teardown_some hfocus hp htakes hc hstate)

end Sys2Proof.Machine

/-! SUPPORT. Host accesses through the windows (R275, R283, R412, R413) and writes of the management registers (R397, R420): what each access meets, in the
order of the judgement, and what a register holds after a write. -/

namespace Sys2Proof.Machine

open Sys2Proof

/-! ## What an access meets (R283, R413) -/

section HostAccess

variable {s : State} {pkg win off n : Nat} {p : Pkg} {t : Tlp} {pl : HostPlace} (hp : s.pkg? pkg = some p) (hrate : p.rate ≠ 0)
  (hbroken : p.broken = false)
include hp hrate hbroken

theorem hostAccess_unsupported (hjudge : hostJudge s p win off n t = none) (body : Pkg → HostPlace → Option State) :
    hostAccess s pkg win off n t body = some (answer s pkg .unsupportedRequest) := by
  simp [hostAccess, hp, hrate, hbroken, hjudge]

section Judged

variable (hjudge : hostJudge s p win off n t = some pl) (hnow : hostNow s p pl = true)
include hjudge hnow

theorem hostAccess_stale {home : Nat} (hstale : hostStale s p pl = some home) (body : Pkg → HostPlace → Option State) :
    hostAccess s pkg win off n t body = some (dropPacket s home) := by
  simp [hostAccess, hp, hrate, hbroken, hjudge, hnow, hstale]

theorem hostAccess_served (hstale : hostStale s p pl = none) (body : Pkg → HostPlace → Option State) :
    hostAccess s pkg win off n t body = body p pl := by
  simp [hostAccess, hp, hrate, hbroken, hjudge, hnow, hstale]

end Judged

/-! ## Reads and writes -/

theorem hostRead_pool {a : Nat} (hjudge : hostJudge s p win off n t = some (.pool a)) (hnow : hostNow s p (.pool a) = true)
    (hstale : hostStale s p (.pool a) = none) (hclean : hostPoisoned s pkg n (.pool a) = false) :
    hostRead s pkg win off n t = some (answer s pkg (.bytes (readPool s pkg a n))) := by
  have hbytes : hostBytes s pkg n (.pool a) = readPool s pkg a n := by simp [hostBytes, hclean]
  rw [← hbytes]
  exact hostAccess_served hp hrate hbroken hjudge hnow hstale _

/-- A read in a context answers with its bytes where the key policy lets the host read them. -/
theorem hostRead_ctx {c : Ctx} {va : Nat} (hjudge : hostJudge s p win off n t = some (.ctx c va)) (hnow : hostNow s p (.ctx c va) = true)
    (hstale : hostStale s p (.ctx c va) = none) (hclean : hostPoisoned s pkg n (.ctx c va) = false) :
    hostRead s pkg win off n t =
      some (answer s pkg (if hostMayRead c va then .bytes (readUnits16 s pkg c.num va n).1 else .completerAbort)) := by
  have hbytes : hostBytes s pkg n (.ctx c va) = (readUnits16 s pkg c.num va n).1 := by simp [hostBytes, hclean]
  rw [← hbytes]
  exact hostAccess_served hp hrate hbroken hjudge hnow hstale _

theorem hostWrite_served {bs : List Byte} (hjudge : hostJudge s p win off bs.length t = some pl) (hnow : hostNow s p pl = true)
    (hstale : hostStale s p pl = none) (hfree : hostPinned s pkg bs.length pl = false) :
    hostWrite s pkg win off bs t = some (hostPut s pkg bs pl) :=
  (hostAccess_served hp hrate hbroken hjudge hnow hstale _).trans (if_neg (by simp [hfree]))

/-! ## AtomicOps -/

variable {kind : HostAtomic} {operand compare : Nat} (hwidth : n = 4 ∨ n = 8)
include hwidth

theorem hostAtomic_malformed (hoff : off % n ≠ 0) :
    hostAtomic s pkg win off n kind operand compare t = some (answer s pkg .malformed) := by
  have hknown : ¬(n ≠ 4 ∧ n ≠ 8) := by omega
  simp [hostAtomic, hknown, hp, hrate, hbroken, hoff]

variable (haligned : off % n = 0) (hjudge : hostJudge s p win off n t = some pl) (hnow : hostNow s p pl = true)
include haligned hjudge hnow

theorem hostAtomic_stale {home : Nat} (hstale : hostStale s p pl = some home) :
    hostAtomic s pkg win off n kind operand compare t = some (dropPacket s home) := by
  have hknown : ¬(n ≠ 4 ∧ n ≠ 8) := by omega
  simp [hostAtomic, hknown, hp, hrate, hbroken, haligned, hostAccess_stale hp hrate hbroken hjudge hnow hstale]

theorem hostAtomic_served (hstale : hostStale s p pl = none) (hfree : hostPinned s pkg n pl = false) :
    hostAtomic s pkg win off n kind operand compare t =
      some (answer (hostPut s pkg (toLE n (hostAtomicNew kind (leNat (hostBytes s pkg n pl)) operand compare n)) pl) pkg
        (.bytes (hostBytes s pkg n pl))) := by
  have hknown : ¬(n ≠ 4 ∧ n ≠ 8) := by omega
  simp [hostAtomic, hknown, hp, hrate, hbroken, haligned, hostAccess_served hp hrate hbroken hjudge hnow hstale, hfree]

end HostAccess

/-! ## Writes of the management registers (R5, R397, R411, R420) -/

/-- Only the four-byte writes of CTX_CMD, PG_CMD and a CLK_CMD that names a command have rows of their own. -/
theorem hasRow_false {off n v : Nat} (h : n ≠ 4 ∨ (off ≠ 0x1008 ∧ off ≠ 0x1108 ∧ (off ≠ 0x2008 ∨ v / 64 % 4 = 0 ∨ v / 64 % 4 = 3))) :
    hasRow off n v = false := by
  rcases h with hn | ⟨hctx, hpg, hclk⟩
  · simp [hasRow, hn]
  · have hop : ¬(off = 0x2008 ∧ (v / 64 % 4 = 1 ∨ v / 64 % 4 = 2)) := by omega
    simpa [hasRow, hctx, hpg] using fun _ => by simpa using hop

theorem registerWrite_some {s : State} {pkg off n v : Nat} {p : Pkg} (hp : s.pkg? pkg = some p) (hon : mgmtOn p = true) (hoff : off < 2 ^ 26)
    (hrow : hasRow off n v = false) :
    registerWrite s pkg off n v = some (noteRoutes s (s.mapPkg pkg (fun p => regWrite p off n v)) pkg) := by
  simp only [registerWrite, hp]
  refine if_neg ?_
  rintro (hoffline | hbeyond | hnamed)
  · simp [hon] at hoffline
  · exact absurd hoff (Nat.not_lt.mpr hbeyond)
  · simp [hrow] at hnamed

section Registers

variable (p : Pkg) (v : Nat)

theorem regRead_regWrite_limits : regRead (regWrite p 0x10 4 v) 0x10 = v % 2 ^ 32 := by
  have hread : regRead (regWrite p 0x10 4 v) 0x10 = v % 2 ^ 16 + 2 ^ 16 * (v / 2 ^ 16 % 2 ^ 16) := rfl
  omega

theorem regRead_regWrite_ctxArg : regRead (regWrite p 0x1000 8 v) 0x1000 = v % 2 ^ 64 := rfl

theorem regRead_regWrite_pgArg : regRead (regWrite p 0x1100 8 v) 0x1100 = v % 2 ^ 64 := rfl

theorem regRead_regWrite_clkDomain : regRead (regWrite p 0x2000 8 v) 0x2000 = v % 2 ^ 64 := rfl

theorem inRun_self {base step count i : Nat} (hstep : 0 < step) (hi : i < count) : inRun base step count (base + step * i) = some i := by
  simp [inRun, Nat.mul_div_cancel_left i hstep, hi]

theorem regWrite_route {i : Nat} (hi : i < 128) :
    regWrite p (0x2400 + 8 * i) 8 v = { p with routes := modAt p.routes i (fun _ => BitVec.ofNat 64 (v % 2 ^ 64)) } := by
  have hrun : inRun 0x2400 8 128 (0x2400 + 8 * i) = some i := inRun_self (by decide) hi
  have hbeyond : ∀ a < 0x2400, 0x2400 + 8 * i ≠ a := by omega
  simp [regWrite, takes8, put8, hbeyond, hrun]

theorem regRead_route {i : Nat} (hi : i < 128) : regRead p (0x2400 + 8 * i) = (p.routes.getD i 0).toNat := by
  have hrun : regIn 0x2400 8 128 (0x2400 + 8 * i) = some i := by
    simpa [regIn] using inRun_self (base := 0x2400) (step := 8) (by decide) hi
  have hread : regRead8 p (0x2400 + 8 * i) = some (p.routes.getD i 0).toNat := by
    unfold regRead8
    rw [if_neg (by omega), if_neg (by omega), if_neg (by omega), hrun]
  simp only [regRead, hread]

theorem regRead_regWrite_route {i : Nat} (hi : i < 128) (hlen : p.routes.length = 128) :
    regRead (regWrite p (0x2400 + 8 * i) 8 v) (0x2400 + 8 * i) = v % 2 ^ 64 := by
  rw [regRead_route _ hi, regWrite_route p v hi]
  simp [modAt, hlen, hi]

/-- An offset below the routing table at which nothing can be written leaves the package as it is. -/
theorem regWrite_ignored {off : Nat} (hoff : off < 0x2400)
    (hwritable : off ∉ [0x10, 0x1000, 0x1004, 0x100C, 0x1100, 0x1104, 0x110C, 0x2000, 0x2004]) (n : Nat) : regWrite p off n v = p := by
  simp only [List.mem_cons, List.not_mem_nil, or_false, not_or] at hwritable
  obtain ⟨hlimits, hctxArg, hctxArgHi, hctxDrop, hpgArg, hpgArgHi, hpgDrop, hdomain, hdomainHi⟩ := hwritable
  have hroutes : inRun 0x2400 8 128 off = none := if_neg (by omega)
  have hwindows : inRun 0x3000 16 16 off = none := if_neg (by omega)
  simp [regWrite, takes8, hlimits, hctxArg, hctxArgHi, hctxDrop, hpgArg, hpgArgHi, hpgDrop, hdomain, hdomainHi, hroutes, hwindows]

end Registers

/-- Settles O43: an access over a link that is up is refused, dropped or served by what the judgement makes of it; a register write goes to the register's
own field, which reads back, or nowhere. -/
theorem hostAccessesComplete : Obligations.HostAccessesComplete := by
  rintro s pkg win off n _ _ p t bs k x y hp rfl rfl
  refine ⟨fun hrate hbroken => ⟨?readRefused, ?read, ?writeRefused, ?write, ?stale, ?malformed, ?atomic⟩, ?register, ?wide, ?limits, ?ignored⟩
  case readRefused => exact fun hjudge => ifEnabled_some (hostAccess_unsupported hp hrate hbroken hjudge _)
  case read =>
    intro pl hjudge hnow hstale hclean
    cases pl with
    | pool a => exact ifEnabled_some (hostRead_pool hp hrate hbroken hjudge hnow hstale hclean)
    | ctx c va => exact ifEnabled_some (hostRead_ctx hp hrate hbroken hjudge hnow hstale hclean)
  case writeRefused => exact fun hjudge => ifEnabled_some (hostAccess_unsupported hp hrate hbroken hjudge _)
  case write => exact fun pl hjudge hnow hstale hfree => ifEnabled_some (hostWrite_served hp hrate hbroken hjudge hnow hstale hfree)
  case stale =>
    refine fun pl home hnow hstale => ⟨fun hjudge => ⟨?_, fun hwidth haligned => ?_⟩, fun hjudge => ?_⟩
    · exact ifEnabled_some (hostAccess_stale hp hrate hbroken hjudge hnow hstale _)
    · exact ifEnabled_some (hostAtomic_stale hp hrate hbroken hwidth haligned hjudge hnow hstale)
    · exact ifEnabled_some (hostAccess_stale hp hrate hbroken hjudge hnow hstale _)
  case malformed => exact fun hwidth hoff => ifEnabled_some (hostAtomic_malformed hp hrate hbroken hwidth hoff)
  case atomic =>
    rintro pl _ hwidth haligned hjudge hnow hstale hfree rfl
    exact ifEnabled_some (hostAtomic_served hp hrate hbroken hwidth haligned hjudge hnow hstale hfree)
  case register => exact fun hon hoff hother => ifEnabled_some (registerWrite_some hp hon hoff (hasRow_false hother))
  case wide =>
    simp only [List.forall_mem_cons]
    exact ⟨fun _ => regRead_regWrite_ctxArg p _, fun _ => regRead_regWrite_pgArg p _, fun _ => regRead_regWrite_clkDomain p _,
      regRead_regWrite_route p _ (i := 0) (by decide), regRead_regWrite_route p _ (i := 127) (by decide), nofun⟩
  case limits => exact regRead_regWrite_limits p _
  case ignored =>
    have hplaces : ∀ r ∈ [0x00, 0x20, 0x100, 0x154, 0x1110, 0x2100, 0x22FC],
        r < 0x2400 ∧ r ∉ [0x10, 0x1000, 0x1004, 0x100C, 0x1100, 0x1104, 0x110C, 0x2000, 0x2004] := by decide
    exact fun r hr => regWrite_ignored p _ (hplaces r hr).1 (hplaces r hr).2 4

end Sys2Proof.Machine

/-! SUPPORT. LOOPHD, IDONE, IPUT and TREEID (R323 to R327), launches, GARM and hints (R300, R307, R312, R399, R406) at issue: what each body does where its
checks pass. -/

namespace Sys2Proof.Machine

open Sys2Proof

/-! ## Updates that change nothing -/

theorem upd_eq_self {α : Type} {l : List α} {p : α → Bool} {f : α → α} (h : ∀ x, f x = x) : upd l p f = l := by
  simp [upd, h]

theorem mapCore_eq_self (s : State) (pkg idx : Nat) {f : Core → Core} (h : ∀ c, f c = c) : s.mapCore pkg idx f = s := by
  simp [State.mapCore, upd_eq_self h]

theorem mapGroup_eq_self (s : State) (id : Nat) {f : Group → Group} (h : ∀ g, f g = g) : s.mapGroup id f = s := by
  simp [State.mapGroup, upd_eq_self h]

@[simp] theorem laneBits_nil : laneBits [] = 0 := rfl

section GroupInstr

variable {s : State} {x : Iss} {act : Mask} {w : FmtS} {fed : List Nat}

/-! ## LOOPHD (R324) -/

theorem bodyLoophd_feeds (hfed : fed = (loopLanes x (levelOf x.k.levels w.level.toNat)).2.take (itemsOf s x).length) (hsome : laneBits fed ≠ 0) :
    bodyLoophd w x act s = .done (markDirty ((((putWord
      (s.mapCore x.g.pkg x.g.core (fun c => { c with items := c.items.drop fed.length })) x.g.id x.sp.id w.d.toNat (laneBits fed) (laneBits fed).lowest
      (fun i => (itemsOf s x).getD (fed.findIdx (fun j => j == i)) 0)).mapGroup x.g.id (fun g => { g with done := g.done &&& ~~~(laneBits fed) })).mapSplit
      x.g.id x.sp.id (fun sp => { sp with
        mask := laneBits ((loopLanes x (levelOf x.k.levels w.level.toNat)).1.filter (fun i => !x.g.done.getLsbD i)) ||| laneBits fed }))) x) := by
  subst hfed
  simp only [bodyLoophd, if_neg hsome]

/-- With no lane to feed, or no item, LOOPHD takes the lanes that are done out of the mask. -/
theorem bodyLoophd_starves (hfed : (loopLanes x (levelOf x.k.levels w.level.toNat)).2.take (itemsOf s x).length = []) :
    bodyLoophd w x act s = .done (markDirty (s.mapSplit x.g.id x.sp.id (fun sp => { sp with
      mask := laneBits ((loopLanes x (levelOf x.k.levels w.level.toNat)).1.filter (fun i => !x.g.done.getLsbD i)) })) x) := by
  have hitems : s.mapCore x.g.pkg x.g.core (fun c => { c with items := c.items.drop ([] : List Nat).length }) = s :=
    mapCore_eq_self s _ _ fun c => rfl
  have hkeep (m : Mask) : m &&& ~~~(0 : Mask) = m := BitVec.and_allOnes
  have hdone : s.mapGroup x.g.id (fun g => { g with done := g.done &&& ~~~(0 : Mask) }) = s :=
    mapGroup_eq_self s _ fun g => by rw [hkeep]
  have hmask (m : Mask) : m ||| 0 = m := BitVec.or_zero
  simp only [bodyLoophd, hfed, laneBits_nil, hitems, hdone, hmask, if_true]

end GroupInstr

/-- Settles O25: LOOPHD feeds its lanes or takes them out of the mask, and the other three issue as their bodies say. -/
theorem groupInstructionsComplete : Obligations.GroupInstructionsComplete := by
  intro s x act w fed
  refine ⟨?feeds, ?starves, ?idone, ?iput, ?treeid⟩
  case feeds => exact fun hruns hfed hsome => issueWith_done hruns (bodyLoophd_feeds hfed hsome)
  case starves => exact fun hruns hfed => issueWith_done hruns (bodyLoophd_starves hfed)
  case idone => exact fun hruns => issueWith_done hruns rfl
  case iput =>
    rintro hruns rfl
    exact issueWith_done hruns rfl
  case treeid => exact fun hruns => issueWith_done hruns rfl

/-! ## IDONE (R325) -/

/-- A field of IDONE's word beside G that is not zero is ILLOP, since IDONE uses none of them. -/
theorem formIdone_illop {w : FmtS} (h : w.d ≠ 0 ∨ w.a ≠ 0 ∨ w.b ≠ 0 ∨ w.level ≠ 0 ∨ w.id ≠ 0 ∨ w.ep ≠ 0 ∨ w.mod ≠ 0) :
    (formIdone w).illop = true := by
  have hunused (idx : Nat) (r : BitVec 10) (ep : Bool) (hr : r ≠ 0) : Opd.illop ⟨idx, r.toNat, .unused, ep⟩ = true := by
    have hnum : r.toNat ≠ 0 := fun h => hr (BitVec.eq_of_toNat_eq h)
    simp [Opd.illop, hnum]
  rcases h with h | h | h | h | h | h | h
  · simp [Form.illop, formIdone, opdsS, hunused _ _ _ h]
  · simp [Form.illop, formIdone, opdsS, hunused _ _ _ h]
  · simp [Form.illop, formIdone, opdsS, hunused _ _ _ h]
  all_goals
    have hbit := bne_iff_ne.mpr h
    simp only [Form.illop, formIdone, hbit, Bool.true_or, Bool.or_true]

theorem decode_idone (w : FmtS) : decode (putS 0x18E w) = .idone w := by
  simp [decode, decode6]

/-- Settles O49: IDONE's word reads back, a field it does not use is ILLOP, and its body sets the done bits of the acting lanes alone. -/
theorem idoneRule : Obligations.IdoneRule := by
  intro s x act w
  refine ⟨decode_idone w, fun hissuer hwindow hfields => ?_, fun hruns => ⟨issueWith_done hruns rfl, fun i => BitVec.getLsbD_or⟩⟩
  exact issueWith_verdict_trap hissuer hwindow (verdict_illop (formIdone_illop hfields))

/-! ## LAUNCH and LAUNCHI (R307, R312) -/

/-- Words that pass checks 2 to 4 of R312 take no trap. -/
theorem launchTrap_none {s : State} {x : Iss} {a : LaunchArgs} (h : launchOk s x a = true) : launchTrap s x a = none := by
  simp only [launchOk, List.all_eq_true, Bool.and_eq_true] at h
  have haligned : (launchWords a).find? (fun p => p.1 % 4 != 0) = none :=
    List.find?_eq_none.mpr fun p hp => by
      obtain ⟨⟨hmod, -⟩, -⟩ := h p hp
      simpa using hmod
  have hrouted : (launchWords a).find? (fun p => (routeOf s x.g.pkg x.g.ctx p.1).isNone) = none :=
    List.find?_eq_none.mpr fun p hp => by
      obtain ⟨⟨-, hroute⟩, -⟩ := h p hp
      simpa [Option.isSome_iff_ne_none] using hroute
  have hopen : (launchWords a).find? (fun p => rltHit s x.g.pkg x.g.core p.1 p.2) = none :=
    List.find?_eq_none.mpr fun p hp => by
      obtain ⟨-, hfree⟩ := h p hp
      simpa using hfree
  simp only [launchTrap, haligned, hrouted, hopen]

section Launches

variable {s : State} {x : Iss} {act : Mask} {w : FmtA}

theorem bodyLaunchOp_launches {form : Form} {ind : Bool} (hword : ind = false → descWord x w.c.toNat 5 = 0)
    (hok : launchOk s x (launchArgs x w ind) = true) (hready : fenceReady s x (modHi w.mod) = true) :
    bodyLaunchOp form w ind x s = .done (childLaunched s x w (launchArgs x w ind)) := by
  have hgood : ¬(ind = false ∧ descWord x w.c.toNat 5 ≠ 0) := fun h => h.2 (hword h.1)
  simp only [bodyLaunchOp, if_neg hgood, launchTrap_none hok, orTrap_none, if_pos hready]
  rfl

/-! ## GARM (R300) -/

variable (hqueue : wordVal x w.a.toNat < 64) (hready : fenceReady s x (modHi w.mod) = true)
include hqueue hready

theorem bodyGarm_adds {va : Nat} (hword : armWordOf s x.g.pkg x.g.ctx (wordVal x w.a.toNat) = some va)
    (hok : addrsOk s x 4 false [(act.lowest, va)] = true) :
    bodyGarm w x act s = .done (issueWrite (dropGuests (markDirty (setPending s x.g.id [w.d.toNat]) x) x.g.pkg x.g.ctx [va]) x (some 0)
      (.garm w.d.toNat) 4 none 2 act true [{ lane := act.lowest, va := va, data := toLE 4 1 }]) := by
  simp only [bodyGarm, if_neg (Nat.not_le.mpr hqueue), hword, accessTrap_none hok, if_pos hready]

theorem bodyGarm_absent (hword : armWordOf s x.g.pkg x.g.ctx (wordVal x w.a.toNat) = none) :
    bodyGarm w x act s = .done (markDirty (sendAnswer (setPending s x.g.id [w.d.toNat]) x w.d.toNat act 0xFFFFFFFF) x) := by
  simp only [bodyGarm, if_neg (Nat.not_le.mpr hqueue), hword, if_pos hready]

end Launches

/-! ## PGHINT (R406) -/

/-- A hint of 1 to 512 pages posts the records of .mig, and does nothing of another kind. -/
theorem bodyPghint_hints {s : State} {x : Iss} {act : Mask} {w : FmtM} (hsrc : srcEmpty x.g (pghintRegs w) false = .ready)
    (hmin : 1 ≤ wordVal x w.d.toNat) (hmax : wordVal x w.d.toNat ≤ 512) :
    bodyPghint w x act s = .done (if w.ord = 2 then (List.range (wordVal x w.d.toNat)).foldl (fun s i =>
      hintRecord s x ((effAddr x w.ab.toNat w.off.toInt 0 true 0 / 2 ^ 21 * 2 ^ 21 + 2 ^ 21 * i) % 2 ^ 64)) s else s) := by
  have hcount : ¬(wordVal x w.d.toNat = 0 ∨ 512 < wordVal x w.d.toNat) := by omega
  simp only [bodyPghint, hsrc, if_neg hcount]
  split <;> rfl

/-- Settles O26: a launch passes R312's checks, GARM finds its queue or does not, and a hint of the kind .mig posts its records. -/
theorem launchesAndHintsComplete : Obligations.LaunchesAndHintsComplete := by
  refine ⟨fun s x act w va => ⟨?launch, ?launchi, ?garm, ?absent⟩, fun s x act w hruns hsrc hmin hmax => ⟨fun hkind => ?other, fun hkind => ?mig⟩⟩
  case launch => exact fun hruns hword hok hready => issueWith_done hruns (bodyLaunchOp_launches (fun _ => hword) hok hready)
  case launchi => exact fun hruns hok hready => issueWith_done hruns (bodyLaunchOp_launches nofun hok hready)
  case garm => exact fun hruns hqueue hword hok hready => issueWith_done hruns (bodyGarm_adds hqueue hready hword hok)
  case absent => exact fun hruns hqueue hword hready => issueWith_done hruns (bodyGarm_absent hqueue hready hword)
  case other => exact issueWith_done hruns ((bodyPghint_hints hsrc hmin hmax).trans (congrArg Res.done (if_neg hkind)))
  case mig => exact issueWith_done hruns ((bodyPghint_hints hsrc hmin hmax).trans (congrArg Res.done (if_pos hkind)))

end Sys2Proof.Machine

/-! SUPPORT. Node barriers and async barrier objects at issue (R320, R339 to R344, R347 to R349): a wait that is over or goes on, and what each of the six
instructions does where its checks pass. -/

namespace Sys2Proof.Machine

open Sys2Proof

/-! ## Waits for the phases of node barriers (R320, R342, R343) -/

section NodeWaits

variable {s u : State} {x : Iss} {act : Mask} {f : Form} {body : Iss → Mask → State → Res} {i : Instr} {lv : Nat} {waits : List (Nat × Nat)} {d : Option Nat}

theorem waitNodes_over {st : Nat} (hu : u = settleBarriers s x.g.inst) (hover : nodeStatus u x.g.inst lv waits = some st) :
    waitNodes s x lv waits d = .done (endNodeWait u x lv st d) := by
  subst hu
  simp only [waitNodes, hover]

/-- A wait that goes on stands with its split, which goes on to its clause's end or stays where it is. -/
theorem waitNodes_open {v : State} (hu : u = settleBarriers s x.g.inst) (hopen : nodeStatus u x.g.inst lv waits = none)
    (hv : v = u.mapSplit x.g.id x.sp.id (fun sp => { sp with bar := some (.node lv waits d x.sp.hdr x.sp.idx x.sp.clause.length) })) :
    waitNodes s x lv waits d = if x.sp.idx + 1 = x.sp.clause.length then .done v else .blockIn v .barrier := by
  subst hu hv
  simp [waitNodes, hopen, Split.lastInClause]

/-- An instruction whose body waits for phases, in a state t, is one that waits before them once t has settled. -/
theorem phaseWait_of_body {t : State} (hexec : exec i s = issueWith s f body) (hruns : Runs s x f act)
    (hbody : body x act s = waitNodes t x lv waits d) : PhaseWait i s (settleBarriers t x.g.inst) x f lv waits d := by
  refine ⟨fun st hover => ?ends, fun hopen v hv => ?goesOn⟩
  case ends => exact hexec.trans (issueWith_done hruns (hbody.trans (waitNodes_over rfl hover)))
  case goesOn =>
    rw [hexec, issueWith_ready hruns, hbody, waitNodes_open rfl hopen hv]
    split <;> rfl

end NodeWaits

/-! ## BAR, BARA and BARW (R343, R344) -/

section NodeBarriers

variable {s : State} {x : Iss} {act : Mask} {w : FmtS} {lv : Nat}

theorem bodyBar_again {l h j n : Nat} {waits : List (Nat × Nat)} {d : Option Nat} (hbar : x.sp.bar = some (.node l waits d h j n)) :
    bodyBar w x act s = waitNodes s x l waits d := by
  simp only [bodyBar, hbar]

theorem bodyBarw_again {l h j n : Nat} {waits : List (Nat × Nat)} {d : Option Nat} (hbar : x.sp.bar = some (.node l waits d h j n)) :
    bodyBarw w x act s = waitNodes s x l waits d := by
  simp only [bodyBarw, hbar]

variable (hlv : lv = levelOf x.k.levels w.level.toNat)
include hlv

/-- The first issue of a BAR arrives and then waits for the phases it has joined. -/
theorem bodyBar_arrives (hbar : x.sp.bar = none) (hready : fenceReady s x w.level.toNat = true) :
    bodyBar w x act s = waitNodes (arrivedAt s x lv).1 x lv (arrivedAt s x lv).2 (statusReg w) := by
  subst hlv
  simp only [bodyBar, hbar, if_pos hready, arrivedAt]

theorem bodyBara_arrives (hready : fenceReady s x w.level.toNat = true) (hunmarked : ∀ i ∈ x.sp.mask.lanes, markOf x.g i lv = none) :
    bodyBara w x act s = .done (arrivedAt s x lv).1 := by
  subst hlv
  have hnone : ¬x.sp.mask.lanes.any (fun i => (markOf x.g i (levelOf x.k.levels w.level.toNat)).isSome) = true := by
    simpa using hunmarked
  simp only [bodyBara, if_neg hnone, if_pos hready, arrivedAt]

/-- With every lane marked a BARW completes with status 1 where one of its nodes is aborted, and else waits for the phases its marks record. -/
theorem bodyBarw_marked (hbar : x.sp.bar = none) (hmarked : ∀ i ∈ x.sp.mask.lanes, markOf x.g i lv ≠ none) :
    bodyBarw w x act s =
      if (markedPhases x lv).any (fun p => nodeAborted (settleBarriers (markDirty s x) x.g.inst) x.g.inst lv p.1) = true
      then .done (endNodeWait (settleBarriers (markDirty s x) x.g.inst) x lv 1 (statusReg w))
      else waitNodes (settleBarriers (markDirty s x) x.g.inst) x lv (markedPhases x lv) (statusReg w) := by
  subst hlv
  have hall : ¬x.sp.mask.lanes.any (fun i => (markOf x.g i (levelOf x.k.levels w.level.toNat)).isNone) = true := by
    simpa using hmarked
  simp only [bodyBarw, hbar, if_neg hall]

end NodeBarriers

/-- Settles O22: each of the three arrives or waits by its marks, and whatever waits for phases is one PhaseWait. -/
theorem nodeBarriersComplete : Obligations.NodeBarriersComplete := by
  intro s x act w lv hlv
  refine ⟨?bar, ?bara, fun hruns hbar hmarked => ⟨fun haborted => ?aborted, fun hclear => ?barw⟩, fun l h j n waits d hbar => ?again⟩
  case bar => exact fun hruns hbar hready => phaseWait_of_body rfl hruns (bodyBar_arrives hlv hbar hready)
  case bara => exact fun hruns hready hunmarked => issueWith_done hruns (bodyBara_arrives hlv hready hunmarked)
  case aborted => exact issueWith_done hruns ((bodyBarw_marked hlv hbar hmarked).trans (if_pos haborted))
  case barw => exact phaseWait_of_body rfl hruns ((bodyBarw_marked hlv hbar hmarked).trans (if_neg (by simp [hclear])))
  case again => exact ⟨fun hruns => phaseWait_of_body rfl hruns (bodyBar_again hbar), fun hruns => phaseWait_of_body rfl hruns (bodyBarw_again hbar)⟩

/-! ## ABINIT, ABARR and ABWAIT (R347 to R349) -/

section AsyncObjects

variable {s : State} {x : Iss} {act : Mask} {w : FmtS} {a : Nat} {o : AsyncObj}

/-- An object that is free, or the group's own with no arrival or engine operation in its phase, is made active. -/
theorem bodyAbinit_activates {lv : Nat} (hlv : lv = levelOf x.k.levels w.level.toNat) (ha : a = (readWord x w.a.toNat 0).toNat) (ho : o = objOf s x w.id.toNat)
    (hbind : bindOf x.k.levels w.level.toNat ≤ 2) (hmin : 1 ≤ a) (hmax : a ≤ 65535)
    (hfree : o.active = false ∨ (ownsObj x.k x.g.rank o = true ∧ o.count = 0 ∧ o.eng = 0)) :
    bodyAbinit w x act s = .done (setObj (markDirty s x) x w.id.toNat
      { active := true, nodeOwned := decide (treeG x.k.levels < lv), level := lv, expect := a
        owner := if treeG x.k.levels < lv then nodeIndex x.k.levels x.g.rank 0 lv else x.g.rank }) := by
  subst hlv ha ho
  simp only [bodyAbinit]
  rw [if_neg ?_]
  · simp only [decide_eq_true_eq]
  · rintro (hwide | hzero | hlarge | ⟨hactive, hused⟩)
    · omega
    · omega
    · omega
    · rcases hfree with hfree | ⟨hown, hcount, heng⟩
      · simp [hfree] at hactive
      · simp [hown, hcount, heng] at hused

theorem bodyAbarr_arrives (ho : o = objOf s x w.id.toNat) (hown : ownsObj x.k x.g.rank (seenObj x o) = true)
    (hready : fenceReady s x (seenObj x o).level = true) :
    bodyAbarr w x act s = .done (setObj (putStatus (markDirty s x) x.g.id x.sp.id (statusReg w) (if (seenObj x o).phase then 1 else 0))
      x w.id.toNat (seenObj x o).arrive) := by
  subst ho
  simp only [bodyAbarr, if_pos hown, if_pos hready]

theorem waitObj_over {t : State} {id st : Nat} {parity : Bool} {d : Option Nat} (ht : t = setObj s x id (seenObj x (objOf s x id)))
    (hover : objStatus t x id parity = some st) : waitObj s x id parity d = .done (endObjWait t x id st d) := by
  subst ht
  simp only [waitObj, hover]

/-- A first issue of ABWAIT on an object of its owner waits on it with the parity that A names. -/
theorem bodyAbwait_waits (ha : a = (readWord x w.a.toNat 0).toNat) (ho : o = objOf s x w.id.toNat) (hbar : x.sp.bar = none)
    (hown : ownsObj x.k x.g.rank o = true) (hparity : a < 2) :
    bodyAbwait w x act s = waitObj (liftQuarantine (markDirty s x) x.g ((formAbwait w).reads x.k)) x w.id.toNat (readWord x w.a.toNat 0 == 1)
      (statusReg w) := by
  subst ha ho
  simp only [bodyAbwait, hbar]
  exact if_pos ⟨hown, hparity⟩

end AsyncObjects

/-- Settles O24: each of the three passes its checks, and the object that ABWAIT finds turned or aborted ends its wait. -/
theorem asyncBarriersComplete : Obligations.AsyncBarriersComplete := by
  intro s x act w lv a st o hlv ha ho
  refine ⟨?init, ?arrive, fun t hruns hbar hown hparity ht hover => ?wait⟩
  case init => exact fun hruns hbind hmin hmax hfree => issueWith_done hruns (bodyAbinit_activates hlv ha ho hbind hmin hmax hfree)
  case arrive => exact fun hruns hown hready => issueWith_done hruns (bodyAbarr_arrives ho hown hready)
  case wait => exact issueWith_done hruns ((bodyAbwait_waits ha ho hbar hown hparity).trans (waitObj_over ht hover))

end Sys2Proof.Machine

/-! SUPPORT. Remote opcodes and their definitions (R353, R360, R362, R364 to R367) and near-memory commands and sessions (R376 to R384): what each instruction
sends where its checks pass, and what its event does where its conditions hold. -/

namespace Sys2Proof.Machine

open Sys2Proof

section Issue

variable {s : State} {x : Iss} {act : Mask} {w : FmtA}

/-! ## ROPLD and ROPDROP (R353, R362) -/

section Definitions

variable {slot va len : Nat} {sl : DefSlot} (hsl : sl = slotOf s x.g.pkg x.g.ctx slot) (hslot : slot < 64)
include hsl hslot

theorem bodyRopld_starts (hc : slot = wordVal x w.c.toNat) (hva : va = addrVal x w.a.toNat) (hlen : len = wordVal x w.b.toNat)
    (haligned : va % 8 = 0) (hroute : (routeOf s x.g.pkg x.g.ctx va).isSome = true) :
    bodyRopld w x act s = .done (match sl.state with
      | .loaded => startDefOp s x slot w.d.toNat true va len (some (if sl.va = va ∧ sl.len = len then 0 else 0x37)) false
      | .loading => startDefOp s x slot w.d.toNat true va len (if sameLoading s x.g.pkg x.g.ctx slot va len then none else some 0x37) false
      | .dropping => startDefOp s x slot w.d.toNat true va len (some 0x37) false
      | .empty =>
        if 4096 < len then startDefOp s x slot w.d.toNat true va len (some 0x3A) false
        else startDefOp (setSlots s x.g.pkg x.g.ctx slot (fun t => { t with state := .loading })) x slot w.d.toNat true va len none true) := by
  subst hsl hc hva hlen
  have hrouted : ¬(routeOf s x.g.pkg x.g.ctx (addrVal x w.a.toNat)).isNone = true := by simpa [Option.isSome_iff_ne_none] using hroute
  simp only [bodyRopld, if_neg (Nat.not_le.mpr hslot), misaligned_singleton haligned, orTrap_none, if_neg hrouted]
  cases (slotOf s x.g.pkg x.g.ctx (wordVal x w.c.toNat)).state
  case empty => exact (apply_ite Res.done _ _ _).symm
  all_goals rfl

theorem bodyRopdrop_starts (ha : slot = wordVal x w.a.toNat) :
    bodyRopdrop w x act s = .done (if sl.state = .loaded then
        startDefOp (setSlots s x.g.pkg x.g.ctx slot (fun t => { t with state := .dropping })) x slot w.d.toNat false 0 0 none true
      else startDefOp s x slot w.d.toNat false 0 0 (some 0x39) false) := by
  subst hsl ha
  simp only [bodyRopdrop, if_neg (Nat.not_le.mpr hslot)]
  exact (apply_ite Res.done _ _ _).symm

end Definitions

/-! ## ROP and ROPR (R364 to R367) -/

/-- A target that passes the checks of R365 is aligned, and takes none of its traps. -/
theorem ropSiteOk_passes {slot va : Nat} {img : DefImage} (h : ropSiteOk s x va img = true) :
    misaligned 128 [(va, va)] = none ∧ ropTrap s x slot va img = none := by
  unfold ropSiteOk at h
  cases hroute : routeOf s x.g.pkg x.g.ctx va with
  | none => simp [hroute] at h
  | some e =>
    simp only [hroute, Bool.and_eq_true, beq_iff_eq, List.all_eq_true, Bool.not_eq_true', decide_eq_true_eq] at h
    obtain ⟨⟨⟨haligned, hlines⟩, hchannel⟩, hopen⟩ := h
    have hfoot : badFootprint s x e (footprint img e.period va) = none :=
      List.find?_eq_none.mpr fun a ha => by
        obtain ⟨hcanonical, hrange⟩ := hlines a ha
        simpa [hrange] using hcanonical
    have hlocks : (footprint img e.period va).find? (fun a => rltHit s x.g.pkg x.g.core a false) = none :=
      List.find?_eq_none.mpr fun a ha => by simp [hopen a ha]
    refine ⟨misaligned_singleton haligned, ?_⟩
    simp [ropTrap, hroute, hfoot, hchannel, hlocks]

theorem bodyRopOp_sends {form : Form} {isReturn : Bool} {slot va : Nat} {sl : DefSlot} (hc : slot = wordVal x w.c.toNat) (hva : va = addrVal x w.a.toNat)
    (hsl : sl = slotOf s x.g.pkg x.g.ctx slot) (hslot : slot < 64) (hloaded : sl.state = .loaded) (hsite : ropSiteOk s x va sl.img = true)
    (hroom : x.g.rop < 64) (hrel : ropOrd w.mod < 2 ∨ fenceReady s x (modHi w.mod) = true) (hret : isReturn = true → defRet sl.img ≠ 0) :
    bodyRopOp form w isReturn x s = .done (sendRop s x w slot va sl isReturn) := by
  obtain ⟨haligned, htarget⟩ := ropSiteOk_passes (slot := slot) hsite
  subst hc hva hsl
  have hfields : ¬(64 ≤ wordVal x w.c.toNat ∨ (isReturn = true ∧ (slotOf s x.g.pkg x.g.ctx (wordVal x w.c.toNat)).state = .loaded
      ∧ defRet (slotOf s x.g.pkg x.g.ctx (wordVal x w.c.toNat)).img = 0)) := by
    rintro (hlarge | ⟨hreturns, -, hzero⟩)
    · omega
    · exact hret hreturns hzero
  simp only [bodyRopOp, if_neg hfields, if_neg (not_not_intro hloaded), haligned, htarget, orTrap_none, if_neg (Nat.not_le.mpr hroom)]
  exact if_neg (not_fenceHeld (hrel.imp_left Nat.not_le.mpr))

/-! ## The near-memory instructions (R379 to R382) -/

theorem nmSite_none {va : Nat} (h : nmSiteOk s x va = true) : nmSite s x va = none := by
  unfold nmSiteOk at h
  cases hroute : routeOf s x.g.pkg x.g.ctx va with
  | none => simp [hroute] at h
  | some e =>
    simp only [hroute, Bool.and_eq_true, beq_iff_eq] at h
    obtain ⟨⟨hmemory, hsingle⟩, hown⟩ := h
    simp [nmSite, hroute, hmemory, hsingle, hown]

section NearMemory

variable {va b c : Nat} (hva : va = addrVal x w.a.toNat) (hsite : nmSiteOk s x va = true)
include hva hsite

theorem issueNm_sends (kind : NmKind) : issueNm s x act w kind = .done (sendNm s x act va w.d.toNat kind) := by
  subst hva
  simp only [issueNm, nmSite_none hsite, orTrap_none]

theorem bodyNmbc_sends (hc : c = wordVal x w.c.toNat) (hmin : 1 ≤ c / 256 % 128) (hmax : c / 256 % 128 ≤ 96) (hword : c < 2 ^ 15)
    (hend : c % 256 + c / 256 % 128 ≤ 256) :
    bodyNmbc w x act s = .done (sendNm s x act va w.d.toNat (.bc (c % 256) (c / 256 % 128)
      ((List.range (c / 256 % 128)).map (fun j => readWord x w.b.toNat j)))) := by
  subst hc
  refine (if_neg ?_).trans (issueNm_sends hva hsite _)
  omega

theorem bodyNmzero_sends (hb : b = wordVal x w.b.toNat) (hmin : 1 ≤ b / 64 % 128) (hmax : b / 64 % 128 ≤ 64) (hword : b < 2 ^ 13)
    (hend : b % 64 + b / 64 % 128 ≤ 64) :
    bodyNmzero w x act s = .done (sendNm s x act va w.d.toNat (.zero (b % 64) (b / 64 % 128))) := by
  subst hb
  refine (if_neg ?_).trans (issueNm_sends hva hsite _)
  omega

theorem bodyNmrd_sends (hb : b = wordVal x w.b.toNat) (hmin : 1 ≤ b / 64 % 8) (hmax : b / 64 % 8 ≤ 6) (hword : b < 2 ^ 9)
    (hend : b % 64 + b / 64 % 8 ≤ 64) :
    bodyNmrd w x act s = .done (sendNm s x act va w.d.toNat (.rd (b % 64) (b / 64 % 8))) := by
  subst hb
  refine (if_neg ?_).trans (issueNm_sends hva hsite _)
  omega

theorem bodyNmmac_sends (hb : b = wordVal x w.b.toNat) (hc : c = wordVal x w.c.toNat) (hgood : nmmacBad b c (va / 512 % 64) = false)
    (haligned : va % 512 = 0) (hopen : spanLocked s x va (512 * (b % 128)) = false) :
    bodyNmmac w x act s = .done (sendNm s x act va w.d.toNat
      (.mac (b % 128) (b / 128 % 64) (b / 2 ^ 13 % 8) (c % 256) (c / 256 % 256))) := by
  subst hva hb hc
  simp only [bodyNmmac, hgood, misaligned_singleton haligned, nmSite_none hsite, orTrap_none, hopen, Bool.false_eq_true, if_false]

end NearMemory

end Issue

/-- Settles O27: an admitted slot starts the operation that its state asks for. -/
theorem definitionInstructionsComplete : Obligations.DefinitionInstructionsComplete := by
  intro s x act w slot va len sl hsl hslot
  refine ⟨?load, ?drop⟩
  case load => exact fun hruns hc hva hlen haligned hroute => issueWith_done hruns (bodyRopld_starts hsl hslot hc hva hlen haligned hroute)
  case drop => exact fun hruns ha => issueWith_done hruns (bodyRopdrop_starts hsl hslot ha)

/-- Settles O28: a target that passes R365 takes the request, and a site that passes R379 the command, whose words are in range. -/
theorem remoteAndNearMemoryOpcodesSend : Obligations.RemoteAndNearMemoryOpcodesSend := by
  refine ⟨fun s x act w slot va sl hc hva hsl hslot hloaded hsite hroom hrel => ⟨?rop, ?ropr⟩,
    fun s x act w va b c hva hb hc hsite => ⟨?on, ?off, ?bc, ?zero, ?mac, ?rd⟩⟩
  case rop => exact fun hruns => issueWith_done hruns (bodyRopOp_sends hc hva hsl hslot hloaded hsite hroom hrel nofun)
  case ropr => exact fun hruns hret => issueWith_done hruns (bodyRopOp_sends hc hva hsl hslot hloaded hsite hroom hrel fun _ => hret)
  case on => exact fun hruns => issueWith_done hruns (issueNm_sends hva hsite _)
  case off => exact fun hruns => issueWith_done hruns (issueNm_sends hva hsite _)
  case bc => exact fun hruns hmin hmax hword hend => issueWith_done hruns (bodyNmbc_sends hva hsite hc hmin hmax hword hend)
  case zero => exact fun hruns hmin hmax hword hend => issueWith_done hruns (bodyNmzero_sends hva hsite hb hmin hmax hword hend)
  case mac => exact fun hruns hgood haligned hopen => issueWith_done hruns (bodyNmmac_sends hva hsite hb hc hgood haligned hopen)
  case rd => exact fun hruns hmin hmax hword hend => issueWith_done hruns (bodyNmrd_sends hva hsite hb hmin hmax hword hend)

/-! ## NM_COMMAND_EXECUTE and NM_SESSION_TIMEOUT (R376 to R384) -/

section Commands

variable {s : State} {op : Nat} {n : Nm} (hn : s.nm? op = some n) (hfirst : nmBehind s n = false)
include hn hfirst

theorem nmExecute_opens {bf : Bool} (hnone : liveSession s n.pkg n.pch = none) (hkind : n.kind = .on bf) :
    nmExecute s op = some (endNm (setSession s n.pkg n.pch (some (openSession s n bf))) n 0 none) := by
  simp [nmExecute, hn, hfirst, hnone, hkind]

theorem nmExecute_noSession (hnone : liveSession s n.pkg n.pch = none) (hkind : ∀ b, n.kind ≠ .on b) :
    nmExecute s op = some (endNm s n 0x42 none) := by
  cases h : n.kind
  case on b => exact absurd h (hkind b)
  all_goals simp [nmExecute, hn, hfirst, hnone, h]

variable {ns : NmSession} (hlive : liveSession s n.pkg n.pch = some ns)
include hlive

theorem nmExecute_owned (hgid : ns.gid = n.gid) (hctx : ns.ctx = n.ctx) (hepoch : ns.epoch = n.epoch) : nmExecute s op = runNm s n ns := by
  simp [nmExecute, hn, hfirst, hlive, hgid, hctx, hepoch]

theorem nmExecute_otherOpens (hgid : ns.gid ≠ n.gid) (hkind : ∃ b, n.kind = .on b) : nmExecute s op = some (endNm s n 0x40 none) := by
  obtain ⟨b, hkind⟩ := hkind
  simp [nmExecute, hn, hfirst, hlive, hgid, hkind]

theorem nmExecute_otherRuns (hgid : ns.gid ≠ n.gid) (hkind : ∀ b, n.kind ≠ .on b) : nmExecute s op = some (endNm s n 0x41 none) := by
  cases h : n.kind
  case on b => exact absurd h (hkind b)
  all_goals simp [nmExecute, hn, hfirst, hlive, hgid, h]

end Commands

theorem nmTimeout_ends {s : State} {pkg pch : Nat} {n : NmSession} (hn : s.session? pkg pch = some n) (hdue : n.start + 2 ^ 20 ≤ homeNow s pkg) :
    nmTimeout s pkg pch = some (setSession s pkg pch none) := by
  simp only [nmTimeout, hn]
  exact if_pos hdue

/-! ## DEFINITION_LOADED and DEFINITION_DROPPED (R353, R362) -/

section DefinitionEvents

variable {s : State} {op : Nat} {o : DefOp} (ho : s.defOp? op = some o) (hcode : o.code = none)
include ho hcode

theorem definitionLoaded_some {img : List Byte} (hload : o.load = true) (hlead : o.lead = true) (himg : loadedImage o = some img) :
    definitionLoaded s op = some (endDefLoad s o (loadCode s o img)) := by
  simp [definitionLoaded, ho, hcode, hload, hlead, himg]

theorem definitionDropped_some (hdrop : o.load = false) (hfree : slotHeld s o.pkg o.ctx o.slot = false) :
    definitionDropped s op = some ((setSlots s o.pkg o.ctx o.slot (fun t => { t with state := .empty, va := 0, len := 0, img := [] })).mapDefOp op
      (fun o => { o with code := some 0 })) := by
  simp [definitionDropped, ho, hcode, hdrop, hfree]

end DefinitionEvents

/-- Settles O35: the session of its pseudo-channel and its owner decide what a command does; the other events by their conditions. -/
theorem nearMemoryAndDefinitionEventsComplete : Obligations.NearMemoryAndDefinitionEventsComplete := by
  intro s op
  refine ⟨fun n bf hn hfirst hnone => ⟨?opens, ?none⟩, fun n ns t hn hfirst hlive => ⟨?owned, ?otherRuns, ?otherOpens⟩, ?timeout, ?loaded, ?dropped⟩
  case opens => exact fun hkind => ifEnabled_some (nmExecute_opens hn hfirst hnone hkind)
  case none => exact fun hkind => ifEnabled_some (nmExecute_noSession hn hfirst hnone hkind)
  case owned => exact fun hgid hctx hepoch hrun => ifEnabled_some ((nmExecute_owned hn hfirst hlive hgid hctx hepoch).trans hrun)
  case otherRuns => exact fun hgid hkind => ifEnabled_some (nmExecute_otherRuns hn hfirst hlive hgid hkind)
  case otherOpens => exact fun hgid hkind => ifEnabled_some (nmExecute_otherOpens hn hfirst hlive hgid hkind)
  case timeout => exact fun pkg pch n hn hdue => ifEnabled_some (nmTimeout_ends hn hdue)
  case loaded => exact fun o img ho hload hlead hcode himg => ifEnabled_some (definitionLoaded_some ho hcode hload hlead himg)
  case dropped => exact fun o ho hdrop hcode hfree => ifEnabled_some (definitionDropped_some ho hcode hdrop hfree)

end Sys2Proof.Machine

/-! SUPPORT. Queues and their prompters (R286 to R297, R299): the taking of an entry, the watchers, the choice of a queue and its ageing, and the eight kinds
of node, each where its conditions hold. -/

namespace Sys2Proof.Machine

open Sys2Proof

section Queues

variable {s : State} {pkg ctx q : Nat} {o : Queue}

/-! ## QUEUE_ENTRY_TAKE (R286) -/

theorem takeEntry_absent {e : QEntry} (hvalid : e.valid = false) : takeEntry s pkg ctx q e = some (absentQueue s pkg ctx q e.gen) := if_pos hvalid

theorem takeEntry_bad {e : QEntry} (hvalid : e.valid = true) (hbad : entryBad s pkg ctx e = true) :
    takeEntry s pkg ctx q e = some (drainTake s pkg ctx q 5 e) :=
  (if_neg (by simp [hvalid])).trans (if_pos hbad)

theorem takeEntry_good {e : QEntry} {ws : List Byte} (hvalid : e.valid = true) (hgood : entryBad s pkg ctx e = false)
    (hmeet : meetPages s (.take q) pkg ctx kindGraph noGid e.armw 4 = .go) (hread : readUnits16 s pkg ctx e.armw 4 = (ws, false)) :
    takeEntry s pkg ctx q e = some (goodTake s pkg ctx q e (leNat ws)) := by
  simp [takeEntry, hvalid, hgood, hmeet, hread]

section OfQueue

variable (hq : queue? s pkg ctx q = some o)
include hq

/-- A queue whose entry is to be taken takes what its home holds. -/
theorem queueTake_reads {bs : List Byte} (hruns : ctxRuns s pkg ctx = true) (htake : o.toTake = true)
    (hmeet : meetPages s (.take q) pkg ctx kindGraph noGid (entryVa s pkg ctx q) 64 = .go)
    (hread : readUnits16 s pkg ctx (entryVa s pkg ctx q) 64 = (bs, false)) :
    queueTake s pkg ctx q = takeEntry s pkg ctx q (qEntry bs) := by
  simp [queueTake, hq, hruns, htake, hmeet, hread]

/-! ## WATCHER_NOTIFY, PROMPTER_CHOOSE and EFFPRIO_AGE (R287, R288, R297) -/

/-- A watcher that has read a new arm word, and nothing else that is new, passes it on. -/
theorem watcherNotify_arms {a : Nat} (htaken : o.taken = true) (hexists : o.exists_ = true)
    (hgen : watchedWord s pkg ctx (entryVa s pkg ctx q + 0x20) = some o.gen) (harm : watchedWord s pkg ctx o.armw = some a) (hnew : a ≠ o.armval)
    (hwait : o.wait = none) :
    watcherNotify s pkg ctx q = some (armQueue (noteQueue s pkg ctx q (fun o => { o with armval := a })) pkg ctx q) := by
  simp [watcherNotify, hq, htaken, hexists, hgen, harm, hnew, hwait, cueNow]

theorem prompterChoose_enters (hcandidate : candidate s pkg ctx o = true)
    (hfirst : ∀ p ∈ (queuesOf s pkg).filter (fun p => p.2.fld == o.fld && !(p.1 == ctx && p.2.num == q)),
      (ctxRuns s pkg p.1 && p.2.walked (homeNow s pkg)) = false ∧ (candidate s pkg p.1 p.2 && before p.2 o) = false) :
    prompterChoose s pkg ctx q = some (readNode (setQueue s pkg ctx q (fun e => e.enter (liveAsyncs s e) s.tick)) pkg ctx q) := by
  simp only [prompterChoose, hq]
  refine if_neg ?_
  rintro (hnot | hwalked | hbefore)
  · simp [hcandidate] at hnot
  · obtain ⟨p, hp, hwalks⟩ := List.any_eq_true.mp hwalked
    simp [(hfirst p hp).1] at hwalks
  · obtain ⟨p, hp, hgoes⟩ := List.any_eq_true.mp hbefore
    simp [(hfirst p hp).2] at hgoes

theorem effprioAge_falls (hruns : ctxRuns s pkg ctx = true) (hexists : o.exists_ = true) (haged : agedPrio s pkg ctx o < o.effprio) :
    effprioAge s pkg ctx q = some (setQueue s pkg ctx q (fun e => { e with effprio := e.effprio - 1 })) := by
  simp [effprioAge, hq, hruns, hexists, haged]

end OfQueue

end Queues

/-- Settles O38: what the entry and the arm word hold decides a take, and the other events go by their conditions. -/
theorem queueEventsComplete : Obligations.QueueEventsComplete := by
  intro s pkg ctx q o hq
  refine ⟨fun bs hruns htake hmeet hread => ?take, ?watcher, ?choose, ?age⟩
  case take =>
    have htakes := queueTake_reads hq hruns htake hmeet hread
    exact ⟨fun hvalid => ifEnabled_some (htakes.trans (takeEntry_absent hvalid)),
      fun hvalid hbad => ifEnabled_some (htakes.trans (takeEntry_bad hvalid hbad)),
      fun ws hvalid hgood hmeet hread => ifEnabled_some (htakes.trans (takeEntry_good hvalid hgood hmeet hread))⟩
  case watcher => exact fun a htaken hexists hgen harm hnew hwait => ifEnabled_some (watcherNotify_arms hq htaken hexists hgen harm hnew hwait)
  case choose => exact fun hcandidate hfirst => ifEnabled_some (prompterChoose_enters hq hcandidate hfirst)
  case age => exact fun hruns hexists haged => ifEnabled_some (effprioAge_falls hq hruns hexists haged)

/-- A cue word that is there is what its node goes on with (R292). -/
theorem withCue_reads {s : State} {pkg ctx q : Nat} {n : Node} {ws : List Byte} (hmeet : meetPages s (.node q) pkg ctx kindGraph noGid n.a 4 = .go)
    (hread : readUnits16 s pkg ctx n.a 4 = (ws, false)) (k : Nat → State) : withCue s pkg ctx q n k = some (k (leNat ws)) := by
  simp [withCue, hmeet, hread]

section Nodes

variable {s : State} {pkg ctx q : Nat} {e : Queue} {n : Node} (hwalk : walking s pkg ctx q = some (e, n))
include hwalk

/-! ## Walking a node (R289, R290) -/

theorem walk_bad {kind : Nat} (hbad : n.bad = true) (hkind : n.kind = kind ∨ 7 < n.kind) (body : Queue → Node → Option State) :
    walk s pkg ctx q kind body = some (drainQueue s pkg ctx q 1) := by
  simp only [walk, hwalk, hbad, if_pos hkind, if_true]

/-- A bad node drains its queue whichever of its kinds the prompter takes it for. -/
theorem badNode_drains (hbad : n.bad = true) {i : Instr}
    (hi : (i, n.kind) ∈ [(Instr.endNode pkg ctx q, 0), (.kernelNode pkg ctx q, 1), (.copyNode pkg ctx q, 2), (.waitcueNode pkg ctx q, 3),
        (.setcueNode pkg ctx q, 4), (.condNode pkg ctx q, 5), (.whileNode pkg ctx q, 6), (.joinNode pkg ctx q, 7)]
      ∨ (7 < n.kind ∧ i ∈ [.endNode pkg ctx q, .kernelNode pkg ctx q, .copyNode pkg ctx q, .waitcueNode pkg ctx q, .setcueNode pkg ctx q,
          .condNode pkg ctx q, .whileNode pkg ctx q, .joinNode pkg ctx q])) :
    exec i s = .next (drainQueue s pkg ctx q 1) := by
  have hdrains {kind : Nat} (hkind : n.kind = kind ∨ 7 < n.kind) := walk_bad hwalk hbad hkind
  simp only [List.mem_cons, List.not_mem_nil, or_false, Prod.mk.injEq] at hi
  rcases hi with hi | ⟨hnone, hi⟩
  · rcases hi with ⟨rfl, hkind⟩ | ⟨rfl, hkind⟩ | ⟨rfl, hkind⟩ | ⟨rfl, hkind⟩ | ⟨rfl, hkind⟩ | ⟨rfl, hkind⟩ | ⟨rfl, hkind⟩ | ⟨rfl, hkind⟩ <;>
      exact ifEnabled_some (hdrains (.inl hkind) _)
  · rcases hi with rfl | rfl | rfl | rfl | rfl | rfl | rfl | rfl <;> exact ifEnabled_some (hdrains (.inr hnone) _)

variable (hgood : n.bad = false)
include hgood

theorem walk_good {kind : Nat} (hkind : n.kind = kind) (body : Queue → Node → Option State) : walk s pkg ctx q kind body = body e n := by
  simp [walk, hwalk, hgood, hkind]

/-! ## KERNEL and COPY (R293, R294) -/

theorem kernelNode_starts (hkind : n.kind = 1) (hroom : noRoom s e n = false) (hword : n.e = 0 ∨ (routeOf s pkg ctx n.e).isSome = true) :
    kernelNode s pkg ctx q = some (started { s with
      insts := s.insts ++ [{ newInst s.nextId pkg ctx (epochOf s pkg ctx) (.node q e.cur) false (nodeLaunch n) with prio := e.effprio, since := s.tick }],
      nextId := s.nextId + 1 } pkg ctx q s.nextId n) := by
  have hrouted : ¬(n.e ≠ 0 ∧ (routeOf s pkg ctx n.e).isNone = true) := by
    rintro ⟨hne, hnone⟩
    rcases hword with hzero | hsome
    · exact hne hzero
    · simp [Option.isNone_iff_eq_none.mp hnone] at hsome
  exact (walk_good hwalk hgood hkind _).trans ((if_neg (by simp [hroom])).trans (if_neg hrouted))

/-- A COPY node of two ranges that lie each in one goes on at once where it copies nothing, and starts its copy otherwise. -/
theorem copyNode_starts (hkind : n.kind = 2) (hroom : noRoom s e n = false) (hsrc : inOneRange s pkg ctx n.a n.c = true)
    (hdst : inOneRange s pkg ctx n.b n.c = true) :
    copyNode s pkg ctx q = if n.c = 0 then some (goOn s pkg ctx q n.next)
      else some (started { s with engs := s.engs ++ [nodeCopyOp s pkg ctx q e.cur n], nextId := s.nextId + 1 } pkg ctx q s.nextId n) :=
  (walk_good hwalk hgood hkind _).trans ((if_neg (by simp [hroom])).trans (if_neg (by simp [hsrc, hdst])))

/-! ## JOIN and END (R291, R299) -/

theorem joinNode_some (hkind : n.kind = 7) :
    joinNode s pkg ctx q = some (if asyncsOver s pkg e then goOn s pkg ctx q n.next else goWait s pkg ctx q e.cur .join) :=
  walk_good hwalk hgood hkind _

theorem endNode_waits (hkind : n.kind = 0) (hbusy : asyncsOver s pkg e = false) : endNode s pkg ctx q = some (goWait s pkg ctx q e.cur .last) :=
  (walk_good hwalk hgood hkind _).trans (if_pos hbusy)

/-- An END whose ASYNC nodes are over counts its run once and goes on to the DONE word. -/
theorem endNode_counts {u : State} (hkind : n.kind = 0) (hover : asyncsOver s pkg e = true)
    (hu : u = (if e.doneNow then s else setQueue s pkg ctx q (fun e => { e with runs := (e.runs + 1) % 2 ^ 32, doneNow := true }))) :
    endNode s pkg ctx q = endDone u pkg ctx q n := by
  subst hu
  exact (walk_good hwalk hgood hkind _).trans (if_neg (by simp [hover]))

/-! ## WAITCUE, COND, WHILE and SETCUE (R289, R292) -/

section Cues

variable {ws : List Byte} (hmeet : meetPages s (.node q) pkg ctx kindGraph noGid n.a 4 = .go) (hread : readUnits16 s pkg ctx n.a 4 = (ws, false))
include hmeet hread

theorem waitcueNode_some (hkind : n.kind = 3) : waitcueNode s pkg ctx q = some (if cueHolds n.cmp (leNat ws) n.val then goOn s pkg ctx q n.next
    else goWait s pkg ctx q n.next (.cue n.a n.val n.cmp false)) :=
  (walk_good hwalk hgood hkind _).trans (withCue_reads hmeet hread _)

theorem condNode_some (hkind : n.kind = 5) :
    condNode s pkg ctx q = some (goOn s pkg ctx q (if cueHolds n.cmp (leNat ws) n.val then n.next else n.c)) :=
  (walk_good hwalk hgood hkind _).trans (withCue_reads hmeet hread _)

theorem whileNode_some (hkind : n.kind = 6) :
    whileNode s pkg ctx q = some (goOn s pkg ctx q (if cueHolds n.cmp (leNat ws) n.val then n.c else n.next)) :=
  (walk_good hwalk hgood hkind _).trans (withCue_reads hmeet hread _)

theorem setcueNode_some (hkind : n.kind = 4) (hfree : lineHeld s pkg ctx n.a = false) :
    setcueNode s pkg ctx q = some (goOn (releaseWrite s pkg ctx q n.a n.bind
      (toLE 4 (if n.cmp = 0 then n.val else (leNat ws + n.val) % 2 ^ 32))) pkg ctx q n.next) :=
  (walk_good hwalk hgood hkind _).trans ((if_neg (by simp [hfree])).trans (withCue_reads hmeet hread _))

end Cues

end Nodes

/-! ## The DONE word (R299) -/

section Done

variable {u : State} {pkg ctx q : Nat} {o : Queue} (ho : queue? u pkg ctx q = some o) (n : Node)
include ho

theorem endDone_noWord (hdone : o.done = 0) : endDone u pkg ctx q n = some (endRun u pkg ctx q n) := by
  simp [endDone, ho, hdone]

theorem endDone_writes (hdone : o.done ≠ 0) (hmeet : meetPages u (.done q) pkg ctx kindGraph noGid o.done 4 = .go)
    (hfree : lineHeld u pkg ctx o.done = false) :
    endDone u pkg ctx q n = some (endRun (releaseWrite u pkg ctx q o.done 7 (toLE 4 o.runs)) pkg ctx q n) := by
  simp [endDone, ho, hdone, hmeet, hfree]

end Done

/-- Settles O39: a bad node drains its queue, a good one does what its kind says. -/
theorem prompterNodesComplete : Obligations.PrompterNodesComplete := by
  refine ⟨fun s pkg ctx q e n hwalk hgood => ⟨?kernel, ?copy, ?joined, ?joins, ?last, fun u o hkind hover hu ho => ⟨?noWord, ?done⟩⟩,
    fun s pkg ctx q e n ws hwalk => ⟨?bad, fun hgood hmeet hread => ⟨?waitcue, ?cond, ?loop, ?setcue⟩⟩⟩
  case kernel => exact fun hkind hroom hword => ifEnabled_some (kernelNode_starts hwalk hgood hkind hroom hword)
  case copy =>
    intro hkind hroom hsrc hdst
    have hcopy := copyNode_starts hwalk hgood hkind hroom hsrc hdst
    exact ⟨fun hzero => ifEnabled_some (hcopy.trans (if_pos hzero)), fun hsome => ifEnabled_some (hcopy.trans (if_neg hsome))⟩
  case joined => exact fun hkind hover => ifEnabled_some ((joinNode_some hwalk hgood hkind).trans (congrArg some (if_pos hover)))
  case joins => exact fun hkind hbusy => ifEnabled_some ((joinNode_some hwalk hgood hkind).trans (congrArg some (if_neg (by simp [hbusy]))))
  case last => exact fun hkind hbusy => ifEnabled_some (endNode_waits hwalk hgood hkind hbusy)
  case noWord => exact fun hdone => ifEnabled_some ((endNode_counts hwalk hgood hkind hover hu).trans (endDone_noWord ho n hdone))
  case done =>
    exact fun hdone hmeet hfree => ifEnabled_some ((endNode_counts hwalk hgood hkind hover hu).trans (endDone_writes ho n hdone hmeet hfree))
  case bad => exact fun i hbad hi => badNode_drains hwalk hbad hi
  case waitcue => exact fun hkind => ifEnabled_some (waitcueNode_some hwalk hgood hmeet hread hkind)
  case cond => exact fun hkind => ifEnabled_some (condNode_some hwalk hgood hmeet hread hkind)
  case loop => exact fun hkind => ifEnabled_some (whileNode_some hwalk hgood hmeet hread hkind)
  case setcue => exact fun hkind hfree => ifEnabled_some (setcueNode_some hwalk hgood hmeet hread hkind hfree)

end Sys2Proof.Machine

/-! SUPPORT. The commands of PG_CMD (R392 to R397, R401, R402), the switch of a migration (R403, R404) and the posting of fault records (R399): what a written
command meets before its checks, what the checks make of it, and the next state of the two events. -/

namespace Sys2Proof.Machine

open Sys2Proof

/-! ## A page command as it is written (R397) -/

section PageCommands

variable {s : State} {pkg : Nat} {p : Pkg} (hp : s.pkg? pkg = some p) (hon : mgmtOn p = true)
include hp hon

theorem pgCommand_busy (hbusy : p.pgCmd ≠ none) (body : Pkg → Option State) :
    pgCommand s pkg body = some (s.mapPkg pkg (fun p => { p with pgDrop := true })) := by
  simp [pgCommand, hp, hon, Option.isSome_iff_ne_none.mpr hbusy]

theorem pgCommand_taken (hready : p.ready = true) (hidle : p.pgCmd = none) (body : Pkg → Option State) : pgCommand s pkg body = body p := by
  simp [pgCommand, hp, hon, hready, hidle]

theorem pgCmdBad_some {op : Nat} (hready : p.ready = true) (hidle : p.pgCmd = none) (hop : op % 16 = 0 ∨ 5 < op % 16) :
    pgCmdBad s pkg op = some (endPgCmd s pkg 5) :=
  (if_pos hop).trans (pgCommand_taken hp hon hready hidle _)

variable (hfocus : s.focus.1 = pkg) (op : Nat) (body : PgWork → State → State)
include hfocus

theorem pgWork_busy (hbusy : p.pgCmd ≠ none) : pgWork s op body = some (s.mapPkg pkg (fun p => { p with pgDrop := true })) := by
  simp only [pgWork, hfocus, pgCommand_busy hp hon hbusy]

theorem pgWait_busy (hbusy : p.pgCmd ≠ none) : pgWait s op body = some (s.mapPkg pkg (fun p => { p with pgDrop := true })) := by
  simp only [pgWait, hfocus, pgCommand_busy hp hon hbusy]

/-! ## The checks of R397, and the work of a command that passes them -/

variable (hready : p.ready = true) (hidle : p.pgCmd = none) {op}
include hready hidle

theorem pgWork_stopped {r : Nat} (hcheck : pgCheck s p op = .inl r) : pgWork s op body = some (endPgCmd s pkg r) := by
  simp only [pgWork, hfocus, pgCommand_taken hp hon hready hidle, hcheck]

theorem pgWork_acts {w : PgWork} (hcheck : pgCheck s p op = .inr w) : pgWork s op body = some (endPgCmd (body w s) pkg 0) := by
  simp only [pgWork, hfocus, pgCommand_taken hp hon hready hidle, hcheck]

theorem pgWait_stopped {r : Nat} (hcheck : pgCheck s p op = .inl r) : pgWait s op body = some (endPgCmd s pkg r) := by
  simp only [pgWait, hfocus, pgCommand_taken hp hon hready hidle, hcheck]

theorem pgWait_acts {w : PgWork} (hcheck : pgCheck s p op = .inr w) (hfree : unleased w s = true) :
    pgWait s op body = some (endPgCmd (body w s) pkg 0) := by
  simp only [pgWait, hfocus, pgCommand_taken hp hon hready hidle, hcheck, if_pos hfree]

/-- A command that a lease on one of its pages keeps waiting is BUSY (R394). -/
theorem pgWait_waits {w : PgWork} (hcheck : pgCheck s p op = .inr w) (hleased : unleased w s = false) :
    pgWait s op body = some (s.mapPkg pkg (fun p => { p with pgCmd := some { op := op, ctx := w.c.num, pages := w.pages.map (·.1) } })) := by
  simp only [pgWait, hfocus, pgCommand_taken hp hon hready hidle, hcheck, hleased, Bool.false_eq_true, if_false]

end PageCommands

/-! ## MIGRATION_SWITCH (R403, R404) -/

theorem migrationSwitch_some {s : State} {pkg ctx va : Nat} {q : Page} {c : Ctx} {e : PtEntry} (hpage : s.page? ctx pkg va = some q)
    (hc : s.ctx? pkg ctx = some c) (hroute : c.route (vaFull va) = some e) (hstate : q.state = .migrating) (hdue : q.since + 100 ≤ s.tick)
    (hfree : pageLeased s pkg ctx va = false) (hclean : q.bad = none) :
    migrationSwitch s pkg ctx va = some (startHeld (setPage (clearCounts (copyFrames s pkg c e q) pkg c e q.newFrames)
      { q with state := .mapped, frames := q.newFrames, newFrames := [], bad := none })) := by
  have hgo : ¬(q.state ≠ .migrating ∨ s.tick < q.since + switchTicks ∨ pageLeased s pkg ctx va = true) := by
    rintro (hother | hearly | hleased)
    · exact hother hstate
    · exact absurd hdue (Nat.not_le.mpr hearly)
    · simp [hfree] at hleased
  simp only [migrationSwitch, hpage, hc, hroute, if_neg hgo, hclean]

/-! ## FAULT_RECORD_POST (R399) -/

section Records

variable {s : State} {c : Ctx} {r : FaultRec} {t : List FaultRec} {h : FqHdr} (hc : s.ctx? s.focus.1 s.focus.2 = some c) (hwait : c.fqWait = r :: t)
  (hhdr : goodHdr s c = some h)
include hc hwait hhdr

theorem recordPost_writes {slot : Nat} (hslot : slot = c.fqaddr + 64 + 64 * (h.put % 2 ^ h.log2)) (hput : c.fqPut = none)
    (hroom : (h.put + 2 ^ 32 - h.get) % 2 ^ 32 ≠ 2 ^ h.log2) (hreach : fqReach s c slot 64 = true) :
    recordPost s = some ((writeSpan s c.pkg c.num slot (recordBytes r)).mapCtx c.pkg c.num (fun d => { d with fqPut := some (putTime s c slot) })) := by
  subst hslot
  simp only [recordPost, hc, hwait, hhdr, hput]
  refine if_neg ?_
  rintro (hfull | hout)
  · exact hroom hfull
  · simp [hreach] at hout

theorem recordPost_puts {u : Nat} (hput : c.fqPut = some u) (hdone : u ≤ homeNow s c.pkg) : recordPost s = some (recordPosted s c h) := by
  simp only [recordPost, hc, hwait, hhdr, hput]
  exact if_neg (Nat.not_lt.mpr hdone)

end Records

/-- Settles O44: what a written page command meets is proved once for all five; each then ends with what its checks or its work give. -/
theorem pageCommandsComplete : Obligations.PageCommandsComplete := by
  intro s pkg p hfocus hp hon
  refine ⟨?busy, fun hready hidle => ⟨fun r => ?stopped, fun w => ?acts, ?unassigned⟩, ?switch, ?record⟩
  case busy =>
    intro hbusy i hi
    have hwork := fun op body => pgWork_busy hp hon hfocus op body hbusy
    have hwait := fun op body => pgWait_busy hp hon hfocus op body hbusy
    simp only [List.mem_cons, List.not_mem_nil, or_false] at hi
    rcases hi with rfl | rfl | rfl | rfl | rfl
    · exact ifEnabled_some (hwork 1 mapPages)
    · exact ifEnabled_some (hwait 2 unmapPages)
    · exact ifEnabled_some (hwork 3 migratePages)
    · exact ifEnabled_some (hwait 4 retirePages)
    · exact ifEnabled_some (hwork 5 denyPages)
  case stopped =>
    exact ⟨fun hcheck => ifEnabled_some (pgWork_stopped hp hon hfocus mapPages hready hidle hcheck),
      fun hcheck => ifEnabled_some (pgWait_stopped hp hon hfocus unmapPages hready hidle hcheck),
      fun hcheck => ifEnabled_some (pgWork_stopped hp hon hfocus migratePages hready hidle hcheck),
      fun hcheck => ifEnabled_some (pgWait_stopped hp hon hfocus retirePages hready hidle hcheck),
      fun hcheck => ifEnabled_some (pgWork_stopped hp hon hfocus denyPages hready hidle hcheck)⟩
  case acts =>
    refine ⟨?map, ?unmap, ?migrate, ?retire, ?unmapWaits, ?retireWaits, ?deny⟩
    case map => exact fun hcheck => ifEnabled_some (pgWork_acts hp hon hfocus mapPages hready hidle hcheck)
    case unmap => exact fun hcheck hfree => ifEnabled_some (pgWait_acts hp hon hfocus unmapPages hready hidle hcheck hfree)
    case migrate => exact fun hcheck => ifEnabled_some (pgWork_acts hp hon hfocus migratePages hready hidle hcheck)
    case retire => exact fun hcheck hfree => ifEnabled_some (pgWait_acts hp hon hfocus retirePages hready hidle hcheck hfree)
    case unmapWaits => exact fun hcheck hleased => ifEnabled_some (pgWait_waits hp hon hfocus unmapPages hready hidle hcheck hleased)
    case retireWaits => exact fun hcheck hleased => ifEnabled_some (pgWait_waits hp hon hfocus retirePages hready hidle hcheck hleased)
    case deny => exact fun hcheck => ifEnabled_some (pgWork_acts hp hon hfocus denyPages hready hidle hcheck)
  case unassigned => exact fun op hop => ifEnabled_some (pgCmdBad_some hp hon hready hidle hop)
  case switch =>
    exact fun ctx va q c e hpage hc hroute hstate hdue hfree hclean =>
      ifEnabled_some (migrationSwitch_some hpage hc hroute hstate hdue hfree hclean)
  case record =>
    exact fun c r t h slot hc hwait hhdr hslot =>
      ⟨fun hput hroom hreach => ifEnabled_some (recordPost_writes hc hwait hhdr hslot hput hroom hreach),
        fun u hput hdone => ifEnabled_some (recordPost_puts hc hwait hhdr hput hdone)⟩

end Sys2Proof.Machine

/-! SUPPORT. SPDM, TDISP and IDE requests (R407 to R409) and the ports of Clekai (R418 to R421): what a request over a link that is up answers, and the next
state of a port where each event's conditions hold. -/

namespace Sys2Proof.Machine

open Sys2Proof

section Security

variable {s : State} {pkg : Nat} {p : Pkg} (hp : s.pkg? pkg = some p)
include hp

/-! ## Requests over a link that is up (R407 to R409) -/

section Requests

variable (hrate : p.rate ≠ 0) (hbroken : p.broken = false)
include hrate hbroken

theorem doe_answers (body : Pkg → State) : doe s pkg body = some (body p) := by
  simp [doe, hp, hrate, hbroken]

/-- A request is answered by whether the condition that it needs holds. -/
theorem doe_request {c : Prop} [Decidable c] {good : Bool} {f : Pkg → Pkg} {body : Pkg → State} (hgood : good = true ↔ c)
    (hbody : body p = if c then answer (s.mapPkg p.num f) p.num .ok else answer s p.num .error) :
    doe s pkg body = some (requestAnswer s p good f) := by
  simp only [doe_answers hp hrate hbroken, hbody, requestAnswer, hgood]

theorem negotiated_done (hstage : p.spdm = .algorithms) (o : HostOut) : negotiated s pkg o = some (answer s pkg o) :=
  (doe_answers hp hrate hbroken _).trans (congrArg some (if_pos hstage))

theorem negotiated_early (hstage : p.spdm ≠ .algorithms) (o : HostOut) : negotiated s pkg o = some (answer s pkg .error) :=
  (doe_answers hp hrate hbroken _).trans (congrArg some (if_neg hstage))

theorem ideKm_answers (hnum : p.num = pkg) {stream : Nat} (hstream : stream < 5) (secure : Bool) :
    ideKm s pkg stream secure = some (requestAnswer s p (p.sess && p.flit) (fun p =>
      { p with ideConf := p.ideConf ||| BitVec.ofNat 5 (2 ^ stream)
               idesec := if secure then p.idesec ||| BitVec.ofNat 5 (2 ^ stream) else p.idesec &&& ~~~(BitVec.ofNat 5 (2 ^ stream)) })) := by
  subst hnum
  exact (if_neg (Nat.not_le.mpr hstream)).trans (doe_request hp hrate hbroken Iff.rfl rfl)

end Requests

/-! ## TDISP_ERROR (R408) -/

theorem tdispError_falls {cause : TdispCause} (hpast : p.tdisp = .locked ∨ p.tdisp = .run) (hcause : cause = .configChange ∨ cause = .ideFailure) :
    tdispError s pkg cause = some ((fallCpygs s pkg).mapPkg pkg Pkg.fallTdisp) := by
  have hfalls : (p.tdisp == .locked || p.tdisp == .run) = true := by simpa using hpast
  rcases hcause with rfl | rfl <;> simp only [tdispError, hp, if_pos hfalls]

theorem tdispError_sessionEnd (hsess : p.sess = true) : tdispError s pkg .sessionEnd = some (dropSess s p) := by
  simp only [tdispError, hp, if_pos hsess]

theorem tdispError_linkDown (hrate : p.rate ≠ 0) : tdispError s pkg .linkDown =
    some ((fallCpygs s pkg).mapPkg pkg (fun p => { p.fallTdisp with rate := 0, width := 0, flit := false, idesec := 0 })) := by
  simp only [tdispError, hp, if_neg hrate]

end Security

/-- Settles O42: every request is answered by the condition it needs, and a TDISP_ERROR falls by its cause. -/
theorem securityMessagesComplete : Obligations.SecurityMessagesComplete := by
  rintro s _ stream p secure nonce rfl hp hnum hrate hbroken
  have hanswers := doe_answers hp hrate hbroken
  have hdone (hstage : p.spdm = .algorithms) := negotiated_done hp hrate hbroken hstage
  have hearly (hstage : p.spdm ≠ .algorithms) := negotiated_early hp hrate hbroken hstage
  refine ⟨?version, ?capabilities, ?algorithms, fun hstage => ?negotiated, fun hstage => ?early, fun hstage => ?exchange, fun hstage => ?noExchange,
    ?finish, ?endSession, ?lock, ?start, ?stop, fun hstream => ?ideKm, fun hpast => ?falls, fun hsess => ?sessionEnd, ?linkDown⟩
  case version => exact ifEnabled_some (hanswers _)
  case capabilities => exact ifEnabled_some (doe_request hp hrate hbroken beq_iff_eq rfl)
  case algorithms => exact ifEnabled_some (doe_request hp hrate hbroken beq_iff_eq rfl)
  case negotiated => exact ⟨ifEnabled_some (hdone hstage _), ifEnabled_some (hdone hstage _), ifEnabled_some (hdone hstage _), ifEnabled_some (hdone hstage _)⟩
  case early =>
    exact ⟨ifEnabled_some (hearly hstage _), ifEnabled_some (hearly hstage _), ifEnabled_some (hearly hstage _), ifEnabled_some (hearly hstage _)⟩
  case exchange =>
    rw [← hnum]
    exact ifEnabled_some ((hanswers _).trans (congrArg some (if_pos hstage)))
  case noExchange =>
    rw [← hnum]
    exact ifEnabled_some ((hanswers _).trans (congrArg some (if_neg hstage)))
  case finish => exact ifEnabled_some (doe_request hp hrate hbroken Iff.rfl rfl)
  case endSession =>
    rw [← hnum]
    exact ifEnabled_some (hanswers _)
  case lock =>
    have hlocks : (p.tdisp == .unlocked && p.sess && p.flit && p.streamsSecure) = true ↔
        p.tdisp = .unlocked ∧ p.sess = true ∧ p.flit = true ∧ p.streamsSecure = true := by simp [and_assoc]
    exact ifEnabled_some (doe_request hp hrate hbroken hlocks rfl)
  case start => exact ifEnabled_some (doe_request hp hrate hbroken beq_iff_eq rfl)
  case stop => exact ifEnabled_some (hanswers _)
  case ideKm => exact ifEnabled_some (ideKm_answers hp hrate hbroken hnum hstream secure)
  case falls => exact ⟨ifEnabled_some (tdispError_falls hp hpast (.inl rfl)), ifEnabled_some (tdispError_falls hp hpast (.inr rfl))⟩
  case sessionEnd => exact ifEnabled_some (tdispError_sessionEnd hp hsess)
  case linkDown => exact ifEnabled_some (tdispError_linkDown hp hrate)

section Ports

variable {s : State} {pkg port : Nat} {p : Pkg} {q : Port} (hp : s.pkg? pkg = some p) (hport : port < 64) (hq : p.ports.getD port { } = q)
include hp hport hq

/-! ## TRAIN and DISABLE (R420) -/

section ClkCommands

variable (hon : mgmtOn p = true) (hready : p.ready = true)
include hon hready

theorem clkCommand_taken (body : Port → State) : clkCommand s pkg port body = some (body q) := by
  have hthere : ¬(mgmtOn p = false ∨ 64 ≤ port) := by simp [hon, hport]
  simp only [clkCommand, hp, if_neg hthere, hready, hq, Bool.true_eq_false, if_false]

theorem train_begins (hstate : q.state = .down ∨ q.state = .degraded ∨ q.state = .failed) :
    train s pkg port = some (setPort s pkg port (fun q => { q with state := .training, lanes := 0, reason := 0, fails := [] })) := by
  refine (clkCommand_taken hp hport hq hon hready _).trans (congrArg some ?_)
  rcases hstate with h | h | h <;> simp only [h]

theorem train_ignored (hstate : q.state = .training ∨ q.state = .up) : train s pkg port = some s := by
  refine (clkCommand_taken hp hport hq hon hready _).trans (congrArg some ?_)
  rcases hstate with h | h <;> simp only [h]

end ClkCommands

/-! ## PORT_TRAINED and PORT_TRAIN_TIMEOUT (R418, R419) -/

section Training

variable (htraining : q.state = .training)
include htraining

theorem trainingPort_some : trainingPort s pkg port = some (p, q) := by
  simp only [trainingPort, hp, hq]
  exact if_pos ⟨hport, htraining⟩

/-- The end of an attempt that links lanes of a partner makes of the port what R419 says. -/
theorem portTrained_linked {n peer pp domain : Nat} (slow : Bool) (htries : q.failedOut = false) (hmin : 1 ≤ n) (hmax : n ≤ 2) (hpeer : peer < 128)
    (hpp : pp < 64) (hown : ownDomain s p peer domain = true) :
    portTrained s pkg port (.linked n slow peer pp domain) = some (setPort s pkg port (trainedPort p n slow peer pp domain)) := by
  have hlinks : ¬(n = 0 ∨ 2 < n ∨ 128 ≤ peer ∨ 64 ≤ pp ∨ ownDomain s p peer domain = false) := by
    simp only [hown, Bool.true_eq_false, or_false]
    omega
  simp only [portTrained, trainingPort_some hp hport hq htraining, htries, Bool.false_eq_true, if_false, if_neg hlinks]

theorem portTrained_failed (htries : q.failedOut = false) : portTrained s pkg port .attemptFailed =
    some (setPort s pkg port (fun q => { q with fails := (s.tick :: q.fails).take 3 })) := by
  simp only [portTrained, trainingPort_some hp hport hq htraining, htries, Bool.false_eq_true, if_false]

theorem portTimeout_fails {a b c : Nat} (hfails : q.fails = [a, b, c]) (hsoon : a ≤ c + 100000000) :
    portTimeout s pkg port = some (setPort s pkg port (fun q => { q with state := .failed, lanes := 0, reason := 1 })) := by
  have htries : q.failedOut = true := by
    simp only [Port.failedOut, hfails]
    exact decide_eq_true hsoon
  simp only [portTimeout, trainingPort_some hp hport hq htraining, if_pos htries]

end Training

/-! ## LANE_LOST and FLIT_REPLAY (R418, R421) -/

section Carrying

variable (husable : q.usable = true)
include husable

theorem laneLost_some {lanes : Nat} (hsome : 0 < lanes) : laneLost s pkg port lanes =
    if lanes < q.lanes then some (setPort s pkg port (fun q => { q with state := .degraded, lanes := q.lanes - lanes }))
    else some (setPort s pkg port (fun q => { q with state := .failed, lanes := 0, reason := 4 })) := by
  subst hq
  have hcarries : ¬(64 ≤ port ∨ (p.ports.getD port { }).usable = false ∨ lanes = 0) := by
    simp only [husable, Bool.true_eq_false, false_or]
    omega
  simp only [laneLost, hp, if_neg hcarries]

theorem flitReplay_counts (corrected : Bool) : flitReplay s pkg port corrected = some (s.mapPkg pkg (fun p => { p with ports := modAt p.ports port (fun q =>
    if corrected then { q with corr := min 65535 (q.corr + 1) } else { q with replay := min 65535 (q.replay + 1) }) })) := by
  subst hq
  have hcarries : ¬(64 ≤ port ∨ (p.ports.getD port { }).usable = false) := by
    simpa only [husable, Bool.true_eq_false, or_false, Nat.not_le] using hport
  simp only [flitReplay, hp, if_neg hcarries]

end Carrying

end Ports

/-! ## What the identity exchange makes of a port (R419) -/

section TrainedPort

variable {p : Pkg} {n peer pp domain : Nat} {slow : Bool}

theorem trainedPort_up (hdomain : domain = p.clkDomain) (hpeer : peer ≠ p.num) : trainedPort p n slow peer pp domain = fun q =>
    { q with state := if n = 2 ∧ slow = false then .up else .degraded, lanes := n, peerPkg := peer, peerPort := pp, reason := 0 } :=
  funext fun _ => (if_neg (not_not_intro hdomain)).trans (if_neg hpeer)

theorem trainedPort_otherDomain (hdomain : domain ≠ p.clkDomain) :
    trainedPort p n slow peer pp domain = fun q => { q with state := .failed, lanes := 0, reason := 2 } :=
  funext fun _ => if_pos hdomain

theorem trainedPort_self (hdomain : domain = p.clkDomain) (hpeer : peer = p.num) :
    trainedPort p n slow peer pp domain = fun q => { q with state := .failed, lanes := 0, reason := 3 } :=
  funext fun _ => (if_neg (not_not_intro hdomain)).trans (if_pos hpeer)

end TrainedPort

/-- Settles O45: a command, the end of an attempt, and an event of a port that carries traffic, each by what it makes of the port. -/
theorem portEventsComplete : Obligations.PortEventsComplete := by
  intro s pkg port lanes peer pp p q hp hport hq
  refine ⟨fun hon hready => ⟨?begins, ?ignored, ?disable⟩, fun htraining => ⟨fun slow domain n htries hmin hmax hpeer hpp hown => ?linked, ?failed, ?timeout⟩,
    fun husable => ⟨?degrades, ?lost, ?corrected, ?replayed⟩⟩
  case begins => exact fun hstate => ifEnabled_some (train_begins hp hport hq hon hready hstate)
  case ignored => exact fun hstate => ifEnabled_some (train_ignored hp hport hq hon hready hstate)
  case disable => exact ifEnabled_some (clkCommand_taken hp hport hq hon hready _)
  case linked =>
    have hlinked := ifEnabled_some (portTrained_linked hp hport hq htraining slow htries hmin hmax hpeer hpp hown)
    exact ⟨fun hdomain hother => by rw [← trainedPort_up hdomain hother]; exact hlinked,
      fun hdomain => by rw [← trainedPort_otherDomain hdomain]; exact hlinked,
      fun hdomain hself => by rw [← trainedPort_self hdomain hself]; exact hlinked⟩
  case failed => exact fun htries => ifEnabled_some (portTrained_failed hp hport hq htraining htries)
  case timeout => exact fun a b c hfails hsoon => ifEnabled_some (portTimeout_fails hp hport hq htraining hfails hsoon)
  case degrades => exact fun hsome hleft => ifEnabled_some ((laneLost_some hp hport hq husable hsome).trans (if_pos hleft))
  case lost => exact fun hsome hnone => ifEnabled_some ((laneLost_some hp hport hq husable hsome).trans (if_neg (Nat.not_lt.mpr hnone)))
  case corrected => exact ifEnabled_some (flitReplay_counts hp hport hq husable true)
  case replayed => exact ifEnabled_some (flitReplay_counts hp hport hq husable false)

end Sys2Proof.Machine

/-! SUPPORT. The compute instructions (R171 to R198): a body that writes words, a predicate's bits or a comparison's result leaves the state that `wrote`,
`wrotePred` and `wroteCmp` name, and each instruction is such a body over its operands. -/

namespace Sys2Proof.Machine

open Sys2Proof

/-! ## What the bodies of compute instructions write (R171, R172, R175, R180) -/

section ComputeBodies

variable {s : State} {x : Iss} {f : Form} {act : Mask}

theorem issueWith_bodyWords {d n : Nat} {v : Iss → Nat → Nat} (h : Runs s x f act) :
    issueWith s f (bodyWords d n v) = .next (wrote s x f act d n (v x)) := issueWith_ready h

theorem issueWith_bodyPred {d : Nat} {v : Iss → Nat → Bool} (h : Runs s x f act) :
    issueWith s f (bodyPred d v) = .next (wrotePred s x f act d (v x)) := issueWith_ready h

theorem condWord_toNat (b : Bool) : (condWord b).toNat = if b then 0xFFFFFFFF else 0 := by cases b <;> rfl

/-- A comparison writes words of ones and zeros, or a predicate's bits, as its word says (R180). -/
theorem issueWith_bodyCmp {word : Bool} {d : Nat} {v : Iss → Nat → Bool} (h : Runs s x f act) :
    issueWith s f (bodyCmp word d v) = .next (wroteCmp s x f act word d (v x)) := by
  cases word with
  | false => exact issueWith_bodyPred h
  | true =>
    refine (issueWith_bodyWords (v := fun x i => (condWord (v x i)).toNat) h).trans ?_
    simp only [condWord_toNat]
    rfl

end ComputeBodies

/-- Settles O1: each instruction writes its exact result, wrapped or clamped once, in its acting lanes. -/
theorem integerArithmeticResults : Obligations.IntegerArithmeticResults := by
  intro s x act w i
  refine ⟨?iadd, ?isub, ?imul, ?imulh, ?imad, ?iabs, ?ineg, ?imin, ?imax, ?iaddI, ?isubI, ?imulI, ?iminI, ?imaxI⟩
  all_goals exact issueWith_bodyWords

/-- Settles O2: each instruction writes its bit pattern in its acting lanes. -/
theorem logicalAndShiftResults : Obligations.LogicalAndShiftResults := by
  intro s x act w i
  refine ⟨?and, ?or, ?xor, ?andn, ?not, ?andI, ?orI, ?xorI, ?andnI, ?shl, ?shr, ?sar, ?rol, ?shlI, ?shrI, ?sarI, ?rolI⟩
  all_goals exact issueWith_bodyWords

/-- Settles O3: the comparisons write a condition, the others words. -/
theorem bitFieldSelectMoveResults : Obligations.BitFieldSelectMoveResults := by
  intro s x act w i k
  refine ⟨?popc, ?clz, ?ctz, ?brev, ?bfx, ?bfxI, ?bfi, ?sel, ?icmp, ?icmpI, ?lea, ?leaI, ?mov, ?movi⟩
  case icmp | icmpI => exact issueWith_bodyCmp
  all_goals exact issueWith_bodyWords

/-- Settles O4: the comparisons write a condition, the others words. -/
theorem fp32Results : Obligations.Fp32Results := by
  intro s x act w i
  refine ⟨?fadd, ?fsub, ?fmul, ?ffma, ?faddI, ?fsubI, ?fmulI, ?fmin, ?fmax, ?fminI, ?fmaxI, ?fcmp, ?fcmpI, ?fclass, ?frnd⟩
  case fcmp | fcmpI => exact issueWith_bodyCmp
  all_goals exact issueWith_bodyWords

/-- DADD's subtraction adds the negation (R183). -/
theorem add_ite_neg (sub : Bool) (mode : RMode) (a b : FVal) :
    a.add mode (if sub then b.neg else b) = if sub then fSub mode a b else a.add mode b := by
  cases sub <;> rfl

/-- Settles O5: DCMP writes a condition; a BF16 pair and FCVT write words after the draw, which may advance the split's generator; the others write words. -/
theorem fp64Bf16ConvertResults : Obligations.Fp64Bf16ConvertResults := by
  intro s x act w dst
  refine ⟨?dadd, ?dmul, ?dfma, ?dmin, ?dmax, ?dcmp, ?badd2, ?bmul2, ?bfma2, ?fcvt⟩
  case dcmp => exact issueWith_bodyCmp
  case badd2 | bmul2 | bfma2 | fcvt => exact fun hruns => issueWith_done hruns rfl
  case dadd =>
    simp only [add_ite_neg]
    exact issueWith_bodyWords
  all_goals exact issueWith_bodyWords

/-- Settles O7: the predicate instructions write bits; a vote, a reduction and a count, whose value looks at every acting lane, and the others write words. -/
theorem laneAndPredicateResults : Obligations.LaneAndPredicateResults := by
  intro s x act w i
  refine ⟨?shfl, ?shflI, ?vote, ?lred, ?lscan, ?pand, ?por, ?pnot, ?pcnt⟩
  case pand | por | pnot => exact issueWith_bodyPred
  case vote | lred | lscan | pcnt => exact fun hruns => issueWith_done hruns rfl
  all_goals exact issueWith_bodyWords

end Sys2Proof.Machine

/-! SUPPORT. The checks of an issue (R89, R97, R106, R117 to R119, R359): every instruction of the opcode map issues under its form, so what its checks answer
is said once, for a form. -/

namespace Sys2Proof.Machine

open Sys2Proof

/-- Settles O16: the mask instructions and the unassigned opcodes are ILLOP whatever their fields hold. -/
theorem illegalOpcodesTrap : Obligations.IllegalOpcodesTrap := fun _ _ _ _ hissuer hwindow =>
  ⟨issueWith_verdict_trap hissuer hwindow (verdict_illop rfl), issueWith_verdict_trap hissuer hwindow (verdict_illop rfl),
    issueWith_verdict_trap hissuer hwindow (verdict_illop rfl), issueWith_verdict_trap hissuer hwindow (verdict_illop rfl)⟩

/-! ## Every instruction issues under its form -/

section Forms

variable {s : State} {x : Iss} {i : Instr} {f : Form}

theorem tileWide_of_issuer (hissuer : issuer s = some x) (n : Nat) : tileWide s n = ((tileOf s x (tileEntry x n)).fmt == 12) := by
  simp only [tileWide, hissuer]

theorem treeVariesAt_of_issuer (hissuer : issuer s = some x) (w : FmtS) : treeVariesAt s w = treeVaries x.k.levels w := by
  simp only [treeVariesAt, hissuer]

/-- What an instruction does is an issue under the form that its word has for the issuing split; LDA and STA look at their tile for it, and TREEID at the
split's tree. -/
theorem exec_issues (hissuer : issuer s = some x) (hform : formNow s x i = some f) :
    ∃ body : Iss → Mask → State → Res, exec i s = issueWith s f body := by
  cases i
  all_goals cases hform
  case lda w => exact ⟨bodyLda w, congrArg (fun wide => issueWith s (formLda wide w) (bodyLda w)) (tileWide_of_issuer hissuer w.a.toNat)⟩
  case sta w => exact ⟨bodySta w, congrArg (fun wide => issueWith s (formSta wide w) (bodySta w)) (tileWide_of_issuer hissuer w.a.toNat)⟩
  case treeid w => exact ⟨bodyTreeid w, congrArg (fun vary => issueWith s (formTreeid vary w) (bodyTreeid w)) (treeVariesAt_of_issuer hissuer w)⟩
  all_goals exact ⟨_, rfl⟩

end Forms

/-! ## What the checks answer (R97) -/

section Checks

variable {s : State} {x : Iss} {f : Form} {body : Iss → Mask → State → Res} {n : Nat} {rs : List Nat}

theorem issueWith_block (hissuer : issuer s = some x) (hwindow : x.sp.window = none) (hv : verdict x f = .block rs) :
    issueWith s f body = .next (blockOnRegs s x rs) := by
  simp [issueWith, issueAt, hissuer, windowStalls, hwindow, hv]

theorem verdict_illopd (hgood : f.illop = false) (hregs : f.illopd x.k = some n) : verdict x f = .trap { cause := cILLOPD, info := n } := by
  simp [verdict, hgood, hregs]

section Guard

variable (hgood : f.illop = false) (hregs : f.illopd x.k = none)
include hgood hregs

theorem verdict_guard_orphan (hguard : srcEmpty x.g (guardRegs f.g) false = .orphan n) :
    verdict x f = if f.hint then .noLane else .trap { cause := cORPHAN, info := n } := by
  simp [verdict, hgood, hregs, hguard]

theorem verdict_guard_blocked (hguard : srcEmpty x.g (guardRegs f.g) false = .blocked) : verdict x f = .block (guardRegs f.g) := by
  simp [verdict, hgood, hregs, hguard]

/-- An instruction that some lane acts in, or that writes a mask scalar, goes on to its sources and destinations. -/
theorem verdict_acts (hguard : srcEmpty x.g (guardRegs f.g) false = .ready) (hacts : actMask x f ≠ 0 ∨ maskWrite x f = true) :
    verdict x f = emptyCheck x f (actMask x f) := by
  have hlane : ¬(actMask x f = 0 ∧ maskWrite x f = false) := fun ⟨hnone, hmask⟩ =>
    hacts.elim (fun h => h hnone) (fun h => Bool.false_ne_true (hmask.symm.trans h))
  simp only [verdict, hgood, hregs, hguard, if_neg hlane]
  rfl

end Guard

variable {act : Mask}

theorem emptyCheck_emptyRd (hsrcs : srcsEmpty x.g (f.srcs x.k) = .emptyRd n) : emptyCheck x f act = .trap { cause := cEMPTYRD, info := n } := by
  simp only [emptyCheck, hsrcs]

theorem emptyCheck_orphan (hsrcs : srcsEmpty x.g (f.srcs x.k) = .orphan n) : emptyCheck x f act = .trap { cause := cORPHAN, info := n } := by
  simp only [emptyCheck, hsrcs]

theorem emptyCheck_blocked (hsrcs : srcsEmpty x.g (f.srcs x.k) = .blocked) :
    emptyCheck x f act = .block (((f.srcs x.k).filter (fun r => !r.2)).flatMap (·.1)) := by
  simp only [emptyCheck, hsrcs]

theorem emptyCheck_pendWr (hsrcs : srcsEmpty x.g (f.srcs x.k) = .ready) (hdst : firstIn x.g (f.dsts x.k) .pending = some n) :
    emptyCheck x f act = .trap { cause := cPENDWR, info := n } := by
  simp only [emptyCheck, hsrcs, hdst]

end Checks

/-- Settles O17: the instruction is an issue under its form, and each clause is one answer of the form's checks. -/
theorem issueCheckOrder : Obligations.IssueCheckOrder := by
  intro s x i f hissuer hwindow hform
  obtain ⟨body, hexec⟩ := exec_issues hissuer hform
  rw [hexec]
  refine ⟨fun hbad => ?illop, fun n hgood hregs => ?illopd, fun hgood hregs =>
    ⟨fun n hguard => ⟨fun hhint => ?guardOrphan, fun hhint => ?hintOrphan⟩, fun hguard => ?guardBlocked, fun hguard hnone hmask => ?noLane,
      fun hguard hacts => ?acts⟩⟩
  case illop => exact issueWith_verdict_trap hissuer hwindow (verdict_illop hbad)
  case illopd => exact issueWith_verdict_trap hissuer hwindow (verdict_illopd hgood hregs)
  case guardOrphan => exact issueWith_verdict_trap hissuer hwindow ((verdict_guard_orphan hgood hregs hguard).trans (if_neg (by simp [hhint])))
  case hintOrphan => exact issueWith_noLane hissuer hwindow ((verdict_guard_orphan hgood hregs hguard).trans (if_pos hhint))
  case guardBlocked => exact issueWith_block hissuer hwindow (verdict_guard_blocked hgood hregs hguard)
  case noLane => exact issueWith_noLane hissuer hwindow (verdict_noLane hgood hregs hguard hnone hmask)
  case acts =>
    have hverdict := verdict_acts hgood hregs hguard hacts
    exact ⟨fun n hsrcs => issueWith_verdict_trap hissuer hwindow (hverdict.trans (emptyCheck_emptyRd hsrcs)),
      fun n hsrcs => issueWith_verdict_trap hissuer hwindow (hverdict.trans (emptyCheck_orphan hsrcs)),
      fun hsrcs => issueWith_block hissuer hwindow (hverdict.trans (emptyCheck_blocked hsrcs)),
      fun n hsrcs hdst => issueWith_verdict_trap hissuer hwindow (hverdict.trans (emptyCheck_pendWr hsrcs hdst))⟩

end Sys2Proof.Machine

/-! SUPPORT. What a compute instruction changes beside what its statement names: core records (R417), with a state that shows it. -/

namespace Sys2Proof.Machine

open Sys2Proof

/-- IADD of S8 and ZERO to S10. -/
def iaddS10 : FmtA := { d := 650, a := 648, b := 704, c := 0, ep := 0, g := 0, mod := 0 }

theorem adder_runs : Runs quarantined readerIss (formIadd iaddS10) (BitVec.allOnes 96) := ⟨rfl, rfl⟩

theorem adder_lifts : (liftQuarantine quarantined readerIss.g ((formIadd iaddS10).reads readerIss.k)).coreRecs ≠ quarantined.coreRecs := by
  decide

/-- Refutes O58: the addition's read of S8 lifts the group's entry in the core record, which the statement says is as before. -/
theorem not_computeFrame : ¬ Obligations.ComputeFrame := by
  intro h
  obtain ⟨hframe, -⟩ := h quarantined _ readerIss (BitVec.allOnes 96) (.iadd iaddS10) (formIadd iaddS10) [] (fun _ => false) rfl rfl adder_runs
    (issueWith_done adder_runs rfl)
  have hrecs := congrArg State.coreRecs hframe
  rw [finish_coreRecs] at hrecs
  exact adder_lifts hrecs

end Sys2Proof.Machine

/-! SUPPORT. A step by the move at the head of the agenda (R78, R120, R168, R317, R423; log entries 3 and 116): what each kind of move comes to, after its time has
passed. -/

namespace Sys2Proof.Machine

open Sys2Proof

section Moves

variable {s t : State} {m : Move} {rest : List Move}

/-- With a move on the agenda a step is that move. -/
theorem step_cons (hagenda : s.agenda = m :: rest) : step s = runMove { s with agenda := rest } m := by
  unfold step
  rw [hagenda]

/-- With none, a free move that is refused only lets its time pass. -/
theorem step_nil_ne_refused (hagenda : s.agenda = []) (r : Refusal) : step s ≠ .refused r := by
  unfold step
  rw [hagenda]
  cases hmove : runMove s.bumpChoice (freeMove s.choiceCtr) <;> simp [hmove]

section Issue

variable {gid sp : Nat} {w : DWord}

theorem runMove_noWord (hact : m.act = .issue gid sp) (ht : t = settleCmds (m.pass s)) (hword : issueWord t gid sp = none) :
    runMove s m = .next (settledState t) := by
  subst ht
  simp only [runMove, hact, hword]
  rfl

variable (hact : m.act = .issue gid sp) (ht : t = settleCmds (m.pass s)) (hword : issueWord t gid sp = some w)
include hact ht hword

theorem runMove_unusable (husable : groupUnusable t gid = true) : runMove s m = .fault .moduleUnusable := by
  subst ht
  simp only [runMove, hact, hword, if_pos husable]

variable (husable : groupUnusable t gid = false)
include husable

theorem runMove_waitto (hover : overWaited t gid sp = true) : runMove s m = settled (ifEnabled (waitto t gid sp)) := by
  subst ht
  simp [runMove, hact, hword, husable, hover]

variable (hwaits : overWaited t gid sp = false)
include hwaits

theorem runMove_noIssuer (hissuer : issuer { t with cur := some (gid, sp) } = none) : runMove s m = .next (settledState t) := by
  subst ht
  simp only [runMove, hact, hword, husable, hwaits, hissuer]
  rfl

theorem runMove_issues (hissuer : (issuer { t with cur := some (gid, sp) }).isSome = true) :
    runMove s m = settled (exec (decode w) { t with cur := some (gid, sp) }) := by
  subst ht
  simp [runMove, hact, hword, husable, hwaits, Option.isSome_iff_ne_none.mp hissuer]

end Issue

theorem runMove_event {i : Instr} (hact : m.act = .event i) :
    runMove s m = settled (exec i { settleCmds (m.pass s) with cur := none, focus := (m.pkg, m.ctx) }) := by
  simp only [runMove, hact]

theorem runMove_hostFill {a : Nat} {bs : List Byte} (hact : m.act = .hostFill a bs) :
    runMove s m = .next (fillHost (settleCmds (m.pass s)) a bs) := by
  simp only [runMove, hact]

theorem runMove_idle (hact : m.act = .idle) : runMove s m = .next (settleCmds (m.pass s)) := by
  simp only [runMove, hact]

end Moves

/-- Settles O54: a step is the move at the head of the agenda, and each clause is one kind of move. -/
theorem stepRunsDecoded : Obligations.StepRunsDecoded := by
  intro s m rest hagenda t
  rw [step_cons hagenda]
  refine ⟨fun gid sp w hact hword => ⟨fun husable hwaits => ⟨?issues, ?noIssuer⟩, fun u husable hover hwait => ?waitto, ?unusable⟩,
    fun gid sp hact hword => ?noWord, fun i hact => ?event, fun a bs hact => ?hostFill, fun hact => ?idle, ?noMove⟩
  case issues => exact runMove_issues hact rfl hword husable hwaits
  case noIssuer => exact runMove_noIssuer hact rfl hword husable hwaits
  case waitto => exact (runMove_waitto hact rfl hword husable hover).trans (by rw [hwait]; rfl)
  case unusable => exact runMove_unusable hact rfl hword
  case noWord => exact runMove_noWord hact rfl hword
  case event => exact runMove_event hact
  case hostFill => exact ⟨runMove_hostFill hact, rfl⟩
  case idle => exact runMove_idle hact
  case noMove => exact step_nil_ne_refused rfl

end Sys2Proof.Machine

/-! SUPPORT. Decoding and encoding (R86, R87, R98 to R106): what the decoder reads from a word encodes to that word again, opcode class by opcode class, and what
an instruction encodes to is read back. -/

namespace Sys2Proof

/-! ## Words put together from the fields read (R87) -/

section PutGet

variable {w : DWord} {op : BitVec 9} (h : opcodeOf w = op.toNat)
include h

@[simp] theorem putA_getA_of_opcode : putA op (getA w) = w := putA_of_opcode op h rfl
@[simp] theorem putI_getI_of_opcode : putI op (getI w) = w := putI_of_opcode op h rfl
@[simp] theorem putK_getK_of_opcode : putK op (getK w) = w := putK_of_opcode op h rfl
@[simp] theorem putM_getM_of_opcode : putM op (getM w) = w := putM_of_opcode op h rfl
@[simp] theorem putC_getC_of_opcode : putC op (getC w) = w := putC_of_opcode op h rfl
@[simp] theorem putS_getS_of_opcode : putS op (getS w) = w := putS_of_opcode op h rfl

end PutGet

/-! ## What the decoder reads from a word -/

/-- i is the reading of w: a well-formed instruction that w encodes, and UNASSIGNED_OPCODE where R99 leaves the opcode unassigned. -/
structure Reads (w : DWord) (i : Instr) : Prop where
  wf : WellFormed i
  encodes : encode i = some w
  unassigned : assigned (opcodeOf w) = false → i = .unassignedOpcode w

section Reads

variable {w : DWord}

theorem opcodeOf_eq (w : DWord) : opcodeOf w = w.toNat / 2 ^ 55 := by
  have hw : w.toNat < 2 ^ 64 := w.isLt
  rw [opcodeOf, BitVec.extractLsb'_toNat, Nat.shiftRight_eq_div_pow]
  omega

theorem reads_of_unassigned (h : assigned (opcodeOf w) = false) : Reads w (.unassignedOpcode w) :=
  ⟨by rw [opcodeOf_eq] at h; exact congrArg (!·) h, rfl, fun _ => rfl⟩

theorem assignedRanges_inOneClass : ∀ r ∈ assignedRanges, r.1 / 64 = r.2 / 64 := by decide

/-- An opcode outside the ranges of its own class is unassigned. -/
theorem reads_of_outside {c : Nat} (hclass : opcodeOf w / 64 = c)
    (h : ∀ r ∈ assignedRanges, r.1 / 64 = c → opcodeOf w < r.1 ∨ r.2 < opcodeOf w) : Reads w (.unassignedOpcode w) := by
  refine reads_of_unassigned (List.any_eq_false.mpr fun r hr => ?_)
  have hone := assignedRanges_inOneClass r hr
  have hout := h r hr
  simp
  omega

/-- An instruction whose opcode R100 to R106 assign is the reading of the word that it encodes to. -/
theorem reads_of_assigned {i : Instr} {n : Nat} (hop : opcodeOf w = n) (hassigned : assigned n = true) (hwf : WellFormed i) (henc : encode i = some w) :
    Reads w i :=
  ⟨hwf, henc, fun h => by rw [hop, hassigned] at h; cases h⟩

/-- The same, the word put together from fields read from it. -/
theorem reads_of_put {i : Instr} {u : DWord} {n : Nat} (hop : opcodeOf w = n) (hassigned : assigned n = true) (hwf : WellFormed i)
    (henc : encode i = some u) (hput : u = w) : Reads w i :=
  reads_of_assigned hop hassigned hwf (henc.trans (congrArg some hput))

/-- An opcode that carries a sub-opcode k above the first of its family (R101, R103). -/
theorem toNat_add_subop {width b : Nat} {base : BitVec 9} (k : BitVec width) (hb : base.toNat = b) (h : b + k.toNat < 2 ^ 9) :
    (base + k.zeroExtend 9).toNat = b + k.toNat := by
  subst hb
  simp only [BitVec.toNat_add, BitVec.toNat_setWidth]
  omega

/-- A sub-opcode read from an opcode at or above the first of its family gives that opcode back. -/
theorem toNat_base_add_subop {width n : Nat} (base : BitVec 9) (hlow : base.toNat ≤ n) (hhigh : n - base.toNat < 2 ^ width) (hn : n < 2 ^ 9) :
    (base + (BitVec.ofNat width (n - base.toNat)).zeroExtend 9).toNat = n := by
  have hk : (BitVec.ofNat width (n - base.toNat)).toNat = n - base.toNat := Nat.mod_eq_of_lt hhigh
  rw [toNat_add_subop _ rfl (by omega), hk]
  omega

/-- Two instructions of format A that share an opcode, told apart by MOD[0]. -/
theorem reads_ite {on off : FmtA → Instr} {op : BitVec 9} {n : Nat} (hop : opcodeOf w = n) (hassigned : assigned n = true)
    (hoff : (getA w).mod.getLsbD 0 = false → WellFormed (off (getA w))) (hon : (getA w).mod.getLsbD 0 = true → WellFormed (on (getA w)))
    (hn : op.toNat = n) (henc : encode (on (getA w)) = some (putA op (getA w)) ∧ encode (off (getA w)) = some (putA op (getA w))) :
    Reads w (if (getA w).mod.getLsbD 0 then on (getA w) else off (getA w)) := by
  rw [putA_of_opcode op hop hn] at henc
  split
  next h => exact reads_of_assigned hop hassigned (hon h) henc.1
  next h => exact reads_of_assigned hop hassigned (hoff (Bool.eq_false_of_not_eq_true h)) henc.2

theorem opcodeOf_lt (w : DWord) : opcodeOf w < 2 ^ 9 := BitVec.isLt _

/-- An opcode of one of the assigned ranges is assigned. -/
theorem assigned_of_range {n : Nat} (r : Nat × Nat) (hr : r ∈ assignedRanges) (hlow : r.1 ≤ n) (hhigh : n ≤ r.2) : assigned n = true :=
  List.any_eq_true.mpr ⟨r, hr, by simp [hlow, hhigh]⟩

/-- A memory instruction whose opcode carries its type or its operation, k above the first opcode of its family (R103). -/
theorem reads_subop {mk : BitVec 4 → FmtM → Instr} {b : Nat} (base : BitVec 9) (hb : base.toNat = b) (hlow : b ≤ opcodeOf w)
    (hhigh : opcodeOf w - b < 2 ^ 4) (hassigned : assigned (opcodeOf w) = true)
    (hwf : WellFormed (mk (BitVec.ofNat 4 (opcodeOf w - b)) (getM w)))
    (henc : ∀ k : BitVec 4, encode (mk k (getM w)) = some (putM (base + k.zeroExtend 9) (getM w))) :
    Reads w (mk (BitVec.ofNat 4 (opcodeOf w - b)) (getM w)) := by
  subst hb
  have hop := toNat_base_add_subop base hlow hhigh (opcodeOf_lt w)
  exact reads_of_assigned rfl hassigned hwf ((henc _).trans (congrArg some (putM_getM_of_opcode hop.symm)))

section SubOpcodes

variable {n : Nat} (f : FmtM)

theorem wellFormed_ld (h : n < 10) : WellFormed (.ld (BitVec.ofNat 4 n) f) := decide_eq_true ((Nat.mod_le ..).trans_lt h)
theorem wellFormed_st (h : n < 10) : WellFormed (.st (BitVec.ofNat 4 n) f) := decide_eq_true ((Nat.mod_le ..).trans_lt h)
theorem wellFormed_red (h : n < 12) : WellFormed (.red (BitVec.ofNat 4 n) f) := decide_eq_true ((Nat.mod_le ..).trans_lt h)
theorem wellFormed_fcvt (f : FmtA) (h : n < 7) : WellFormed (.fcvt (BitVec.ofNat 3 n) f) := decide_eq_true ((Nat.mod_le ..).trans_lt h)

end SubOpcodes

/-! ## Class by class (R100 to R106) -/

theorem decode0_reads (hclass : opcodeOf w / 64 = 0) : Reads w (decode0 (opcodeOf w) w) := by
  unfold decode0
  split
  case h_46 =>
    refine reads_of_outside hclass ?_
    simp [assignedRanges]
    simp only [imp_false] at *
    omega
  all_goals
    next hop =>
      refine reads_of_put hop rfl rfl rfl ?_
      simp [hop]

theorem decode1_reads (hclass : opcodeOf w / 64 = 1) : Reads w (decode1 (opcodeOf w) w) := by
  unfold decode1
  split
  next hfcvt =>
    have hop := toNat_base_add_subop (width := 3) 0x68 hfcvt.1 (show opcodeOf w - 0x68 < 8 by omega) (opcodeOf_lt w)
    exact reads_of_assigned rfl (assigned_of_range (0x68, 0x6E) (by decide) hfcvt.1 hfcvt.2) (wellFormed_fcvt _ (by omega))
      (congrArg some (putA_getA_of_opcode hop.symm))
  next =>
    split
    case h_25 =>
      refine reads_of_outside hclass ?_
      simp [assignedRanges]
      simp only [imp_false] at *
      omega
    all_goals
      next hop =>
        refine reads_of_put hop rfl rfl rfl ?_
        simp [hop]

theorem decode2_reads (hclass : opcodeOf w / 64 = 2) : Reads w (decode2 (opcodeOf w) w) := by
  unfold decode2
  split
  case h_21 =>
    refine reads_of_outside hclass ?_
    simp [assignedRanges]
    simp only [imp_false] at *
    omega
  all_goals
    next hop =>
      refine reads_of_put hop rfl rfl rfl ?_
      simp [hop]

theorem decode3_reads (hclass : opcodeOf w / 64 = 3) : Reads w (decode3 (opcodeOf w) w) := by
  unfold decode3
  split_ifs with hld hst hatom hred
  · have hassigned := assigned_of_range (0x0C0, 0x0DB) (by decide) hld.1 (hld.2.trans (by decide))
    exact reads_subop (mk := .ld) 0xC0 rfl hld.1 (by omega) hassigned (wellFormed_ld _ (by omega)) (fun _ => rfl)
  · have hassigned := assigned_of_range (0x0C0, 0x0DB) (by decide) (le_trans (by decide) hst.1) (hst.2.trans (by decide))
    exact reads_subop (mk := .st) 0xD0 rfl hst.1 (by omega) hassigned (wellFormed_st _ (by omega)) (fun _ => rfl)
  · have hassigned := assigned_of_range (0x0E0, 0x0FB) (by decide) hatom.1 (hatom.2.trans (by decide))
    exact reads_subop (mk := .atom) 0xE0 rfl hatom.1 (by omega) hassigned rfl (fun _ => rfl)
  · have hassigned := assigned_of_range (0x0E0, 0x0FB) (by decide) (le_trans (by decide) hred.1) hred.2
    exact reads_subop (mk := .red) 0xF0 rfl hred.1 (by omega) hassigned (wellFormed_red _ (by omega)) (fun _ => rfl)
  split
  case h_9 =>
    refine reads_of_outside hclass ?_
    simp [assignedRanges]
    simp only [imp_false] at *
    omega
  all_goals
    next hop =>
      refine reads_of_put hop rfl rfl rfl ?_
      simp [hop]

theorem decode4_reads (hclass : opcodeOf w / 64 = 4) : Reads w (decode4 (opcodeOf w) w) := by
  unfold decode4
  split
  case h_17 =>
    refine reads_of_outside hclass ?_
    simp [assignedRanges]
    simp only [imp_false] at *
    omega
  case h_12 hop => exact reads_ite hop rfl (congrArg (!·)) id rfl ⟨rfl, rfl⟩
  case h_16 hop => exact reads_ite hop rfl (congrArg (!·)) id rfl ⟨rfl, rfl⟩
  all_goals
    next hop =>
      refine reads_of_put hop rfl rfl rfl ?_
      simp [hop]

theorem decode5_reads (hclass : opcodeOf w / 64 = 5) : Reads w (decode5 (opcodeOf w) w) := by
  unfold decode5
  split
  case h_17 =>
    refine reads_of_outside hclass ?_
    simp [assignedRanges]
    simp only [imp_false] at *
    omega
  all_goals
    next hop =>
      refine reads_of_put hop rfl rfl rfl ?_
      simp [hop]

theorem decode6_reads (hclass : opcodeOf w / 64 = 6) : Reads w (decode6 (opcodeOf w) w) := by
  unfold decode6
  split
  case h_17 =>
    refine reads_of_outside hclass ?_
    simp [assignedRanges]
    simp only [imp_false] at *
    omega
  all_goals
    next hop =>
      refine reads_of_put hop rfl rfl rfl ?_
      simp [hop]

theorem decode7_reads (hclass : opcodeOf w / 64 = 7) : Reads w (decode7 (opcodeOf w) w) := by
  unfold decode7
  split
  case h_15 =>
    refine reads_of_outside hclass ?_
    simp [assignedRanges]
    simp only [imp_false] at *
    omega
  case h_8 hop => exact reads_ite hop rfl (congrArg (!·)) id rfl ⟨rfl, rfl⟩
  all_goals
    next hop =>
      refine reads_of_put hop rfl rfl rfl ?_
      simp [hop]

/-- The decoder reads every word. -/
theorem decode_reads (w : DWord) : Reads w (decode w) := by
  dsimp only [decode]
  split
  case h_1 hclass => exact decode0_reads hclass
  case h_2 hclass => exact decode1_reads hclass
  case h_3 hclass => exact decode2_reads hclass
  case h_4 hclass => exact decode3_reads hclass
  case h_5 hclass => exact decode4_reads hclass
  case h_6 hclass => exact decode5_reads hclass
  case h_7 hclass => exact decode6_reads hclass
  case h_8 =>
    have hlt := opcodeOf_lt w
    refine decode7_reads ?_
    simp only [imp_false] at *
    omega

end Reads

/-- Settles O52: a word's reading is well formed and encodes to the word. -/
theorem encodeOfDecode : Obligations.EncodeOfDecode := fun w => ⟨(decode_reads w).wf, (decode_reads w).encodes⟩

/-! ## What an instruction encodes to is read back -/

/-- The opcode map, the opcode given beside the word. -/
def decodeAs (op : Nat) (w : DWord) : Instr :=
  match op / 64 with
  | 0 => decode0 op w
  | 1 => decode1 op w
  | 2 => decode2 op w
  | 3 => decode3 op w
  | 4 => decode4 op w
  | 5 => decode5 op w
  | 6 => decode6 op w
  | _ => decode7 op w

theorem decode_eq_decodeAs (w : DWord) : decode w = decodeAs (opcodeOf w) w := rfl

section Formats

variable {op : BitVec 9}

theorem decode_putA {mk : FmtA → Instr} (f : FmtA) (h : ∀ w, decodeAs op.toNat w = mk (getA w)) : decode (putA op f) = mk f := by
  rw [decode_eq_decodeAs, opcodeOf_putA, h, getA_putA]

theorem decode_putI {mk : FmtI → Instr} (f : FmtI) (h : ∀ w, decodeAs op.toNat w = mk (getI w)) : decode (putI op f) = mk f := by
  rw [decode_eq_decodeAs, opcodeOf_putI, h, getI_putI]

theorem decode_putK {mk : FmtK → Instr} (f : FmtK) (h : ∀ w, decodeAs op.toNat w = mk (getK w)) : decode (putK op f) = mk f := by
  rw [decode_eq_decodeAs, opcodeOf_putK, h, getK_putK]

theorem decode_putM {mk : FmtM → Instr} (f : FmtM) (h : ∀ w, decodeAs op.toNat w = mk (getM w)) : decode (putM op f) = mk f := by
  rw [decode_eq_decodeAs, opcodeOf_putM, h, getM_putM]

theorem decode_putC {mk : FmtC → Instr} (f : FmtC) (h : ∀ w, decodeAs op.toNat w = mk (getC w)) : decode (putC op f) = mk f := by
  rw [decode_eq_decodeAs, opcodeOf_putC, h, getC_putC]

theorem decode_putS {mk : FmtS → Instr} (f : FmtS) (h : ∀ w, decodeAs op.toNat w = mk (getS w)) : decode (putS op f) = mk f := by
  rw [decode_eq_decodeAs, opcodeOf_putS, h, getS_putS]

/-- Two instructions that share an opcode are told apart by MOD[0]. -/
theorem decode_putA_ite {on off : FmtA → Instr} (f : FmtA)
    (h : ∀ w, decodeAs op.toNat w = if (getA w).mod.getLsbD 0 then on (getA w) else off (getA w)) :
    decode (putA op f) = if f.mod.getLsbD 0 then on f else off f := by
  rw [decode_eq_decodeAs, opcodeOf_putA, h, getA_putA]

end Formats

theorem decode_of_class1 {w : DWord} {n : Nat} (hop : opcodeOf w = n) (hclass : n / 64 = 1) : decode w = decode1 n w := by
  simp only [decode, hop, hclass]

theorem decode_of_class3 {w : DWord} {n : Nat} (hop : opcodeOf w = n) (hclass : n / 64 = 3) : decode w = decode3 n w := by
  simp only [decode, hop, hclass]

theorem decode_fcvt {dst : BitVec 3} (f : FmtA) (h : dst.toNat < 7) : decode (putA (0x68 + dst.zeroExtend 9) f) = .fcvt dst f := by
  have hop := (opcodeOf_putA (0x68 + dst.zeroExtend 9) f).trans (toNat_add_subop (b := 0x68) dst rfl (by omega))
  rw [decode_of_class1 hop (by omega)]
  unfold decode1
  rw [if_pos (by omega)]
  simp

section SubOpcodesReadBack

variable {k : BitVec 4} {b : Nat} {base : BitVec 9} (f : FmtM)

theorem decode_putM_subop (hb : base.toNat = b) (hlow : 0xC0 ≤ b) (hhigh : b ≤ 0xF0) :
    decode (putM (base + k.zeroExtend 9) f) = decode3 (b + k.toNat) (putM (base + k.zeroExtend 9) f) :=
  decode_of_class3 ((opcodeOf_putM ..).trans (toNat_add_subop k hb (by omega))) (by omega)

theorem decode_ld (h : k.toNat < 10) : decode (putM (0xC0 + k.zeroExtend 9) f) = .ld k f := by
  rw [decode_putM_subop (b := 0xC0) f rfl (by decide) (by decide)]
  unfold decode3
  rw [if_pos (by omega)]
  simp

theorem decode_st (h : k.toNat < 10) : decode (putM (0xD0 + k.zeroExtend 9) f) = .st k f := by
  rw [decode_putM_subop (b := 0xD0) f rfl (by decide) (by decide)]
  unfold decode3
  rw [if_neg (by omega), if_pos (by omega)]
  simp

theorem decode_atom : decode (putM (0xE0 + k.zeroExtend 9) f) = .atom k f := by
  rw [decode_putM_subop (b := 0xE0) f rfl (by decide) (by decide)]
  unfold decode3
  rw [if_neg (by omega), if_neg (by omega), if_pos (by omega)]
  simp

theorem decode_red (h : k.toNat < 12) : decode (putM (0xF0 + k.zeroExtend 9) f) = .red k f := by
  rw [decode_putM_subop (b := 0xF0) f rfl (by decide) (by decide)]
  unfold decode3
  rw [if_neg (by omega), if_neg (by omega), if_neg (by omega), if_pos (by omega)]
  simp

end SubOpcodesReadBack

/-- Settles O51: the opcode put in a word is the opcode read from it, and so are the fields; a sub-opcode or MOD[0] tells instructions apart that share one. -/
theorem decodeOfEncode : Obligations.DecodeOfEncode := by
  intro i w hwf hword
  cases i
  all_goals cases hword
  case unassignedOpcode =>
    refine (decode_reads w).unassigned ?_
    rw [opcodeOf_eq]
    exact (Bool.not_eq_true' _).mp hwf
  case fcvt dst f => exact decode_fcvt f (of_decide_eq_true hwf)
  case ld ty f => exact decode_ld f (of_decide_eq_true hwf)
  case st ty f => exact decode_st f (of_decide_eq_true hwf)
  case atom op f => exact decode_atom f
  case red op f => exact decode_red f (of_decide_eq_true hwf)
  case waitt f | clkTb f | nmmodeOff f =>
    have hbit : f.mod.getLsbD 0 = false := (Bool.not_eq_true' _).mp hwf
    exact (decode_putA_ite f fun _ => rfl).trans (if_neg (Bool.not_eq_true _ |>.mpr hbit))
  case waittD f | clkCyc f | nmmodeOn f => exact (decode_putA_ite f fun _ => rfl).trans (if_pos hwf)
  case iaddI f | isubI f | imulI f | iminI f | imaxI f | andI f | orI f | xorI f | andnI f | shlI f | shrI f | sarI f | rolI f | bfxI f | icmpI f | leaI f
      | faddI f | fsubI f | fmulI f | fminI f | fmaxI f | fcmpI f | shflI f | rgn f | trap f | srd f | swr f =>
    exact decode_putI f fun _ => rfl
  case movi f => exact decode_putK f fun _ => rfl
  case ldc f | pref f | fence f | fences f | cuew f | pghint f => exact decode_putM f fun _ => rfl
  case bra f | brx f | jmpt f | call f | calli f | ret f | exit f | rte f => exact decode_putC f fun _ => rfl
  case bar f | bara f | barw f | abinit f | abarr f | abwait f | abort f | abchk f | treeid f | loophd f | idone f | iput f =>
    exact decode_putS f fun _ => rfl
  all_goals exact decode_putA _ fun _ => rfl

/-- Settles O53: each word is decoded. -/
theorem workedWordsDecode : Obligations.WorkedWordsDecode := by unfold Obligations.WorkedWordsDecode; decide

end Sys2Proof

/-! SUPPORT. Minimum and maximum (R184): the patterns of an IEEE format stand in the order of the values that they encode, −0 below +0, so the operand that
FMIN or FMAX returns is told from the patterns alone. -/

namespace Sys2Proof.Machine

open Sys2Proof

/-! ## Magnitude codes stand in the order of their magnitudes (R47) -/

section Magnitudes

variable (f : FFmt)

/-- The magnitude of code c in units of the format's smallest one, the code after the largest finite one included. -/
def FFmt.mag (c : Nat) : Nat := f.codeSig c * 2 ^ (c >>> f.man - 1)

theorem mag_of_fields {ex frac : Nat} (hfrac : frac < 2 ^ f.man) :
    f.mag (2 ^ f.man * ex + frac) = (if ex = 0 then frac else frac + 2 ^ f.man) * 2 ^ (ex - 1) := by
  have hex : (2 ^ f.man * ex + frac) >>> f.man = ex := by
    rw [Nat.shiftRight_eq_div_pow, Nat.mul_add_div (Nat.two_pow_pos _), Nat.div_eq_of_lt hfrac, Nat.add_zero]
  simp only [FFmt.mag, FFmt.codeSig, hex, Nat.mul_add_mod, Nat.mod_eq_of_lt hfrac]

/-- The next code is one unit of its binade above, and past the last code of a binade at the foot of the next one. -/
theorem mag_lt_succ (c : Nat) : f.mag c < f.mag (c + 1) := by
  have hfrac : c % 2 ^ f.man < 2 ^ f.man := Nat.mod_lt _ (Nat.two_pow_pos _)
  rw [← Nat.div_add_mod c (2 ^ f.man)]
  generalize c / 2 ^ f.man = ex, c % 2 ^ f.man = frac at hfrac
  rw [mag_of_fields f hfrac]
  by_cases hlast : frac + 1 < 2 ^ f.man
  · rw [Nat.add_assoc, mag_of_fields f hlast]
    refine Nat.mul_lt_mul_of_pos_right ?_ (Nat.two_pow_pos _)
    split <;> omega
  · have hnext : 2 ^ f.man * ex + frac + 1 = 2 ^ f.man * (ex + 1) + 0 := by rw [Nat.mul_succ]; omega
    rw [hnext, mag_of_fields f (Nat.two_pow_pos _)]
    cases ex with
    | zero => simp; omega
    | succ ex =>
      simp only [Nat.add_one_ne_zero, if_false, Nat.add_one_sub_one, Nat.zero_add, Nat.pow_succ' (n := ex), ← Nat.mul_assoc]
      exact Nat.mul_lt_mul_of_pos_right (by omega) (Nat.two_pow_pos _)

theorem mag_lt_mag {c d : Nat} : f.mag c < f.mag d ↔ c < d := (strictMono_nat_of_lt_succ (mag_lt_succ f)).lt_iff_lt

theorem codeExp_eq (c : Nat) : f.codeExp c = (c >>> f.man - 1 : Nat) + (1 - (f.bias : Int) - f.man) := by
  simp only [FFmt.codeExp]
  generalize c >>> f.man = ex
  split <;> omega

end Magnitudes

/-- A positive factor common to two magnitudes does not change their order. -/
theorem signed_mul_lt {k : Nat} (hk : 0 < k) (s t : Bool) (m n : Nat) : signed s (m * k) < signed t (n * k) ↔ signed s m < signed t n := by
  have hsigned (s : Bool) (m : Nat) : signed s (m * k) = signed s m * k := by cases s <;> simp [signed]
  rw [hsigned, hsigned]
  exact Int.mul_lt_mul_right (by exact_mod_cast hk)

/-- Finite values over exponents that differ by natural numbers from one exponent stand in the order of their magnitudes in its units. -/
theorem lt_fin (s t : Bool) (m n i j : Nat) (q : Int) :
    (FVal.fin s m (i + q)).lt (.fin t n (j + q)) = decide (signed s (m * 2 ^ i) < signed t (n * 2 ^ j)) := by
  have hscale (m i l : Nat) (h : l ≤ i) : m * 2 ^ i = m * 2 ^ (i - l) * 2 ^ l := by rw [Nat.mul_assoc, ← Nat.pow_add, Nat.sub_add_cancel h]
  have hexp (i l : Nat) (h : l ≤ i) : ((i : Int) + q - (l + q)).toNat = i - l := by omega
  have hmin : min ((i : Int) + q) (j + q) = (min i j : Nat) + q := by omega
  simp only [FVal.lt, pow2, hmin]
  rw [hexp i _ (Nat.min_le_left ..), hexp j _ (Nat.min_le_right ..), hscale m i _ (Nat.min_le_left ..), hscale n j _ (Nat.min_le_right ..),
    decide_eq_decide, signed_mul_lt (Nat.two_pow_pos _)]

/-! ## The values of a format in the order of their patterns (R47, R184, R185) -/

section Values

variable {f : FFmt}

/-- The value of a sign and a magnitude code that is no NaN's: an infinity past the largest finite value. -/
def FFmt.val (f : FFmt) (neg : Bool) (c : Nat) : FVal := if c ≤ f.maxCode then .fin neg (f.codeSig c) (f.codeExp c) else .inf neg

/-- The place of a sign and a magnitude code, −0 below +0. -/
def codePlace (neg : Bool) (c : Nat) : Int := if neg then -(c : Int) - 1 else c

@[simp] theorem isNan_nan : FVal.nan.isNan = true := rfl

@[simp] theorem val_isNan (neg : Bool) (c : Nat) : (f.val neg c).isNan = false := by
  unfold FFmt.val
  split <;> rfl

@[simp] theorem val_isNeg (neg : Bool) (c : Nat) : (f.val neg c).isNeg = neg := by
  unfold FFmt.val
  split <;> rfl

/-- Values stand in the order of their signed magnitudes, an infinity having that of the code past the largest finite value. -/
theorem val_lt {s t : Bool} {c d : Nat} (hc : c ≤ f.maxCode + 1) (hd : d ≤ f.maxCode + 1) :
    (f.val s c).lt (f.val t d) = decide (signed s (f.mag c) < signed t (f.mag d)) := by
  by_cases hfc : c ≤ f.maxCode <;> by_cases hfd : d ≤ f.maxCode <;> simp only [FFmt.val, hfc, hfd, if_true, if_false]
  · rw [codeExp_eq, codeExp_eq, lt_fin]
    rfl
  · have hmag := (mag_lt_mag f).mpr (show c < d by omega)
    cases s <;> cases t <;> simp [FVal.lt, signed] <;> omega
  · have hmag := (mag_lt_mag f).mpr (show d < c by omega)
    cases s <;> cases t <;> simp [FVal.lt, signed] <;> omega
  · obtain rfl : c = d := by omega
    have hpos := (mag_lt_mag f).mpr (show 0 < c by omega)
    cases s <;> cases t <;> simp [FVal.lt, signed]
    omega

/-- The smaller of two values, −0 being smaller than +0, is the one whose place is lower. -/
theorem val_less {s t : Bool} {c d : Nat} (hc : c ≤ f.maxCode + 1) (hd : d ≤ f.maxCode + 1) :
    ((f.val s c).lt (f.val t d) || ((f.val s c).eq (f.val t d) && (f.val s c).isNeg && !(f.val t d).isNeg))
      = decide (codePlace s c < codePlace t d) := by
  have hlt := mag_lt_mag f (c := c) (d := d)
  have hgt := mag_lt_mag f (c := d) (d := c)
  simp only [FVal.eq, val_isNan, val_isNeg, val_lt hc hd, val_lt hd hc]
  rw [Bool.eq_iff_iff]
  cases s <;> cases t <;> simp [signed, codePlace]
  all_goals omega

end Values

/-! ## Patterns -/

section Patterns

variable {f : FFmt}

/-- The sign and the magnitude code of a pattern (R47). -/
def FFmt.sign (f : FFmt) (b : Nat) : Bool := decide (b / 2 ^ (f.width - 1) % 2 = 1)
def FFmt.code (f : FFmt) (b : Nat) : Nat := b % 2 ^ (f.width - 1)

/-- A format with infinities whose magnitude codes past the infinity's are its NaNs: those of IEEE 754 (R47). -/
def FFmt.Ieee (f : FFmt) : Prop := f.hasInf = true ∧ (2 ^ (f.width - 1 - f.man) - 1) * 2 ^ f.man = f.maxCode + 1 ∧ 0 < f.width

theorem fp32_ieee : fp32.Ieee := by unfold FFmt.Ieee; decide
theorem fp64_ieee : fp64.Ieee := by unfold FFmt.Ieee; decide

theorem nanBits_iff (hf : f.Ieee) {b : Nat} : nanBits f.width f.man b = true ↔ f.maxCode + 1 < f.code b := by
  obtain ⟨-, hnan, -⟩ := hf
  rw [nanBits, hnan, decide_eq_true_iff]
  rfl

theorem decode_of_nan {b : Nat} (hnan : f.maxCode + 1 < f.code b) : f.decode b = .nan := by
  unfold FFmt.code at hnan
  have hfin : ¬b % 2 ^ (f.width - 1) ≤ f.maxCode := by omega
  have hinf : ¬b % 2 ^ (f.width - 1) = f.maxCode + 1 := by omega
  simp [FFmt.decode, hfin, hinf]

theorem decode_of_not_nan (hf : f.Ieee) {b : Nat} (hcode : f.code b ≤ f.maxCode + 1) : f.decode b = f.val (f.sign b) (f.code b) := by
  obtain ⟨hinf, -, -⟩ := hf
  unfold FFmt.code at hcode
  simp only [FFmt.decode, FFmt.val, FFmt.code, FFmt.sign]
  by_cases hfin : b % 2 ^ (f.width - 1) ≤ f.maxCode
  · simp [hfin]
  · have htop : b % 2 ^ (f.width - 1) = f.maxCode + 1 := by omega
    simp [hinf, htop]

section Place

variable (hf : f.Ieee) {a b : Nat} (ha : a < 2 ^ f.width) (hb : b < 2 ^ f.width)
include hf hb

theorem code_of_high (hhigh : 2 ^ (f.width - 1) ≤ b) : f.code b = b - 2 ^ (f.width - 1) := by
  obtain ⟨-, -, hwidth⟩ := hf
  have htwice : 2 ^ f.width = 2 ^ (f.width - 1) * 2 := by rw [← Nat.pow_succ, Nat.succ_eq_add_one, Nat.sub_add_cancel hwidth]
  rw [FFmt.code, Nat.mod_eq_sub_mod hhigh, Nat.mod_eq_of_lt (by omega)]

theorem sign_eq : f.sign b = decide (2 ^ (f.width - 1) ≤ b) := by
  obtain ⟨-, -, hwidth⟩ := hf
  have htwice : 2 ^ f.width = 2 * 2 ^ (f.width - 1) := by rw [← Nat.pow_succ', Nat.succ_eq_add_one, Nat.sub_add_cancel hwidth]
  have hdiv : b / 2 ^ (f.width - 1) < 2 := Nat.div_lt_of_lt_mul (by omega)
  have hone : 1 ≤ b / 2 ^ (f.width - 1) ↔ 1 * 2 ^ (f.width - 1) ≤ b := Nat.le_div_iff_mul_le (Nat.two_pow_pos _)
  rw [FFmt.sign, Nat.mod_eq_of_lt hdiv, decide_eq_decide]
  omega

theorem orderBits_eq : orderBits f.width b = codePlace (f.sign b) (f.code b) := by
  rw [sign_eq hf hb, orderBits, codePlace]
  by_cases hlow : b < 2 ^ (f.width - 1)
  · simp [hlow, FFmt.code, Nat.mod_eq_of_lt hlow]
  · simp [hlow, FFmt.code]

include ha

/-- A pattern's place tells the pattern. -/
theorem orderBits_inj (h : orderBits f.width a = orderBits f.width b) : a = b := by
  have hmod {c : Nat} (hc : c < 2 ^ f.width) (hhigh : ¬c < 2 ^ (f.width - 1)) := code_of_high hf hc (Nat.le_of_not_lt hhigh)
  unfold FFmt.code at hmod
  unfold orderBits at h
  split at h <;> split at h
  · omega
  · omega
  · omega
  · next hah hbh =>
    rw [hmod ha hah, hmod hb hbh] at h
    omega

/-- One operand of the two, told from the values, is the one told from the patterns; of two operands in one place either is the other. -/
theorem fminmaxBits_eq (larger : Bool) : fminmaxBits f larger a b = minMaxBits f.width f.man f.nanCode larger a b := by
  simp only [fminmaxBits, minMaxBits, nanBits_iff hf]
  by_cases hna : f.maxCode + 1 < f.code a <;> by_cases hnb : f.maxCode + 1 < f.code b
  · simp [decode_of_nan hna, decode_of_nan hnb, hna, hnb]
  · simp [decode_of_nan hna, decode_of_not_nan hf (Nat.le_of_not_lt hnb), hna, hnb]
  · simp [decode_of_nan hnb, decode_of_not_nan hf (Nat.le_of_not_lt hna), hna, hnb]
  · rw [decode_of_not_nan hf (Nat.le_of_not_lt hna), decode_of_not_nan hf (Nat.le_of_not_lt hnb),
      val_less (Nat.le_of_not_lt hna) (Nat.le_of_not_lt hnb), ← orderBits_eq hf ha, ← orderBits_eq hf hb]
    simp only [val_isNan, hna, hnb, and_self, if_false, Bool.false_eq_true]
    rcases lt_trichotomy (orderBits f.width a) (orderBits f.width b) with hlt | heq | hgt
    · simp [hlt, hlt.le]
    · simp [orderBits_inj hf ha hb heq]
    · simp [not_lt_of_gt hgt, not_le_of_gt hgt]

end Place

end Patterns

theorem fminmaxBits_fp32 (larger : Bool) (a b : Word) :
    fminmaxBits fp32 larger a.toNat b.toNat = minMaxBits 32 23 0x7FC00000 larger a.toNat b.toNat := fminmaxBits_eq fp32_ieee a.isLt b.isLt larger

theorem readPair_lt (x : Iss) (n lane : Nat) : readPair x n lane < 2 ^ 64 := by
  have hlow := (readWord x n lane).isLt
  have hhigh := (readWord x (n + 1) lane).isLt
  unfold readPair
  split <;> omega

theorem fminmaxBits_fp64 (larger : Bool) (x : Iss) (n m lane : Nat) : fminmaxBits fp64 larger (readPair x n lane) (readPair x m lane)
    = minMaxBits 64 52 0x7FF8000000000000 larger (readPair x n lane) (readPair x m lane) :=
  fminmaxBits_eq fp64_ieee (readPair_lt ..) (readPair_lt ..) larger

/-- Settles O47: each instruction writes the operand that its values choose, which is the one that the patterns choose. -/
theorem minMaxReturnsAnOperand : Obligations.MinMaxReturnsAnOperand := by
  intro s x act w i
  simp only [← fminmaxBits_fp32, ← fminmaxBits_fp64]
  refine ⟨?fmin, ?fmax, ?fminI, ?fmaxI, ?dmin, ?dmax⟩
  all_goals exact issueWith_bodyWords

end Sys2Proof.Machine
